-- ==== Sys2Proof/Word.lean ====
section
/-!
DEFINITION. The word types of the Frarin and the small closed sets of names the chapters use.
Numbers the spec treats as bits are bit vectors; a closed set of names is an inductive type.
-/
namespace Sys2Proof

/-- A 64-bit register or virtual address (R25, R115). -/
abbrev Word := BitVec 64
/-- An instruction word or a trailing literal (R52). -/
abbrev Word32 := BitVec 32
/-- A byte of memory (R7). -/
abbrev Byte := BitVec 8
/-- A scalar register number s0-s63 (R55). -/
abbrev SReg := BitVec 6
/-- A vector register number v0-v15 (R55). -/
abbrev VReg := BitVec 4
/-- A guard or mask selector (R53, R55). -/
abbrev Sel := BitVec 3

/-- The privilege level a core runs at (R338). -/
inductive Level where
  | user
  | supervisor
  deriving DecidableEq, Repr, Inhabited

/-- The three parts of a superstep a running core can be in, less the wait at the barrier itself (R28). -/
inductive Section where
  | compute
  | exchange
  deriving DecidableEq, Repr, Inhabited

/-- The reliability class of a launch (R302, R358). -/
inductive RelClass where
  | prot
  | detect
  | none
  deriving DecidableEq, Repr, Inhabited

/-- The scopes of a fence, an acquire or a release (R62, R147). -/
inductive Scope where
  | core
  | pond
  | chip
  | dev
  | sys
  deriving DecidableEq, Repr, Inhabited

/-- What a spring receives from another member of a collective instance (R181, R270, R271, R275): a child's subtotal of a tree, a
finished half of a tree from its root, a member's whole contribution where nothing is combined, or word that the member's command
ended as cancelled or aborted. An element carries its poison. -/
inductive Parcel where
  | sub (tree : Nat) (data : List (Word32 × Bool))
  | half (tree : Nat) (data : List (Word32 × Bool))
  | whole (data : List (Word32 × Bool))
  | ended
  deriving DecidableEq, Repr, Inhabited

/-- Where an error of checked storage is (R307): a 64-byte unit of a place by its number, a line of an L2 slice by its position among those
held, a line of a core's L1 by its position, or the flit that brings a core its next unit. -/
inductive ErrorPlace where
  | unit (n : Nat)
  | slice (n : Nat)
  | l1 (core n : Nat)
  | flit (core : Nat)
  deriving DecidableEq, Repr, Inhabited

/-- An entry of a partition's peer table (R279): a peer number, whether it is the partition itself, and the device and partition it
stands for. -/
structure Peer where
  num : Nat
  own : Bool
  device : Nat
  part : Nat
  deriving DecidableEq, Repr, Inhabited

end Sys2Proof
end

