-- ==== Sys2Proof/Config.lean ====
section
/-!
DEFINITION. What an implementation fixes and the spec leaves open. A constant without a body is a free value: nothing can be
proved about it beyond its type (logs 1, 4, 5, 9).
-/
namespace Sys2Proof.Config

/-! ## Sizes of the device (R2, R6) -/

/-- Cores in the device (R2). -/
def numCores : Nat := 655360
/-- Cores in one row of the device (R2, R6). -/
def rowLen : Nat := 1280
/-- Logical compute chiplets (R2). -/
def numChips : Nat := 320
/-- Springs (R2). -/
def numSprings : Nat := 32
/-- Partitions (R2). -/
def numParts : Nat := 32
/-- Ponds in one row of the pond mesh (R2). -/
def pondRow : Nat := 320
/-- Ponds in the device (R2). -/
def numPonds : Nat := 81920

/-! ## Free values -/

/-- Fabric cycles of wall time that pass at step n: the spec fixes no duration of a step (log 5). -/
opaque elapsed : Nat → Nat
/-- Which of n entries of a full TLB or walk cache is replaced at a step: the policy is left open (R319). -/
opaque victim : Nat → Nat → Nat
/-- What a byte of a channel reads after the channel's key was destroyed: noise (R382). -/
opaque noise : Nat → Nat → Byte
/-- Whether a load performed at a home slice renews the bytes its core's L1 keeps of what it reads, at step n: the order of the writes
decides it, which the state does not record (R137, R149; log 74). -/
opaque renews : Nat → Bool
/-- A free natural number of step n: how many words of a packet had left a core when it was killed (R311). -/
opaque freeNat : Nat → Nat

/-- The bits of a record of numbers of a pair's core, in the order they enter its fingerprint (R314): the layout is left open. -/
opaque recordBits : List Nat → List Bool
/-- A bit taken into a CRC-64 with the ECMA-182 polynomial (R314). -/
def crcBit (c : BitVec 64) (b : Bool) : BitVec 64 := (c <<< 1) ^^^ if c.getLsbD 63 != b then 0x42F0E1EBA9EA3693 else 0
/-- The fingerprint of a pair's core after a record of numbers (R314). -/
def fingerprint (c : BitVec 64) (l : List Nat) : BitVec 64 := (recordBits l).foldl crcBit c
/-- Whether the clock that reaches a chiplet at a step is a valid one: the spec does not say when one is not (R351, R353). -/
opaque clockValid : Nat → Bool
/-- Sites of the wafer that failed its test: row and site (R375). -/
opaque waferDead : List (Nat × Nat)
/-- The spring that serves the chiplet of a router port, whose temperature limit scales the port's shares (R372). -/
opaque portSpring : Nat → Nat
/-- Bytes a spring moves in a microsecond without an activation cap (R370). -/
opaque springRate : Nat → Nat

/-! ## Named standards and the implementation's constants (log 9) -/

/-- SHAKE256 with an output of 64 bytes, the first the least significant (R380). -/
opaque shake256 : List Byte → BitVec 512
/-- The 64 bytes of a SHAKE256 digest. -/
def digest (l : List Byte) : List Byte := (List.range 64).map fun i => BitVec.ofNat 8 ((shake256 l).toNat / 2 ^ (8 * i))
/-- Falcon-1024 verification of a signature over a digest under Klocel's key (R380). -/
opaque falconVerify : List Byte → List Byte → Bool
/-- A Falcon-1024 signature by the device identity key; the number is the step at which it is made (R381). -/
opaque falconSign : List Byte → Nat → List Byte
/-- The length of the signature made at a step: Falcon's varies, up to 1462 bytes (R381). -/
opaque sigLen : Nat → Nat
/-- The AES-256-GCM key two roots of trust agree by ML-KEM-1024 for a pair of partitions (R379). -/
opaque pairKey : Nat → Nat → Nat → BitVec 256
/-- The IDE key of the link stream, or of a partition's selective stream, that an SPDM session sets at a step (R378). -/
opaque ideKey : Option Nat → Nat → BitVec 256
/-- The memory key the root of trust creates for a partition (R382). -/
opaque memoryKey : Nat → Nat → BitVec 256
/-- The bytes of the device serial number (R381). -/
opaque serialNumber : Nat → Byte
/-- The bytes of the device identity public key (R380, R381). -/
opaque identityKey : Nat → Byte
/-- KSL before its limit, and the bytes of Klocel's signature (R381). -/
opaque klocelLen : Nat
opaque klocelSignature : Nat → Byte
/-- The device certificate (R381): serial number, identity public key, KSL, Klocel's signature of at most 1462 bytes. -/
def certificate : List Byte :=
  let n := klocelLen % 1463
  (List.range 16).map serialNumber ++ (List.range 1793).map identityKey ++ [BitVec.ofNat 8 n, BitVec.ofNat 8 (n / 256)] ++
    (List.range n).map klocelSignature
/-- The edge chiplet whose sequencer handles a partition's queues: the controller's choice (R368). -/
opaque edgeOf : Nat → BitVec 3

end Sys2Proof.Config
end

