-- ==== Sys2Proof/Syntax.lean ====
section
/-!
DEFINITION. The instructions and steps of the Frarin: one constructor for every row of the table of operations and events
(03_formats_and_opcode_map.md R69-R72, 95_what_each_step_holds.md). The fields of an encodable row are the fields of its word;
the operands of a row without a word say which core, unit or partition moves and what the outside world supplies to it.
-/
namespace Sys2Proof

/-- One step of the machine. Core, pond, chiplet, spring and partition operands are numbers; an operand that names nothing the
machine has makes the step one without effect. -/
inductive Instr where
  /-- NOP (R114): Issues, is charged to BUDGET and does nothing else. -/
  | nop
  /-- ADD (R86): Writes a + b, or the sign-extended 32-bit sum for .w. -/
  | add (g : Sel) (d a b : SReg) (w : Bool)
  /-- SUB (R86): Writes a − b, or the 32-bit form for .w. -/
  | sub (g : Sel) (d a b : SReg) (w : Bool)
  /-- MUL (R86): Writes the low, .w, signed-high or unsigned-high product selected by F. -/
  | mul (g : Sel) (d a b : SReg) (f : BitVec 2)
  /-- DIV (R87): Writes the quotient truncated toward zero, never trapping, in signed, unsigned or 32-bit forms. -/
  | div (g : Sel) (d a b : SReg) (f : BitVec 2)
  /-- REM (R87): Writes the remainder with the dividend's sign, never trapping. -/
  | rem (g : Sel) (d a b : SReg) (f : BitVec 2)
  /-- AND (R86): Writes a AND b. -/
  | and (g : Sel) (d a b : SReg)
  /-- OR (R86): Writes a OR b. -/
  | or (g : Sel) (d a b : SReg)
  /-- XOR (R86): Writes a XOR b. -/
  | xor (g : Sel) (d a b : SReg)
  /-- ANDN (R86): Writes a AND NOT b. -/
  | andn (g : Sel) (d a b : SReg)
  /-- SHL (R86): Shifts a left by b's low bits, 64-bit or .w. -/
  | shl (g : Sel) (d a b : SReg) (w : Bool)
  /-- SHR (R86): Shifts a right logically by b's low bits. -/
  | shr (g : Sel) (d a b : SReg) (w : Bool)
  /-- SRA (R86): Shifts a right arithmetically by b's low bits. -/
  | sra (g : Sel) (d a b : SReg) (w : Bool)
  /-- ROT (R86): Rotates a right by b's low bits. -/
  | rot (g : Sel) (d a b : SReg) (w : Bool)
  /-- MIN (R86): Writes the smaller of a and b, signed or unsigned. -/
  | min (g : Sel) (d a b : SReg) (n : Bool)
  /-- MAX (R86): Writes the larger of a and b, signed or unsigned. -/
  | max (g : Sel) (d a b : SReg) (n : Bool)
  /-- CMP (R91): Compares a with b under COND and writes the result to guard GD. -/
  | cmp (g : Sel) (c h : BitVec 3) (a b : SReg)
  /-- SEL (R92): Writes a or b according to the named guard, without trapping on its poison. -/
  | sel (g : Sel) (d a b : SReg) (s : BitVec 3)
  /-- BCNT (R89): Writes the leading-zero, trailing-zero, population count or bit reversal of a. -/
  | bcnt (g : Sel) (d a : SReg) (f : BitVec 2)
  /-- BFX (R89): Extracts a bit field of a, sign- or zero-extended. -/
  | bfx (g : Sel) (d a b : SReg) (n : Bool)
  /-- BFI (R89): Inserts the low bits of a into a field of D. -/
  | bfi (g : Sel) (d a b : SReg)
  /-- GOP (R93): Writes a guard as a logical operation of two guards. -/
  | gop (g : Sel) (d a b f : BitVec 3)
  /-- ADDI (R88): Adds a sign-extended IMM10 to a. -/
  | addi (g : Sel) (d a : SReg) (i : BitVec 10)
  /-- ANDI (R88): ANDs a with a sign-extended IMM10. -/
  | andi (g : Sel) (d a : SReg) (i : BitVec 10)
  /-- ORI (R88): ORs a with a sign-extended IMM10. -/
  | ori (g : Sel) (d a : SReg) (i : BitVec 10)
  /-- XORI (R88): XORs a with a sign-extended IMM10. -/
  | xori (g : Sel) (d a : SReg) (i : BitVec 10)
  /-- SHLI (R88): Shifts a left by an immediate amount, 64-bit or .w. -/
  | shli (g : Sel) (d a : SReg) (w : Bool) (s : BitVec 6)
  /-- SHRI (R88): Shifts a right logically by an immediate amount. -/
  | shri (g : Sel) (d a : SReg) (w : Bool) (s : BitVec 6)
  /-- SRAI (R88): Shifts a right arithmetically by an immediate amount. -/
  | srai (g : Sel) (d a : SReg) (w : Bool) (s : BitVec 6)
  /-- CMPI (R91): Compares a with a sign-extended IMM10 and writes guard GD. -/
  | cmpi (g : Sel) (c h : BitVec 3) (a : SReg) (i : BitVec 10)
  /-- MULI (R88): Writes the low 64 bits of a times a sign-extended IMM10. -/
  | muli (g : Sel) (d a : SReg) (i : BitVec 10)
  /-- LIT (R90): Loads the trailing literal sign-extended, zero-extended or into the high half. -/
  | lit (g : Sel) (d : SReg) (f : BitVec 2) (lit : Word32)
  /-- ADDK (R90): Adds the extended trailing literal to a. -/
  | addk (g : Sel) (d a : SReg) (n : Bool) (lit : Word32)
  /-- CMPK (R91): Compares a with the extended trailing literal and writes guard GD. -/
  | cmpk (g : Sel) (c h : BitVec 3) (a : SReg) (n : Bool) (lit : Word32)
  /-- PADD (R95): Advances a fat pointer by a signed element count from b, with block and range checks. -/
  | padd (g : Sel) (d a b : SReg)
  /-- PADDI (R95): Advances a fat pointer by an immediate element count. -/
  | paddi (g : Sel) (d a : SReg) (i : BitVec 10)
  /-- PTAG (R94): Builds a fat pointer from an address, a type and a block-length code. -/
  | ptag (g : Sel) (d a : SReg) (t : BitVec 4) (b : BitVec 3)
  /-- BR (R96): Branches to its own address plus 4·OFF22 when its guard is 1. -/
  | br (g : Sel) (o : BitVec 22)
  /-- CALL (R96): Writes the link to lr and branches by OFF22. -/
  | call (g : Sel) (o : BitVec 22)
  /-- JR (R97): Jumps to the address in a, optionally writing a link, after poison, alignment and address checks. -/
  | jr (g : Sel) (d a : SReg)
  /-- LOOP (R99): Opens a counted loop body of len words, or skips it when the count is 0. -/
  | loop (g : Sel) (a : SReg) (l : BitVec 10)
  /-- RPT (R100): Opens a repeat frame that captures k instructions and replays them with register staggers. -/
  | rpt (g : Sel) (n : BitVec 6) (k x y z : BitVec 4)
  /-- HALT (R27): Ends the task once its engine commands and earlier writes have completed; at supervisor level ends the interrupted task. -/
  | halt (g : Sel)
  /-- TRAP (R104): Takes cause 0x16 with the code in XVAL and XPC after the trap. -/
  | trap (g : Sel) (n : BitVec 10)
  /-- ERET (R342): Returns from a handler, restoring level, PC, loop and frame state and any nest image. -/
  | eret (g : Sel)
  /-- CSRR (R106): Reads a control register into D under the access table. -/
  | csrr (g : Sel) (d : SReg) (c : BitVec 10)
  /-- CSRW (R106): Writes a control register from a under the access and field checks. -/
  | csrw (g : Sel) (a : SReg) (c : BitVec 10)
  /-- CSRX (R106): Reads the old value of a control register and writes a new one indivisibly. -/
  | csrx (g : Sel) (d a : SReg) (c : BitVec 10)
  /-- STEP (R109): Closes the superstep, opens the next compute section and reloads BUDGET. -/
  | step (g : Sel)
  /-- FWD (R42): Joins a forwarding group: followers stop fetching and the leader waits for its row. -/
  | fwd (g : Sel) (a : SReg)
  /-- FWD_REL (R44): The leader releases its followers to fetch for themselves. -/
  | fwdRel (g : Sel)
  /-- FWD_JOIN (R44): Rejoins a released follower or makes the leader wait for its released followers. -/
  | fwdJoin (g : Sel)
  /-- ECHO (R111): Forms a redundancy pair of the named 2 × 1 sub-rectangle. -/
  | echo (g : Sel) (a : SReg)
  /-- ECHO_END (R111): Ends a pair after a final fingerprint comparison and the release of its store log. -/
  | echoEnd (g : Sel)
  /-- LNCH (R112): Releases at .dev and places a 64-byte launch record into launch queue q, returning its sequence number or full. -/
  | lnch (g : Sel) (d a : SReg) (q : BitVec 3)
  /-- EVW (R113): Waits frozen until an event counter reaches b, then acquires at .dev. -/
  | evw (g : Sel) (a b : SReg)
  /-- EVS (R113): Releases at .dev and adds b to an event counter atomically. -/
  | evs (g : Sel) (a b : SReg)
  /-- LD (R118): Loads size bytes and sign-extends them, through L1 or at a tarn. -/
  | ld (g : Sel) (d a : SReg) (o : BitVec 8) (s : BitVec 2)
  /-- LD_TAG (R119): Tag-checking load from a landing-ring slot, sign-extended. -/
  | ldTag (g : Sel) (d a : SReg) (s : BitVec 2)
  /-- LDZ (R118): Loads size bytes and zero-extends them. -/
  | ldz (g : Sel) (d a : SReg) (o : BitVec 8) (s : BitVec 2)
  /-- LDZ_TAG (R119): Tag-checking load from a landing-ring slot, zero-extended. -/
  | ldzTag (g : Sel) (d a : SReg) (s : BitVec 2)
  /-- ST (R121): Stores D's low bytes with per-byte dirty bits, marking or trapping on poison. -/
  | st (g : Sel) (d a : SReg) (o : BitVec 8) (s : BitVec 2)
  /-- LDA (R123): Acquire load at a scope, performed at the home slice at .pond and above. -/
  | lda (g : Sel) (d a : SReg) (p : BitVec 3) (s : BitVec 2)
  /-- STL (R124): Release at a scope followed by a tagged store. -/
  | stl (g : Sel) (d a : SReg) (p : BitVec 3) (s : BitVec 2)
  /-- AADD (R126): Returning atomic add at the home slice or tarn. -/
  | aadd (g : Sel) (d a b : SReg) (z : Bool)
  /-- AAND (R126): Returning atomic AND. -/
  | aand (g : Sel) (d a b : SReg) (z : Bool)
  /-- AOR (R126): Returning atomic OR. -/
  | aor (g : Sel) (d a b : SReg) (z : Bool)
  /-- AXOR (R126): Returning atomic XOR. -/
  | axor (g : Sel) (d a b : SReg) (z : Bool)
  /-- AMIN (R126): Returning atomic minimum, signed or unsigned. -/
  | amin (g : Sel) (d a b : SReg) (n z : Bool)
  /-- AMAX (R126): Returning atomic maximum, signed or unsigned. -/
  | amax (g : Sel) (d a b : SReg) (n z : Bool)
  /-- AXCH (R126): Atomic exchange. -/
  | axch (g : Sel) (d a b : SReg) (z : Bool)
  /-- ACAS (R126): Atomic compare-and-swap with D as expected value and destination. -/
  | acas (g : Sel) (d a b : SReg) (z : Bool)
  /-- FADDA (R127): Returning FP32 atomic add rounded to nearest-even. -/
  | fadda (g : Sel) (d a b : SReg)
  /-- FAMAX (R127): Returning FP32 atomic maximumNumber. -/
  | famax (g : Sel) (d a b : SReg)
  /-- FAMIN (R127): Returning FP32 atomic minimumNumber. -/
  | famin (g : Sel) (d a b : SReg)
  /-- RADD (R129): No-return add, folded into an update-only line or performed at the home place. -/
  | radd (g : Sel) (a b : SReg) (z : Bool)
  /-- RAND (R129): No-return AND reduction. -/
  | rand (g : Sel) (a b : SReg) (z : Bool)
  /-- ROR (R129): No-return OR reduction. -/
  | ror (g : Sel) (a b : SReg) (z : Bool)
  /-- RXOR (R129): No-return XOR reduction. -/
  | rxor (g : Sel) (a b : SReg) (z : Bool)
  /-- RMIN (R129): No-return minimum reduction, signed or unsigned. -/
  | rmin (g : Sel) (a b : SReg) (n z : Bool)
  /-- RMAX (R129): No-return maximum reduction, signed or unsigned. -/
  | rmax (g : Sel) (a b : SReg) (n z : Bool)
  /-- RFADD (R129): No-return FP32 add reduction into an update-only line. -/
  | rfadd (g : Sel) (a b : SReg)
  /-- RFMAX (R129): No-return FP32 maximumNumber reduction. -/
  | rfmax (g : Sel) (a b : SReg)
  /-- RFMIN (R129): No-return FP32 minimumNumber reduction. -/
  | rfmin (g : Sel) (a b : SReg)
  /-- FENCE_ACQ (R152): Makes earlier reads acquires at a scope and drops released-mode L1 lines at .pond and wider. -/
  | fenceAcq (g : Sel) (p : BitVec 3)
  /-- FENCE_REL (R152): Merges update-only lines, records dirty lines and tags later writes as release writes. -/
  | fenceRel (g : Sel) (p : BitVec 3)
  /-- FENCE_FULL (R152): Performs release then acquire and orders earlier stores before later loads. -/
  | fenceFull (g : Sel) (p : BitVec 3)
  /-- WB (R164): Writes back the core's dirty bytes of a range by mask, keeping the lines. -/
  | wb (g : Sel) (a b : SReg)
  /-- INV (R164): Writes back and drops the core's L1 lines over a range. -/
  | inv (g : Sel) (a b : SReg)
  /-- DSC (R164): Discards in-range dirty bytes and drops lines wholly in range at L1 and home slices. -/
  | dsc (g : Sel) (a b : SReg)
  /-- BAR (R167): Arrives at barrier d of the named instance, rebinding if needed, and waits for the phase. -/
  | bar (g : Sel) (n : BitVec 4) (a : SReg)
  /-- BEXP (R171): Adds an expected byte count to the bound barrier instance's counter. -/
  | bexp (g : Sel) (n : BitVec 4) (a : SReg)
  /-- SEND (R173): Pushes a word into the open packet of an outbound queue. -/
  | send (g : Sel) (q : BitVec 2) (x b : SReg)
  /-- SEND_E (R173): Pushes a word and closes the packet toward a core or landing ring. -/
  | sendE (g : Sel) (q : BitVec 2) (a b : SReg)
  /-- SEND_REL (R155): Releases at a scope, pushes a word and closes the packet, tagging it. -/
  | sendRel (g : Sel) (q : BitVec 2) (a b : SReg) (s : BitVec 3)
  /-- WAKE (R176): Sets the wake flag of a core, after packets already closed toward it. -/
  | wake (g : Sel) (a : SReg)
  /-- SLP (R177): Waits until the wake flag is set or an inbound queue holds a word. -/
  | slp (g : Sel)
  /-- CPY (R253): Queues a copy command on a channel after its checks, registering locks, landing and posts. -/
  | cpy (g : Sel) (a b : SReg) (u : Bool) (h : BitVec 2)
  /-- CPY_CLK (R35): Queues a copy command with a trailing start-offset literal. -/
  | cpyClk (g : Sel) (a b : SReg) (u : Bool) (h : BitVec 2) (clk : Word32)
  /-- CPYQ_WM (R262): Returns the filled-prefix byte count of a channel. -/
  | cpyqWm (g : Sel) (d : SReg) (h : BitVec 2)
  /-- CPYQ_OUT (R262): Returns the number of commands in a channel. -/
  | cpyqOut (g : Sel) (d : SReg) (h : BitVec 2)
  /-- CPYQ_ST (R262): Returns a channel's completion count and status, clearing CANC, as a .dev acquire. -/
  | cpyqSt (g : Sel) (d : SReg) (h : BitVec 2)
  /-- MMA (R237): Queues a dense matrix multiply from a tarn descriptor after its checks. -/
  | mma (g : Sel) (a : SReg)
  /-- MMA_CLK (R35): Queues a dense matrix multiply with a start-offset literal. -/
  | mmaClk (g : Sel) (a : SReg) (clk : Word32)
  /-- MMSP (R239): Queues a sparse matrix multiply over compressed B records. -/
  | mmsp (g : Sel) (a : SReg)
  /-- MMSP_CLK (R35): Queues a sparse matrix multiply with a start-offset literal. -/
  | mmspClk (g : Sel) (a : SReg) (clk : Word32)
  /-- MMLD (R246): Queues a load of a whole accumulator tile from a tarn. -/
  | mmld (g : Sel) (a b : SReg) (t : Bool)
  /-- MMLD_V (R246): Queues a load of tile rows from a vector register. -/
  | mmldV (g : Sel) (a b : SReg) (c : VReg) (t : Bool)
  /-- MMST (R246): Queues a converted store of a whole tile into a tarn. -/
  | mmst (g : Sel) (a b : SReg) (t : Bool)
  /-- MMST_V (R246): Queues a converted store of tile rows into a vector register. -/
  | mmstV (g : Sel) (a b : SReg) (c : VReg) (t : Bool)
  /-- TLOAD (R283): Queues a load of threshold cells from a column-major image. -/
  | tload (g : Sel) (a b : SReg)
  /-- TEVAL (R286): Queues an evaluation of samples against threshold columns. -/
  | teval (g : Sel) (a : SReg)
  /-- TEVAL_CLK (R35): Queues an evaluation with a start-offset literal. -/
  | tevalClk (g : Sel) (a : SReg) (clk : Word32)
  /-- TLV (R288): Queues a summation of leaf values per sample. -/
  | tlv (g : Sel) (a : SReg)
  /-- COLL (R274): Issues a collective after its checks, registering locks, posting, writing back SRC and handing it to the spring. -/
  | coll (g : Sel) (a b : SReg)
  /-- COLL_CLK (R35): Issues a collective with a start-offset literal. -/
  | collClk (g : Sel) (a b : SReg) (clk : Word32)
  /-- COLLQ_ST (R276): Returns the status of the core's latest collective on a handle. -/
  | collqSt (g : Sel) (d a : SReg)
  /-- COLLQ_DONE (R179): Returns 1 when every collective on the handle has ended, as a .sys acquire. -/
  | collqDone (g : Sel) (d a : SReg)
  /-- RNG (R229): Draws n random elements from the core's generator state. -/
  | rng (g : Sel) (d : VReg) (t : BitVec 4)
  /-- RNG_JUMP (R229): Applies Jump(2^83) to the generator state. -/
  | rngJump (g : Sel) (t : BitVec 4)
  /-- VSHP (R204): Writes SHAPE with a row and column count. -/
  | vshp (g : Sel) (r c : BitVec 4)
  /-- VLD (R211): Loads n elements through a fat pointer, dense, strided or scaled. -/
  | vld (g : Sel) (d : VReg) (a b : SReg)
  /-- VLD_TAG (R213): Tag-checking dense vector load from a landing-ring slot. -/
  | vldTag (g : Sel) (d : VReg) (a b : SReg)
  /-- VST (R211): Stores n elements through a fat pointer, narrowing when scaled. -/
  | vst (g : Sel) (d : VReg) (a b : SReg)
  /-- VGAT (R215): Gathers elements by an index vector. -/
  | vgat (g : Sel) (d : VReg) (a : SReg) (i : VReg)
  /-- VSCT (R215): Scatters elements by an index vector in increasing order. -/
  | vsct (g : Sel) (d : VReg) (a : SReg) (i : VReg)
  /-- VADD (R216): Elementwise add. -/
  | vadd (g : Sel) (d a b : VReg) (t : BitVec 4)
  /-- VSUB (R216): Elementwise subtract. -/
  | vsub (g : Sel) (d a b : VReg) (t : BitVec 4)
  /-- VMUL (R216): Elementwise multiply, or high half for integers. -/
  | vmul (g : Sel) (d a b : VReg) (t : BitVec 4) (h : Bool)
  /-- VFMA (R217): Elementwise fused multiply-add with one rounding. -/
  | vfma (g : Sel) (d a b : VReg) (t : BitVec 4) (f : BitVec 2)
  /-- VMIN (R216): Elementwise minimum. -/
  | vmin (g : Sel) (d a b : VReg) (t : BitVec 4)
  /-- VMAX (R216): Elementwise maximum. -/
  | vmax (g : Sel) (d a b : VReg) (t : BitVec 4)
  /-- VDIV (R216): Elementwise correctly rounded division. -/
  | vdiv (g : Sel) (d a b : VReg) (t : BitVec 4)
  /-- VSQR (R216): Elementwise correctly rounded square root. -/
  | vsqr (g : Sel) (d a : VReg) (t : BitVec 4)
  /-- VSFN (R218): Elementwise special function selected by F. -/
  | vsfn (g : Sel) (d a : VReg) (t : BitVec 4) (f : BitVec 6)
  /-- VCVT (R219): Converts each element from the source type to the destination type. -/
  | vcvt (g : Sel) (d a : VReg) (t s : BitVec 4)
  /-- VCMP (R220): Compares elements and writes a mask. -/
  | vcmp (g : Sel) (m : BitVec 3) (a b : VReg) (t : BitVec 4) (c : BitVec 3)
  /-- VSEL (R221): Selects elements of VA or VB by a mask. -/
  | vsel (g : Sel) (d a b : VReg) (t : BitVec 4) (m : BitVec 3)
  /-- VRED (R223): Reduces elements by a fixed pairwise tree over all, rows or columns. -/
  | vred (g : Sel) (d a : VReg) (t : BitVec 4) (x : BitVec 2) (o : BitVec 3)
  /-- VINT (R224): Elementwise bit operation selected by F. -/
  | vint (g : Sel) (d a b : VReg) (t : BitVec 4) (f : BitVec 6)
  /-- VMOV (R225): Copies a vector register. -/
  | vmov (g : Sel) (d a : VReg) (t : BitVec 4)
  /-- VMOV_BC (R225): Broadcasts a scalar's low bits into every element. -/
  | vmovBc (g : Sel) (d : VReg) (s : SReg) (t : BitVec 4)
  /-- VPERM_TR (R226): Transposes the elements under the current shape. -/
  | vpermTr (g : Sel) (d a : VReg) (t : BitVec 4)
  /-- VPERM_IDX (R226): Permutes elements by an index vector. -/
  | vpermIdx (g : Sel) (d a b : VReg) (t : BitVec 4)
  /-- VMSK (R222): Logical operation on 128-bit masks. -/
  | vmsk (g : Sel) (d a b : BitVec 3) (f : BitVec 6)
  /-- VECTOR_PREFIX (R67): X-format prefix giving mask, zeroing, rounding and fourth operand to the following vector instruction. -/
  | vectorPrefix (m : Sel) (z : Bool) (r : BitVec 3) (v : VReg) (w : Word32)
  /-- ILLEGAL_WORD (R77): A fetched word that is not an instruction takes the illegal-instruction trap. -/
  | illegalWord (w : Word32)
  /-- BOUNDARY_EVENT (R340): The highest-priority pending boundary cause is taken at a user-level boundary. -/
  | boundaryEvent
  /-- LATE_RESULT_ARRIVAL (R33): A result arriving after its nominal latency lowers the freeze line. -/
  | lateResultArrival (c : Nat)
  /-- FORWARDING_STARTS (R42): The leader begins forwarding its stream once every follower of its row has arrived. -/
  | forwardingStarts (c : Nat)
  /-- FORWARDING_REJOIN (R44): Forwarding resumes once every released follower has joined or ended. -/
  | forwardingRejoin (c : Nat)
  /-- FWD_WAIT_TIMEOUT (R42): A wait at fwd, fwd.join or echo lasting BARTMO fabric cycles gives a deadline fault. -/
  | fwdWaitTimeout (c : Nat)
  /-- EVW_TIMEOUT (R113): An evw wait lasting BARTMO fabric cycles ends in a deadline fault. -/
  | evwTimeout (c : Nat)
  /-- SLP_TIMEOUT (R177): A slp wait lasting BARTMO fabric cycles ends in a deadline fault. -/
  | slpTimeout (c : Nat)
  /-- ENGINE_WAIT_TIMEOUT (R385): An engine wait lasting BARTMO fabric cycles takes a precise deadline fault. -/
  | engineWaitTimeout (c : Nat)
  /-- TASK_END (R27): A waiting halt ends the task once engine commands and writes have completed. -/
  | taskEnd (c : Nat)
  /-- BARRIER_ROOT_CYCLE (R170): Each fabric cycle the root applies arrivals and landings, completes the phase if due, then applies posts and expectations. -/
  | barrierRootCycle (pond num : Nat)
  /-- BARRIER_CONTINUE (R21): A member continues once it has the completion and met R21, invalidating released-mode L1 lines. -/
  | barrierContinue (c : Nat)
  /-- BARRIER_TIMEOUT (R51): An unfinished phase at timeout faults every member and is abandoned by the root. -/
  | barrierTimeout (pond num : Nat)
  /-- ENGINE_OFFSET_START (R35): An offset command starts when TASKCLK reaches its value, checking R36 and taking a timing fault if locked. -/
  | engineOffsetStart (c : Nat)
  /-- MATRIX_STEP (R238): The arbiter grants a step and the unit forms and accumulates one 32 × 32 block. -/
  | matrixStep (pond : Nat) (rows cols : Word32) (again : Bool)
  /-- MATRIX_COMPLETION (R240): When every C byte is performed the write lock is released and the next command may start. -/
  | matrixCompletion (c : Nat)
  /-- TILE_MOVE (R246): An mmld or mmst command runs as one step moving and converting rows. -/
  | tileMove (c : Nat)
  /-- COPY_START (R250): A copy at its channel head starts once conflicting locks are released. -/
  | copyStart (c h : Nat)
  /-- COPY_BEAT (R264): The engine moves one 64-byte beat, converting elements and advancing the watermark. -/
  | copyBeat (c h : Nat)
  /-- COPY_COMPLETION (R255): The copy completes, writing the ring tag last and releasing its locks. -/
  | copyCompletion (c h : Nat)
  /-- THRESHOLD_COMMAND_START (R295): The array starts a ready threshold head in round robin or at its start moment. -/
  | thresholdCommandStart (pond : Nat)
  /-- TLOAD_RUN (R283): Cells are written into the array, clearing other rows under CLR and trapping later on malformed images. -/
  | tloadRun (c : Nat)
  /-- TEVAL_RUN (R284): Each sample's leaf per column or pair is formed and written as an index word. -/
  | tevalRun (c : Nat)
  /-- TLV_RUN (R288): Leaf values are summed per sample in increasing tree order and written. -/
  | tlvRun (c : Nat)
  /-- THRESHOLD_COMPLETION (R289): At completion the command's locks are released and its last counted bytes subtracted. -/
  | thresholdCompletion (c : Nat)
  /-- COLLECTIVE_MATCH (R266): The k-th coll on a slot of each member forms one instance, or all are cancelled on mismatch. -/
  | collectiveMatch (id : Nat) (peers : List (List Nat))
  /-- TREE_CONTRIBUTION (R181): A child's result arriving at a tree node is combined in fixed order and sent on when complete. -/
  | treeContribution (p slot ord member : Nat) (x : Parcel)
  /-- COLLECTIVE_COMPLETION (R179): When every DST byte is performed the write lock is released and the member's command completes. -/
  | collectiveCompletion (id : Nat)
  /-- WRITEBACK_MERGE (R136): A write-back arriving at a home slice merges by byte mask. -/
  | writebackMerge (c : Nat)
  /-- FLUSH_REQUEST (R151): A read of a tagged variable at the home slice makes the releasing cache write back recorded lines. -/
  | flushRequest (c : Nat)
  /-- TRANSLATION_WALK (R318): A request missing in L2 is translated at its home spring via TLB, walk cache and table walk. -/
  | translationWalk (c : Nat) (va : Word) (w : Bool) (victim : Nat)
  /-- PAGE_ANSWER (R329): An answer to a page request retries the access, fails the requester or is dropped and counted. -/
  | pageAnswer (p : Nat) (id res : Word)
  /-- HOST_MEMORY_ACCESS (R161): A CXL.mem or CXL.cache access is mapped through the partition's window or blocked. -/
  | hostMemoryAccess (p addr : Nat) (keyed w : Bool) (data : BitVec 512) (mask : BitVec 64)
  /-- HOST_LINK_ERROR (R337): A host-link error delivers poison on reads or drops writes with an event. -/
  | hostLinkError (c : Nat) (p : Nat) (asid : BitVec 16) (va : Nat) (w : Bool)
  /-- PACKET_ARRIVAL (R172): A closed packet enters the destination's inbound queue whole, or lands in a ring slot. -/
  | packetArrival (i : Nat)
  /-- WAKE_ARRIVAL (R176): A wake sets the target core's wake flag. -/
  | wakeArrival (i : Nat)
  /-- RANGE_TABLE_COMMIT (R146): A nonzero commit-word write checks and installs the address-range table. -/
  | rangeTableCommit (p : Nat)
  /-- SET_CLASS (R305): The class command rewrites a granule's class and zeroes it. -/
  | setClass (p : Nat)
  /-- PROBE (R321): The spring walks a VA without caching and reports the stopping entry. -/
  | probe (p : Nat)
  /-- EDIT (R321): The spring edits a table entry indivisibly and drops translations formed from it. -/
  | edit (p : Nat)
  /-- SET_ROOT (R334): Registers or unregisters an ASID's level-1 table and drops its translations. -/
  | setRoot (p : Nat)
  /-- INVALIDATE (R334): Drops TLB and walk-cache entries of an ASID overlapping a range. -/
  | invalidate (p : Nat)
  /-- CLEAN (R334): L2 slices write back and drop an ASID's lines in a range. -/
  | clean (p : Nat)
  /-- MIGRATE (R335): Moves the frame of a leaf to a new frame while holding write-backs. -/
  | migrate (p : Nat)
  /-- ANSWER (R334): The maintenance block delivers a page-request answer. -/
  | answer (p : Nat)
  /-- REGISTER (R278): Registers a buffer in a handle slot with a new generation. -/
  | register (p : Nat) (asid : BitVec 16)
  /-- REVOKE (R278): Revokes a handle slot unless a command on it has not ended. -/
  | revoke (p : Nat) (asid : BitVec 16)
  /-- FORCED_REVOKE (R278): Revokes a slot, aborting its unended commands. -/
  | forcedRevoke (p : Nat) (asid : BitVec 16)
  /-- DOORBELL (R367): A VF doorbell write queues the record window's record on a queue. -/
  | doorbell (v q : Nat)
  /-- VF_ANSWER (R367): A write of VF offset 0x088 delivers a page-request answer. -/
  | vfAnswer (v : Nat) (data : Word)
  /-- REGISTER_WRITE (R367): A write to a register with no row of its own, such as queue bases and indices. -/
  | registerWrite (v off : Nat) (data : Word)
  /-- NSEL_READ (R377): A read of NSEL returns window k and advances the window index. -/
  | nselRead (g : Sel) (d : SReg)
  /-- LAUNCH_RECORD_HANDLING (R360): The sequencer checks a queued record in order, accepting or rejecting it. -/
  | launchRecordHandling (p q : Nat)
  /-- ADMISSION_ROUND (R362): On freed cores or each 1 µs, the sequencer admits, places, resumes or pre-empts launches. -/
  | admissionRound (p : Nat)
  /-- LAUNCH_COMPLETION (R361): After the last task ends the launch completes or fails and signals its counter. -/
  | launchCompletion (p q seq : Nat)
  /-- PARTITION_RESET (R366): Stops the partition, discards caches, advances generations and purges its flits. -/
  | partitionReset (p : Nat)
  /-- OWNERSHIP_CHANGE (R364): The controller adds or removes chiplets or channels on a PF command. -/
  | ownershipChange (p : Nat) (add chan : Bool) (n : Nat)
  /-- EVENT_WRITE (R368): After a 2 µs hold an event is written to the VF event queue with an MSI-X signal. -/
  | eventWrite (p : Nat)
  /-- ENERGY_DECREMENT (R349): Each whole mJ of estimated energy lowers EQUOTA, raising 0x10 at or below zero. -/
  | energyDecrement (c : Nat)
  /-- ENERGY_PERIOD_START (R349): Every 100 ms EQUOTA becomes the grant plus any overdraw. -/
  | energyPeriodStart
  /-- BACKGROUND_ERROR (R307): An error found by eviction, refresh or scrub is counted by the controller. -/
  | backgroundError (place : ErrorPlace) (bad found : Bool)
  /-- PAIR_CHECKPOINT (R314): A pair compares fingerprints and drains or rolls back its store log. -/
  | pairCheckpoint (c : Nat) (upset : BitVec 64)
  /-- BYTE_BUDGET_INTERVAL (R370): Each 1 µs a spring arbiter grants chiplets their byte budgets. -/
  | byteBudgetInterval (spring : Nat) (grants : List (Nat × Nat))
  /-- CLOCK_CHANGE (R372): The controller changes a chiplet's arithmetic clock, freezing its cores briefly. -/
  | clockChange (chip mhz : Nat)
  /-- SPRING_THERMAL_LIMIT (R372): A hot spring scales every partition's share and posts event 0x08. -/
  | springThermalLimit (spring num den : Nat)
  /-- CHIPLET_THERMAL_LIMIT (R372): A hot chiplet is stepped down and its partition receives event 0x07. -/
  | chipletThermalLimit (chip : Nat)
  /-- EDGE_SOURCE_START (R350): An edge source presents its clock to the edge chiplet of its row. -/
  | edgeSourceStart (src x y w h : Nat)
  /-- CLOCK_ARRIVAL (R351): A DARK chiplet locks to the first valid clock, recording source and direction. -/
  | clockArrival (chip : Nat)
  /-- CLOCK_FORWARD (R351): 4096 fabric cycles after locking, a chiplet presents its clock to window neighbours. -/
  | clockForward (chip : Nat)
  /-- CONFIGURED (R374): The configuration image arrives and its digest matches. -/
  | configured (chip : Nat) (image digest : List Byte)
  /-- TESTED (R374): Built-in self-test passes. -/
  | tested (chip : Nat) (ok : Bool)
  /-- TRAINED (R374): Every data bond has trained or been recorded dead. -/
  | trained (chip : Nat) (dead : BitVec 16)
  /-- NSEL_WRITE (R353): The controller sets NSEL bits to avoid dead bonds or reports the window degraded. -/
  | nselWrite
  /-- FORWARDING (R374): The controller releases a trained chiplet after the last NSEL write. -/
  | forwarding (chip : Nat)
  /-- READY (R374): A forwarding chiplet enters READY when its live neighbours forward. -/
  | ready (chip : Nat)
  /-- STATE_LIMIT_EXPIRY (R374): A chiplet exceeding 2^20 fabric cycles in a state enters FENCED. -/
  | stateLimitExpiry (chip : Nat)
  /-- FENCED (R374): A failed check, degraded row or controller command fences a chiplet. -/
  | fenced (chip reason : Nat)
  /-- ROOT_OF_TRUST_BOOT (R380): At reset the root of trust verifies, measures and runs firmware images. -/
  | rootOfTrustBoot (images : List (List Byte × List Byte))
  /-- HOST_LINK_TRAINING (R378): The host port trains as a CXL 3.1 device with fallback widths and speeds. -/
  | hostLinkTraining (link : Nat × Nat) (decoders : List (Nat × Nat × Nat))
  /-- IDE_KEYING (R378): An SPDM session keys a partition's selective stream. -/
  | ideKeying (p : Nat)
  /-- SCALE_OUT_TRAINING (R379): A scale-out port trains or retrains its lanes, dropping failed ones. -/
  | scaleOutTraining (port lanes : Nat)
  /-- LINK_LOST (R379): A port not retrained within 1 ms is lost, ending its collectives. -/
  | linkLost (port : Nat) (users : List Nat)
  /-- PAIR_KEY_AGREEMENT (R379): Two roots of trust agree an AES-256-GCM key for a partition pair, and rekey before 2^48. -/
  | pairKeyAgreement (p peer : Nat)
  /-- FLIT_TAG_FAILURE (R379): A flit whose tag fails is dropped and the link retrains. -/
  | flitTagFailure (port : Nat)
  /-- ATTESTATION_REQUEST (R381): Writing the nonce's last doubleword clears READY and starts a report. -/
  | attestationRequest (v : Nat) (data : Word)
  /-- ATTESTATION_REPORT_READY (R381): The report is formed from one ownership generation and READY is set. -/
  | attestationReportReady (v : Nat)
  /-- PARTITION_CREATION (R142): The management controller creates a partition: it maps and zeroes its range-table page and launch control page, and the root of trust creates its memory key. -/
  | partitionCreation (p self : Nat) (chips chans : List Nat) (peers : List Peer) (shares : Nat × Nat) (springs : List (Nat × Nat)) (htab slots ctab : Word)
  /-- PARTITION_DESTRUCTION (R382): A partition is destroyed and the root of trust destroys its memory key. -/
  | partitionDestruction (p : Nat)
  /-- TOKEN_BUCKET_REFILL (R365): Every 256 fabric cycles, each router port's bucket for partition p gains s_p flits, up to 64. -/
  | tokenBucketRefill (port : Nat)
  deriving DecidableEq, Repr, Inhabited

end Sys2Proof
end

