-- ==== Sys2Proof/Machine/State.lean ====
section
/-!
DEFINITION. The state of one device, as plain data: everything the spec names, INVENTORY.md '## State' line by line. A table with
a key (cores by core number, springs by spring number and so on) is a list of key and value pairs in rising key order, in which
an absent key stands for the reset value of its kind.
-/
namespace Sys2Proof.Machine

/-! ## One core: registers -/

/-- The registers of a core with their poison bits (R25, R53, R85, R205, R206, R234). Register s0 and the queue registers have no
storage of their own; `sp`, `gp`, `vp`, `ap` are the poison bits. -/
structure Regs where
  s : Vector Word 64
  sp : BitVec 64
  g : BitVec 8
  gp : BitVec 8
  v : Vector (BitVec 1024) 16
  vp : Vector (BitVec 32) 16
  m : Vector (BitVec 128) 8
  a : Vector (BitVec 32768) 2
  ap : Vector (BitVec 1024) 2
  deriving DecidableEq, Repr

/-- The control and status registers that hold a value of their own (R107). `CORENUM`, `QSTAT`, `GTIME`, `WMARK`, `BSTATE`,
`BSRC` and `BDIR` are read from elsewhere in the state; `nselIx` is the window index of `NSEL` (R377). -/
structure Csrs where
  taskclk : Word
  budget : BitVec 32
  shape : BitVec 8
  fpctl : BitVec 32
  fpflags : BitVec 32
  b8fmt : BitVec 32
  rect : Word
  rngs0 : Word
  rngs1 : Word
  lcnt : Word
  lbeg : Word
  lend : Word
  frm : Word
  asid : BitVec 16
  xpc : Word
  xcause : BitVec 8
  xval : Word
  xvec : Word
  xstat : BitVec 8
  ebud : BitVec 32
  equota : BitVec 32
  bartmo : BitVec 32
  saveptr : Word
  nselIx : Nat
  deriving DecidableEq, Repr

/-! ## One core: queues, frame, waits -/

/-- A release carried by a packet or a tagged variable (R151, R155). -/
structure Rel where
  core : Nat
  scope : Scope
  deriving DecidableEq, Repr

/-- One word of an inbound queue (R172, R175); `rel` is the release of the packet it opens (R155). -/
structure InWord where
  word : Word
  poison : Bool
  err : Bool
  rel : Option Rel
  deriving DecidableEq, Repr

/-- The open packet of an outbound queue (R48, R172, R344): its words, the address of its opening push, the user-level instructions
issued from that push on, and whether a handler opened it. -/
structure OpenPacket where
  words : List Word
  addr : Word
  count : Nat
  bySup : Bool
  deriving DecidableEq, Repr

/-- An entry of the frame buffer (R346): the captured word and its vector word or literal, none where it has none. -/
structure FrameEntry where
  word : Word32
  pfx : Option Word32
  deriving DecidableEq, Repr

/-- What a core waits at with its task clock stopped (R30). -/
inductive Wait where
  /-- It waits for nothing. -/
  | none
  /-- Waiting at `bar` for a phase of the instance bound to a number (R170), and whether its completion has reached the core. -/
  | barrier (num : Nat) (done : Bool)
  /-- Waiting at `fwd` (R42). -/
  | fwd (desc : BitVec 32)
  /-- Waiting at `fwd.join` (R44). -/
  | join
  /-- Waiting at `echo` (R111). -/
  | echo (desc : BitVec 32)
  deriving DecidableEq, Repr

/-- Why the freeze line of a core is up (R34, R385); `sleep` is not the freeze line but the wait of `slp` (R177), whose instruction
issues again in the same way. -/
inductive FreezeKind where
  | inQueue
  | outQueue
  | engine
  | awaitCounter
  /-- A barrier root holds another instance of this number (R167). -/
  | barrierRoot (num : Nat)
  | pageRequest
  | sideLog
  | checkpoint
  | haltWork
  | sleep
  /-- A vector access between two of its elements (R214). -/
  | element
  deriving DecidableEq, Repr

/-- The freeze a core's next instruction is in: its kind, that instruction's address and the fabric cycle it began. -/
structure Freeze where
  kind : FreezeKind
  pc : Word
  since : Nat
  deriving DecidableEq, Repr

/-- Whether a task runs on the core, and how it ended (R27, R49, R312). -/
inductive Run where
  | idle
  | running
  | stopped
  | ended (failed : Bool)
  deriving DecidableEq, Repr

/-- The launch data a task carries (R25, R312, R358): partition, queue and sequence number, class, budget per superstep, weight cap,
entry, argument block, stack pointer, seed, launch index, whether it is restartable, its energy grant, and the control registers
it starts with. -/
structure Task where
  part : Nat
  queue : Nat
  seq : Nat
  cls : RelClass
  budget : BitVec 32
  cap : Nat
  entry : Word
  args : Word
  sp : Word
  seed0 : Word
  seed1 : Word
  index : Nat
  restart : Bool
  grant : BitVec 32
  rect : Word
  asid : BitVec 16
  ebud : BitVec 32
  bartmo : BitVec 32
  xvec : Word
  deriving DecidableEq, Repr

/-- A core's role in a forwarding group (R41-R46, R110). -/
inductive FwdRole where
  | none
  | leader
  | follower
  | released
  deriving DecidableEq, Repr

/-- A core's role in a redundancy pair (R313). -/
inductive PairRole where
  | none
  | leader
  | follower
  deriving DecidableEq, Repr

/-- One forwarded instruction (R41): its word, the word after it, its address, the leader's guard, the values the leader read that
a pair's follower receives in place of reading them itself (R313), and the leader's loop and frame registers after it, since the
leader decides the stream's control. -/
structure Forwarded where
  word : Word32
  next : Word32
  pc : Word
  guard : Bool
  fed : List (Nat × Nat)
  lcnt : Word
  lbeg : Word
  lend : Word
  frm : Word
  deriving DecidableEq, Repr

/-- A plain store held in a pair's store log (R315). -/
structure Logged where
  ea : Word
  size : Nat
  data : Word
  poison : Bool
  deriving DecidableEq, Repr

/-- What a pair's checkpoint records (R315, R316). -/
structure Checkpoint where
  regs : Regs
  csrs : Csrs
  pc : Word
  sect : Section
  wake : Bool
  loopOn : Bool
  frameOn : Bool
  outq : Vector (Option OpenPacket) 4
  frame : Vector FrameEntry 16
  cyc : Nat
  ready : List (Nat × Nat)
  deriving DecidableEq, Repr

/-- The forwarding group and the redundancy pair of a core: roles, descriptors, the stream a follower has yet to execute, and of a
pair its partner, its store log, the instructions issued since the last checkpoint, that checkpoint and its disagreements. -/
structure Group where
  fwd : FwdRole
  fwdDesc : BitVec 32
  stream : List Forwarded
  /-- Values read by the instruction in hand: recorded by a pair's leader, taken by its follower (R313); value and poison bits. -/
  fed : List (Nat × Nat)
  pair : PairRole
  pairDesc : BitVec 32
  partner : Nat
  storeLog : List Logged
  sinceCheck : Nat
  /-- Words a pair's leader popped since the last checkpoint, with their queue, in order (R316). -/
  popped : List (Nat × InWord)
  saved : Option Checkpoint
  disagreed : Nat
  /-- The address at which the core entered its handler from user level, where its row or pair stopped (R45, R46). -/
  stopAt : Word
  /-- Set where the leader's task has ended: once its stream is executed the follower fetches for itself from here (R46). -/
  leaveAt : Option Word
  /-- The fingerprint of the instructions retired since the last checkpoint (R314). -/
  print : BitVec 64
  /-- A `slp` has taken the wake since the last checkpoint (R316). -/
  woke : Bool
  deriving DecidableEq, Repr

/-- A barrier instance's name (R167): the launch's partition, queue and sequence number, the number, the descriptor, and the members'
rectangle it names. -/
structure BarName where
  part : Nat
  queue : Nat
  seq : Nat
  num : Nat
  desc : BitVec 32
  x : Nat
  y : Nat
  w : Nat
  h : Nat
  deriving DecidableEq, Repr

/-! ## Engine commands -/

/-- Who issued an engine command, and what the command keeps of that moment (R188, R237, R329). -/
structure Issuer where
  core : Nat
  part : Nat
  asid : BitVec 16
  level : Level
  pc : Word
  cls : RelClass
  cap : Nat
  b8 : BitVec 32
  gen : BitVec 16
  deriving DecidableEq, Repr

/-- What a command counts on a barrier (R169): the instance, the transfer's number (0: its landings carry no phase, R260), and the
bytes posted that have not landed. -/
structure Post where
  name : BarName
  xfer : Nat
  left : Nat
  deriving DecidableEq, Repr

/-- A matrix descriptor (R235) of `mma` (`sparse` false) or `mmsp`. -/
structure MmDesc where
  sparse : Bool
  aptr : Word
  bptr : Word
  cptr : Word
  astr : Nat
  bstr : Nat
  cstr : Nat
  osat : Bool
  out : BitVec 4
  wt : Nat
  tile : Nat
  acc : Bool
  isat : Bool
  sb : Bool
  sa : Bool
  spn : Nat
  kt : Nat
  nt : Nat
  mt : Nat
  deriving DecidableEq, Repr

/-- An `mmld` or `mmst` (R245, R246): whether it stores, its tile, the tarn address or row index, the row stride, the format, the
saturation bit, and for the `.v` forms the register and, for `mmld.v`, the value read at issue. -/
structure TileDesc where
  store : Bool
  tile : Nat
  addr : Word
  stride : Nat
  fmt : BitVec 4
  sat : Bool
  vreg : Option VReg
  data : BitVec 1024
  poison : BitVec 32
  /-- Of an `mmst.v`: a later instruction of the core has written the register (R33). -/
  void : Bool
  deriving DecidableEq, Repr

/-- A copy descriptor (R251) with the ring's sequence number and slot size and count (R38, R254). -/
structure CopyDesc where
  src : Word
  dst : Word
  sstr : Nat
  dstr : Nat
  len : Nat
  rows : Nat
  ring : Option (Word × Nat × Nat)
  rm : BitVec 3
  up : Bool
  deriving DecidableEq, Repr

/-- A `tload` (R283): the image address and the control word's fields. -/
structure TloadDesc where
  addr : Word
  row0 : Nat
  nr : Nat
  col0 : Nat
  nc : Nat
  clr : Bool
  deriving DecidableEq, Repr

/-- A `teval` descriptor (R285). -/
structure TevalDesc where
  fptr : Word
  lptr : Word
  fstr : Nat
  lstr : Nat
  ns : Nat
  nf : Nat
  int : Bool
  col0 : Nat
  nc : Nat
  pairs : BitVec 16
  deriving DecidableEq, Repr

/-- A `tlv` descriptor (R287). -/
structure TlvDesc where
  iptr : Word
  vptr : Word
  optr : Word
  istr : Nat
  vstr : Nat
  ns : Nat
  ln : Nat
  nt : Nat
  deriving DecidableEq, Repr

/-- The work of an engine command. -/
inductive Work where
  | mm (d : MmDesc)
  | tile (d : TileDesc)
  | copy (d : CopyDesc)
  | tload (d : TloadDesc)
  | teval (d : TevalDesc)
  | tlv (d : TlvDesc)
  deriving DecidableEq, Repr

/-- An engine command in its queue (R231, R250, R281): its number in issue order, its issuer, its start moment (R35), its counted
bytes, whether it has started, how far it has come, and what a started one still has to report. -/
structure Cmd where
  id : Nat
  issuer : Issuer
  start : Option Word
  /-- Its start moment has passed the checks of R36: it starts as soon as its engine is free (R37). -/
  moment : Bool
  count : Option Post
  started : Bool
  progress : Nat
  wrote : Nat
  /-- The REQID of the page request that holds it (R328). -/
  held : Option Nat
  work : Work
  deriving DecidableEq, Repr

/-- One copy channel (R250, R257, R262). -/
structure Channel where
  cmds : List Cmd
  ended : BitVec 32
  cancelled : Bool
  mark : Word
  bytes : Nat
  deriving DecidableEq, Repr

/-! ## One core -/

/-- A held page request of a core (R328, R329): its REQID and the page. -/
structure HeldPage where
  req : Nat
  page : Nat
  failed : Bool
  /-- The context was stopped since: the access is translated anew (R332). -/
  anew : Bool
  deriving DecidableEq, Repr

/-- What the device keeps of a side-log entry beside its words in the tarn (R330): its number, the ASID, the level, the words it
clears of their marks, and the release of an `stl`, an `evs` or a write after `fence.rel` with the bytes it tags. -/
structure SideEntry where
  num : Nat
  asid : BitVec 16
  level : Level
  clears : BitVec 16
  tagged : BitVec 64
  rel : Option Rel
  deriving DecidableEq, Repr

/-- The vector result of an `mmst.v` that has run and has not arrived: the register, the value and its poison, whether it was issued at
supervisor level, and whether a later instruction has written the register (R33, R246). -/
structure LateResult where
  reg : VReg
  data : BitVec 1024
  poison : BitVec 32
  sup : Bool
  void : Bool
  deriving DecidableEq, Repr

/-- A vector access between two of its elements (R214): the elements read so far, with what was read and the block's scale, each with its
mark, and those stored so far. -/
structure Partway where
  reads : List (Nat × (Nat × Bool) × Nat × Bool)
  writes : List Nat
  deriving DecidableEq, Repr

/-- A core. -/
structure Core where
  regs : Regs
  csrs : Csrs
  pc : Word
  level : Level
  run : Run
  sect : Section
  task : Task
  wait : Wait
  waitSince : Nat
  freeze : Option Freeze
  /-- Boundary causes pending, cause and `XVAL` (R340). -/
  pend : List (Nat × Word)
  inq : Vector (List InWord) 4
  outq : Vector (Option OpenPacket) 4
  sealed : Bool
  wake : Bool
  gen : BitVec 16
  bind : Vector (BitVec 32) 16
  /-- The loop state of the CSRs acts at the current level (R99, R105). -/
  loopOn : Bool
  /-- The frame state of the CSRs acts at the current level (R100, R105). -/
  frameOn : Bool
  /-- What `loopOn` and `frameOn` were when each nest image still to be returned to was written, the latest first (R341, R342). -/
  nests : List (Bool × Bool)
  /-- The elements that a vector instruction accesses in this turn: all, or those listed (R214). -/
  picks : Option (List Nat)
  /-- The accesses that the vector instruction at the pc has made in earlier turns (R214). -/
  partway : Option Partway
  frame : Vector FrameEntry 16
  killed : Bool
  /-- The context's unreported lost store (R331). -/
  loss : Option Word
  /-- The side log's entries in the order they were taken (R330); their words stand in the tarn. -/
  slog : List SideEntry
  pages : List HeldPage
  /-- A fence's release tags the core's later writes (R152). -/
  fenceTag : Option Scope
  /-- The releases whose writes its reads have met since its last acquire (R152). -/
  seen : List Rel
  /-- An error in a flit of the next unit delivered to it (R307). -/
  flit : Option Bool
  group : Group
  matq : List Cmd
  thrq : List Cmd
  chan : Vector Channel 4
  /-- A vector result that has run but has not arrived (R33, R246). -/
  late : Option LateResult
  /-- The fabric cycle and the source of the last packet that entered each inbound queue (R172). -/
  lastIn : Vector (Nat × Nat) 4
  /-- Energy spent toward the next whole mJ, in pJ (R371). -/
  energy : Nat
  /-- User-level instructions issued since the last start or resume (R363). -/
  slice : Nat
  /-- Core cycles run at either level; the interlocks are judged on it (R33). -/
  cyc : Nat
  /-- The cycle at which each register still being written is ready, and the datapath is free (R33, R76). -/
  ready : List (Nat × Nat)
  deriving DecidableEq, Repr

/-! ## Caches -/

/-- A partial result of an update-only line (R129): offset in the line, size in bytes, opcode and function of its operation, value, and
whether a reduction at user level is in it (R326). -/
structure Partial where
  off : Nat
  size : Nat
  op : Nat
  fn : Nat
  value : Word
  user : Bool
  deriving DecidableEq, Repr

/-- A line of an L1 (R129, R140): its tag, valid and dirty bits per byte, data, marks, the words its own stores have marked and those
that one clean store has covered whole since its last write-back (R120), class, whether a release has recorded it (R151), the releases its bytes were written by (R152), an error in its storage and
whether it is uncorrectable (R307), and the partials of an update-only line. Of its dirty bytes, `sup` are those stored at supervisor
level (R326), `overtaken` those that another agent has written at the home slice since (R149), `fenced` those stored since the core's
`fence.rel` (R152). -/
structure L1Line where
  asid : BitVec 16
  line : Nat
  valid : BitVec 64
  dirty : BitVec 64
  sup : BitVec 64
  overtaken : BitVec 64
  fenced : BitVec 64
  data : BitVec 512
  marks : BitVec 16
  sets : BitVec 16
  clears : BitVec 16
  cls : Option (BitVec 2)
  recorded : Bool
  rels : List Rel
  err : Option Bool
  updateOnly : Bool
  parts : List Partial
  deriving DecidableEq, Repr

/-- A line of an L2 slice (R141), with an error in its storage (R307). -/
structure L2Line where
  part : Nat
  asid : BitVec 16
  line : Nat
  data : BitVec 512
  dirty : BitVec 64
  marks : BitVec 16
  cls : BitVec 2
  err : Option Bool
  deriving DecidableEq, Repr

/-- A write-back on its way from an L1 to its home slice (R136, R165), with the words it marks and those it clears of their marks
(R120), recorded by a release or not (R151), and the bytes that a release tags with that release (R124, R152). A `dsc` on its way
carries no bytes: `drop` is how many lines from its own on it drops there, 0 for a write-back (R165). -/
structure WriteBack where
  core : Nat
  part : Nat
  asid : BitVec 16
  line : Nat
  mask : BitVec 64
  data : BitVec 512
  marks : BitVec 16
  clears : BitVec 16
  level : Level
  recorded : Bool
  tagged : BitVec 64
  rel : Option Rel
  drop : Nat
  deriving DecidableEq, Repr

/-- A variable tagged by a release (R151): the place of its bytes (a tarn's, or a partition's and ASID's cached address) and the
releasers. -/
structure Tag where
  tarn : Bool
  part : Nat
  asid : BitVec 16
  addr : Nat
  size : Nat
  rels : List Rel
  deriving DecidableEq, Repr

/-! ## Springs -/

/-- A TLB entry (R319): partition, ASID, first VA covered, log2 of the bytes covered, the leaf as read and its address, and the
addresses of the entries its walk went through (R321). -/
structure TlbEntry where
  part : Nat
  asid : BitVec 16
  base : Nat
  bits : Nat
  leaf : Word
  addr : Nat
  path : List Nat
  deriving DecidableEq, Repr

/-- A walk-cache entry (R319): partition, ASID, level, VA prefix, the table it names and the addresses of the entries it was formed
from, its own the last. -/
structure WalkEntry where
  part : Nat
  asid : BitVec 16
  level : Nat
  pfx : Nat
  table : Nat
  path : List Nat
  deriving DecidableEq, Repr

/-- A page request (R329). -/
structure PageReq where
  id : Nat
  part : Nat
  gen : BitVec 16
  asid : BitVec 16
  core : Nat
  kind : Nat
  cause : Nat
  acc : BitVec 4
  level : Nat
  va : Nat
  time : Nat
  deriving DecidableEq, Repr

/-- Bytes of an L2 line held by its spring: for a page request (KIND 4, R328), or by a migration with the number of the frame's 64-byte
unit (R159). -/
structure HeldLine where
  req : Nat
  frame : Option Nat
  part : Nat
  asid : BitVec 16
  line : Nat
  data : BitVec 512
  mask : BitVec 64
  marks : BitVec 16
  deriving DecidableEq, Repr

/-- A migration in progress in a spring (R159, R335): the partition, the address, its leaf's place, the frames, the size,
and the command's generation. -/
structure Migration where
  part : Nat
  asid : BitVec 16
  va : Nat
  entry : Nat
  old : Nat
  new : Nat
  size : Nat
  gen : Nat
  deriving DecidableEq, Repr

/-- A spring (R303, R319, R328, R335, R370, R372). -/
structure Spring where
  moving : Option Migration
  tlb : List TlbEntry
  walk : List WalkEntry
  /-- Class-map entries that are not unbacked (R303). -/
  classes : List (Nat × BitVec 2)
  seq : Nat
  reqs : List PageReq
  /-- Requests kept while the fault queue is full (R328). -/
  kept : List PageReq
  held : List HeldLine
  /-- Byte budgets granted for the current interval, by chiplet (R370). -/
  budgets : List (Nat × Nat)
  /-- The factor its temperature limit puts on its throughput and on every share of it (R370, R372). -/
  capNum : Nat
  capDen : Nat
  hot : Bool
  deriving DecidableEq, Repr

/-! ## Partitions -/

/-- An address-range entry in force (R143), with its place among the table's 64. -/
structure RangeEntry where
  slot : Nat
  coh : Bool
  place : Nat
  base : Nat
  last : Nat
  slice : Nat
  slog : Nat
  sil : Nat
  spr : BitVec 32
  mil : Nat
  deriving DecidableEq, Repr

/-- A handle slot (R277, R278): generation, whether registered, base, length, owner, and how many `coll` commands it has counted
(R266). -/
structure Handle where
  gen : Nat
  live : Bool
  base : Nat
  len : Nat
  owner : Nat
  colls : Nat
  deriving DecidableEq, Repr

/-- A queued launch record (R360): its sequence number, its slot, its words, and the release of the `lnch` that queued it (R152). -/
structure Queued where
  seq : Nat
  slot : Nat
  words : Vector Word 8
  rel : Option Rel
  deriving DecidableEq, Repr

/-- A launch queue (R360, R362). -/
structure LaunchQueue where
  next : Nat
  given : Word
  queued : List Queued
  /-- Records of the queue that have no final state yet: sequence numbers (R360). -/
  openSeqs : List Nat
  deriving DecidableEq, Repr

/-- An event waiting to be written (R368). -/
structure Event where
  time : Nat
  src : Nat
  type : Nat
  cause : Nat
  queue : Nat
  seq : Nat
  val : Word
  deriving DecidableEq, Repr

/-- The registers of a partition's virtual function (R367, R381). -/
structure Vf where
  faultBase : Word
  faultLog : Word
  faultProd : BitVec 32
  faultCons : BitVec 32
  eventBase : Word
  eventLog : Word
  eventProd : BitVec 32
  eventCons : BitVec 32
  answer : Word
  nonce : List Byte
  page : BitVec 3
  ready : Bool
  asked : Bool
  report : List Byte
  windows : Vector (Vector Word 8) 8
  msix : BitVec 2
  deriving DecidableEq, Repr

/-- A first touch of a slice granule (R145): the range entry's slot, the granule, the home slice it fixed, and the chiplet and the
fabric cycle it came from. -/
structure Touch where
  slot : Nat
  granule : Nat
  home : Nat
  chip : Nat
  at_ : Nat
  deriving DecidableEq, Repr

/-- A partition (R142, R277, R279, R356, R364, R365, R378, R382). -/
structure Part where
  live : Bool
  /-- Ownership generation (R381). -/
  ownGen : Word
  chips : List Nat
  chans : List Nat
  table : List RangeEntry
  /-- First-touch homes (R145). -/
  touched : List Touch
  /-- Command words of the control pages that an `stl.d.sys` has written and whose command has not run, with the core that wrote them
  (R142, R305, R320, R333). -/
  pendingCmds : List (Nat × Nat)
  roots : List (Nat × Nat)
  handles : List (Nat × Handle)
  peers : List Peer
  queues : Vector LaunchQueue 8
  vf : Vf
  events : List Event
  /-- The IDE key of the partition's selective stream, once a session has set it (R378). -/
  ideKey : Option (BitVec 256)
  memKey : Option (BitVec 256)
  /-- Keys agreed with peers, and the flits sent under each (R379). -/
  linkKeys : List (Nat × BitVec 256 × Nat)
  cachedShare : Nat
  messageShare : Nat
  springShares : List (Nat × Nat)
  /-- Chiplets and channels that join at the next admission round (R364). -/
  joinChips : List Nat
  joinChans : List Nat
  /-- The queue whose turn it is among launch queues, and the admissions left of that turn (R362). -/
  rrQueue : Nat
  rrLeft : Nat
  /-- The global time count of the last admission round (R362). -/
  round : Nat
  deriving DecidableEq, Repr

/-! ## Launches -/

/-- A launch's state at the sequencer (R360). -/
inductive LaunchState where
  | accepted
  | running
  | preempted
  | completed
  | failed
  deriving DecidableEq, Repr

/-- A barrier instance at its root (R167-R170, R51). -/
structure Barrier where
  name : BarName
  /-- Its root holds it; else what has reached the root for it waits there (R167). -/
  held : Bool
  phase : Nat
  arrived : List Nat
  counter : BitVec 48
  /-- Transfers whose post was applied, with its phase and whether landings are applied from the next cycle on. -/
  posts : List (Nat × Nat)
  /-- Landings held until their post is applied (R169). -/
  early : List (Nat × Nat)
  /-- First arrival: fabric cycle and timeout (R51). -/
  first : Option (Nat × Nat)
  /-- Events that have reached the root and wait for its next cycle, in order: kind, core, transfer, bytes. -/
  inbox : List (Nat × Nat × Nat × Nat)
  deriving DecidableEq, Repr

/-- A packet in the network or kept with a stopped launch (R172, R345); one of queue 4 without words is a wake (R176). -/
structure Packet where
  src : Nat
  queue : Nat
  /-- A core's number, or the tarn place of a ring's base. -/
  ring : Bool
  dst : Nat
  words : List (Word × Bool)
  err : Bool
  rel : Option Rel
  part : Nat
  /-- Its words have left their core's outbound queue (R172). -/
  left : Bool
  /-- The fabric cycle at which it reached its destination's inbound queue and found no room (R172, R345). -/
  reach : Option Nat
  deriving DecidableEq, Repr

/-- A ring registered by the loader (R258): the launch, the tarn place of its base, K and S. -/
structure Ring where
  part : Nat
  queue : Nat
  seq : Nat
  base : Nat
  slots : Nat
  size : Nat
  deriving DecidableEq, Repr

/-- The bytes or columns a lock covers: bytes of a tarn place, of a partition's and ASID's cached addresses, or columns of a launch. -/
structure Span where
  kind : Nat
  owner : Nat
  lo : Nat
  hi : Nat
  deriving DecidableEq, Repr

/-- An entry of a pond's range-lock table (R132, R157, R238, R254, R281): the command, the spans it covers, whether it is a write
lock, and whether the command is a copy of the pond (its destination has a watermark). -/
structure Lock where
  cmd : Nat
  core : Nat
  spans : List Span
  write : Bool
  copy : Bool
  /-- Its number in the order of registration at its pond, and the fabric cycle at which it was registered (R157). -/
  seq : Nat
  at_ : Nat
  deriving DecidableEq, Repr

/-- An accepted launch (R358-R363): its record and image descriptor as copied, its rectangle, and what a stop keeps of it: its cores
with what the device keeps itself (R346), their commands and locks, barrier instances, packets and columns (R301, R345, R348). -/
structure Launch where
  part : Nat
  queue : Nat
  seq : Nat
  state : LaunchState
  record : Vector Word 8
  image : Vector Word 8
  x : Nat
  y : Nat
  w : Nat
  h : Nat
  accepted : Nat
  started : Nat
  stopping : Bool
  saved : List (Nat × Core)
  barriers : List Barrier
  /-- Locks by pond number. -/
  locks : List (Nat × Lock)
  packets : List Packet
  /-- The columns saved: pond number and launch column (R301). -/
  columns : List (Nat × Nat)
  /-- The save halves of its cores' shares put aside for a launch that runs there: core, bytes, marked words (log entry 89). -/
  aside : List (Nat × Nat × List Nat)
  deriving DecidableEq, Repr

/-! ## Ponds -/

/-- A cell of the threshold array (R282, R291, R293). -/
structure ThrCell where
  mask : Word
  info : Word
  poison : Bool
  deriving DecidableEq, Repr

/-- A cached line held in its home slice for a matrix command that has read it (R240). -/
structure Pin where
  cmd : Nat
  part : Nat
  asid : BitVec 16
  line : Nat
  deriving DecidableEq, Repr

/-- A pond (R233, R238, R240, R291, R295). -/
structure Pond where
  locks : List Lock
  /-- Locks registered since reset. -/
  lockSeq : Nat
  pins : List Pin
  arb : Nat
  /-- The queue being served, its command and the steps left of its grant (R233). -/
  grant : Option (Nat × Nat × Nat)
  /-- Cells that are not all zero and clean by 64·physical column + row. -/
  cells : List (Nat × ThrCell)
  thrNext : Nat
  thrRunning : Option Nat
  copyNext : Nat
  deriving DecidableEq, Repr

/-! ## Collectives -/

/-- How a `coll` stands (R276). -/
inductive CollState where
  | waiting
  | running
  | complete
  | aborted
  | cancelled
  deriving DecidableEq, Repr

/-- A collective descriptor (R178) with the member list read at issue. -/
structure CollDesc where
  src : Word
  dst : Word
  sizes : List Nat
  op : Nat
  lens : List Nat
  frm : BitVec 32
  dest : BitVec 32
  members : List Nat
  deriving DecidableEq, Repr

/-- A `coll` of a core of this device (R265, R266, R274): its partition's slot and its place in the slot's count, its contribution
once read, the parcels sent to other members by rank, the parts of its result written, its bytes performed, and its state. -/
structure Coll where
  id : Nat
  issuer : Issuer
  addr : Word
  handle : BitVec 64
  slot : Nat
  ordinal : Nat
  desc : CollDesc
  start : Option Word
  /-- Its start moment has passed the checks of R36. -/
  moment : Bool
  count : Option Post
  handed : Bool
  state : CollState
  own : Option (List (Word32 × Bool))
  sent : List (Nat × Parcel)
  written : List Nat
  bytes : Nat
  held : Option Nat
  /-- The lowest address of a poisoned element written unmarked (R272). -/
  report : Option Nat
  deriving DecidableEq, Repr

/-- What has come from a peer for the `ordinal`-th `coll` of a slot, held until this device's member issues it (R181). -/
structure Arrival where
  part : Nat
  slot : Nat
  ordinal : Nat
  member : Nat
  parcel : Parcel
  deriving DecidableEq, Repr

/-! ## The chiplets and the module -/

/-- A compute chiplet's bring-up record and clock (R3, R350-R353, R372-R377). -/
structure Chip where
  state : BitVec 3
  src : BitVec 8
  dir : BitVec 2
  /-- The fabric cycle at which it entered its state (R374). -/
  since : Nat
  /-- The fabric cycle at which it locked, and whether it has presented its clock (R351). -/
  locked : Nat
  presented : Bool
  /-- It was fenced before it reached TRAINED (R374). -/
  cut : Bool
  dead : BitVec 16
  fail : Nat
  nselCached : BitVec 320
  nselMessage : BitVec 320
  mhz : Nat
  /-- Its cores are frozen for a clock change until this fabric cycle (R372). -/
  frozenUntil : Nat
  deriving DecidableEq, Repr

/-- A clock presented at an edge of a chiplet that is still on its way or waits there (R350, R351). -/
structure Clock where
  chip : Nat
  dir : BitVec 2
  src : BitVec 8
  at_ : Nat
  deriving DecidableEq, Repr

/-- A scale-out port (R379). -/
structure Port where
  lanes : Nat
  trained : Bool
  lost : Bool
  /-- The fabric cycle at which lock was lost. -/
  lostAt : Option Nat
  deriving DecidableEq, Repr

/-- The rest of the module: bring-up window, host link, root of trust, controller. -/
structure Device where
  window : Option (Nat × Nat × Nat × Nat)
  degraded : Bool
  /-- Every `NSEL` of the window has been written (R353). -/
  routed : Bool
  degradedRows : List Nat
  /-- Sites that entered FENCED before TRAINED: row and site (R375). -/
  deadSites : List (Nat × Nat)
  clocks : List Clock
  /-- Edge sources started (R350). -/
  started : List Nat
  booted : Bool
  firmware : Bool
  /-- The measurement register M, its first byte the least significant (R380). -/
  measure : BitVec 512
  /-- The key of the IDE link stream, once a session has set it (R378). -/
  linkKey : Option (BitVec 256)
  hostLanes : Nat
  hostSpeed : Nat
  /-- The HDM decoders the host has programmed (R161): partition, base and size in host physical addresses. -/
  decoders : List (Nat × Nat × Nat)
  /-- What the last host read was answered: 64 bytes, and the poison indication (R161, R383). -/
  hostReply : Option (BitVec 512 × Bool)
  ports : List (Nat × Port)
  blocked : Word
  errors : Nat
  xfer : Nat
  cmd : Nat
  /-- Tokens of a router port for a partition on a network, by 64·port + 2·partition + network (R365). -/
  tokens : List (Nat × Nat)
  /-- The fabric cycle of a port's last refill. -/
  refills : List (Nat × Nat)
  /-- The global time of the current byte-budget interval of a spring, and the number of the energy period (R349, R370). -/
  intervals : List (Nat × Nat)
  period : Nat
  deriving DecidableEq, Repr

/-- Who moves next: a core, or another agent by one row of the table. -/
inductive Turn where
  | core (c : Nat)
  /-- A core whose vector instruction accesses only the elements listed (R214). -/
  | part (c : Nat) (elems : List Nat)
  | unit (i : Instr)
  deriving DecidableEq, Repr

/-! ## The whole state -/

/-- The state of the device. `mem` holds every byte that is not 0, `marks` the marked words by address divided by 4, both over the
places of Ops.lean (springs, host memory, tarns, control pages); `latent` is the errors in storage not yet met, by 64-byte unit
and whether uncorrectable. `stepNo`, `turns` and `cur` are the model's own (logs 1 and 4). -/
structure State where
  stepNo : Nat
  turns : List Turn
  cur : Nat
  /-- Fabric cycles since device reset (R3). -/
  fabric : Nat
  cores : List (Nat × Core)
  l1 : List (Nat × List L1Line)
  mem : List Host.Cell
  marks : List Nat
  latent : List (Nat × Bool)
  l2 : List L2Line
  flights : List WriteBack
  tags : List Tag
  springs : List (Nat × Spring)
  parts : List (Nat × Part)
  launches : List Launch
  rings : List Ring
  /-- Landings registered at rings (R40): the command or 0 for a packet, the place of the slot's tag, the sequence number. -/
  landings : List (Nat × Nat × Word)
  barriers : List Barrier
  packets : List Packet
  ponds : List (Nat × Pond)
  colls : List Coll
  arrivals : List Arrival
  chips : List (Nat × Chip)
  dev : Device
  deriving DecidableEq, Repr

/-- Why the machine can stop. -/
inductive Fault where
  /-- Raised by `step` when the state names a core the device does not have: no run from reset reaches such a state, so it is safe. -/
  | noSuchCore
  deriving DecidableEq, Repr

/-- What the model does not do. -/
inductive Refusal where
  /-- Raised by `exec` for an instruction that has no meaning yet; it is safe, since nothing is claimed of that instruction. -/
  | notModelled (mnemonic : String)
  deriving DecidableEq, Repr

/-! ## Reset -/

/-- The registers of a core at reset: log 2. -/
def Regs.reset : Regs where
  s := Vector.replicate 64 0
  sp := 0
  g := 0
  gp := 0
  v := Vector.replicate 16 0
  vp := Vector.replicate 16 0
  m := Vector.replicate 8 0
  a := Vector.replicate 2 0
  ap := Vector.replicate 2 0

/-- The control registers at reset (R107; those without a reset value there: log 2). `saveptr` is set per core by `Core.reset`. -/
def Csrs.reset : Csrs where
  taskclk := 0
  budget := 0
  shape := 0
  fpctl := 0
  fpflags := 0
  b8fmt := 0
  rect := 0
  rngs0 := 0
  rngs1 := 0
  lcnt := 0
  lbeg := 0
  lend := 0
  frm := 0
  asid := 0
  xpc := 0
  xcause := 0
  xval := 0
  xvec := 0
  xstat := 0
  ebud := 0
  equota := 0
  bartmo := 0
  saveptr := 0
  nselIx := 0

/-- No task (R25; log 2). -/
def Task.reset : Task where
  part := 0
  queue := 0
  seq := 0
  cls := .none
  budget := 0
  cap := 8
  entry := 0
  args := 0
  sp := 0
  seed0 := 0
  seed1 := 0
  index := 0
  restart := false
  grant := 0
  rect := 0
  asid := 0
  ebud := 0
  bartmo := 0
  xvec := 0

/-- No group and no pair. -/
def Group.reset : Group where
  fwd := .none
  fwdDesc := 0
  stream := []
  fed := []
  pair := .none
  pairDesc := 0
  partner := 0
  storeLog := []
  sinceCheck := 0
  popped := []
  saved := none
  disagreed := 0
  stopAt := 0
  leaveAt := none
  print := 0
  woke := false

/-- An empty channel (R257: the watermark is 0). -/
def Channel.reset : Channel where
  cmds := []
  ended := 0
  cancelled := false
  mark := 0
  bytes := 0

/-- The home tarn of core (x, y) (R6). -/
def homeTarn (x y : Nat) : Nat := (x % 64) / 8 + 8 * ((y % 32) / 8)
/-- The offset of a core's share in its home tarn (R84). -/
def shareOffset (x y : Nat) : Nat := 32768 * (x % 64 % 8 + 8 * (y % 32 % 8))
/-- The tarn-window address, by the own-chiplet code, of an offset in a core's share (R84, R116). -/
def shareVa (c off : Nat) : Word :=
  BitVec.ofNat 64 (0x01FFFFF000000000 + homeTarn (c % 1280) (c / 1280) * 0x200000 + shareOffset (c % 1280) (c / 1280) + off)

/-- A core after device reset (log 2): no task. `SAVEPTR` names the core's own area 1 (R341). -/
def Core.reset (c : Nat) : Core where
  regs := Regs.reset
  csrs := { Csrs.reset with saveptr := shareVa c 0x7000 }
  pc := 0
  level := .user
  run := .idle
  sect := .compute
  task := Task.reset
  wait := .none
  waitSince := 0
  freeze := none
  pend := []
  inq := Vector.replicate 4 []
  outq := Vector.replicate 4 none
  sealed := false
  wake := false
  gen := 0
  bind := Vector.replicate 16 0
  loopOn := true
  frameOn := true
  nests := []
  picks := none
  partway := none
  frame := Vector.replicate 16 { word := 0, pfx := none }
  killed := false
  loss := none
  slog := []
  pages := []
  fenceTag := none
  seen := []
  flit := none
  group := Group.reset
  matq := []
  thrq := []
  chan := Vector.replicate 4 Channel.reset
  late := none
  lastIn := Vector.replicate 4 (0, 0)
  energy := 0
  slice := 0
  cyc := 0
  ready := []

/-- A pond after reset (R291, R292; log 2). -/
def Pond.reset : Pond where
  locks := []
  lockSeq := 0
  pins := []
  arb := 0
  grant := none
  cells := []
  thrNext := 0
  thrRunning := none
  copyNext := 0

/-- A spring after reset: every granule unbacked (R303), nothing cached (R319). -/
def Spring.reset : Spring where
  moving := none
  tlb := []
  walk := []
  classes := []
  seq := 0
  reqs := []
  kept := []
  held := []
  budgets := []
  capNum := 1
  capDen := 1
  hot := false

/-- An empty launch queue. -/
def LaunchQueue.reset : LaunchQueue where
  next := 0
  given := 0
  queued := []
  openSeqs := []

/-- The registers of a VF at reset (log 2). -/
def Vf.reset : Vf where
  faultBase := 0
  faultLog := 0
  faultProd := 0
  faultCons := 0
  eventBase := 0
  eventLog := 0
  eventProd := 0
  eventCons := 0
  answer := 0
  nonce := List.replicate 32 0
  page := 0
  ready := false
  asked := false
  report := []
  windows := Vector.replicate 8 (Vector.replicate 8 0)
  msix := 0

/-- A partition that does not exist. -/
def Part.reset : Part where
  live := false
  ownGen := 0
  chips := []
  chans := []
  table := []
  touched := []
  pendingCmds := []
  roots := []
  handles := []
  peers := []
  queues := Vector.replicate 8 LaunchQueue.reset
  vf := Vf.reset
  events := []
  ideKey := none
  memKey := none
  linkKeys := []
  cachedShare := 0
  messageShare := 0
  springShares := []
  joinChips := []
  joinChans := []
  rrQueue := 7
  rrLeft := 0
  round := 0

/-- A chiplet after device reset: DARK, source 0xFF (R373, R374); the rest log 2. -/
def Chip.reset : Chip where
  state := 0
  src := 0xFF
  dir := 0
  since := 0
  locked := 0
  presented := false
  cut := false
  dead := 0
  fail := 0
  nselCached := 0
  nselMessage := 0
  mhz := 1400
  frozenUntil := 0

/-- An untrained port (R379). -/
def Port.reset : Port where
  lanes := 0
  trained := false
  lost := false
  lostAt := none

/-- The module after reset: no firmware accepted, measurement of 64 zero bytes (R380); the rest log 2. -/
def Device.reset : Device where
  window := none
  degraded := false
  routed := false
  degradedRows := []
  deadSites := []
  clocks := []
  started := []
  booted := false
  firmware := false
  measure := 0
  linkKey := none
  hostLanes := 0
  hostSpeed := 0
  decoders := []
  hostReply := none
  ports := []
  blocked := 0
  errors := 0
  xfer := 0
  cmd := 0
  tokens := []
  refills := []
  intervals := []
  period := 0

/-- The device right after reset: every chiplet DARK (R374), no task, no partition, memory with nothing listed (log 3). -/
def State.reset : State where
  stepNo := 0
  turns := []
  cur := 0
  fabric := 0
  cores := []
  l1 := []
  mem := []
  marks := []
  latent := []
  l2 := []
  flights := []
  tags := []
  springs := []
  parts := []
  launches := []
  rings := []
  landings := []
  barriers := []
  packets := []
  ponds := []
  colls := []
  arrivals := []
  chips := []
  dev := Device.reset

end Sys2Proof.Machine
end

