-- ==== Sys2Proof/Machine/Maps.lean ====
section
/-!
DEFINITION. Lists of key and value pairs in rising key order, and memory held that way: an absent address reads 0 (log 3), and no
entry holds 0, so that equal memories are equal lists.
-/
namespace Sys2Proof.Machine

variable {α : Type}

/-- The value at a key. -/
def find : List (Nat × α) → Nat → Option α
  | [], _ => none
  | (k, v) :: rest, i => if k = i then some v else find rest i

/-- The list with a value put at a key. -/
def put : List (Nat × α) → Nat → α → List (Nat × α)
  | [], i, x => [(i, x)]
  | (k, v) :: rest, i, x => if i < k then (i, x) :: (k, v) :: rest else if i = k then (i, x) :: rest else (k, v) :: put rest i x

/-- The list without a key. -/
def del : List (Nat × α) → Nat → List (Nat × α)
  | [], _ => []
  | (k, v) :: rest, i => if k = i then rest else (k, v) :: del rest i

/-- The numbers of a rising list with one put in. -/
def insertNat : List Nat → Nat → List Nat
  | [], i => [i]
  | k :: rest, i => if i < k then i :: k :: rest else if i = k then k :: rest else k :: insertNat rest i

/-- The keys rise strictly. -/
def sortedKeys : List (Nat × α) → Bool
  | [] => true
  | [_] => true
  | (a, _) :: (b, y) :: rest => decide (a < b) && sortedKeys ((b, y) :: rest)

/-- Memory (R139): address and byte pairs. -/
abbrev Memory := List Host.Cell

/-- What an address that is not listed reads as (log 3). -/
def unlisted : Byte := 0

/-- The canonical form: addresses strictly rising, no entry equal to what an unlisted address reads as. -/
def Memory.wf (m : Memory) : Bool := sortedKeys m && m.all fun c => c.2 != unlisted

/-- The byte at an address. -/
def readByte (m : Memory) (a : Nat) : Byte := (find m a).getD unlisted

/-- Memory with one byte written. -/
def writeByte (m : Memory) (a : Nat) (b : Byte) : Memory := if b = unlisted then del m a else put m a b

/-- The `n` bytes from an address, little-endian (R7). -/
def readNat (m : Memory) (a : Nat) : Nat → Nat
  | 0 => 0
  | n + 1 => (readByte m a).toNat + 256 * readNat m (a + 1) n

/-- The low `n` bytes of a number written from an address, little-endian (R7). -/
def writeNat (m : Memory) (a : Nat) : Nat → Nat → Memory
  | 0, _ => m
  | n + 1, v => writeNat (writeByte m a (BitVec.ofNat 8 v)) (a + 1) n (v / 256)

/-- The bytes of `v`, from an address on, whose bit of `mask` is set. -/
def writeMasked (m : Memory) (a : Nat) : Nat → Nat → Nat → Memory
  | 0, _, _ => m
  | n + 1, v, mask =>
    writeMasked (if mask % 2 = 1 then writeByte m a (BitVec.ofNat 8 v) else m) (a + 1) n (v / 256) (mask / 2)

/-- The first element that meets a test, put to use. -/
def findFirst (p : α → Bool) : List α → Option α
  | [] => none
  | x :: rest => if p x then some x else findFirst p rest

/-- The list with its first element that meets a test replaced. -/
def replaceFirst (p : α → Bool) (y : α) : List α → List α
  | [] => []
  | x :: rest => if p x then y :: rest else x :: replaceFirst p y rest

/-- The list without its first element that meets a test. -/
def dropFirst (p : α → Bool) : List α → List α
  | [] => []
  | x :: rest => if p x then rest else x :: dropFirst p rest

/-- The element at a position. -/
def nth : List α → Nat → Option α
  | [], _ => none
  | x :: _, 0 => some x
  | _ :: rest, n + 1 => nth rest n

/-- Bits [hi : lo] of a number. -/
def bits (v lo n : Nat) : Nat := v / 2 ^ lo % 2 ^ n

/-- The number read as a signed number of `n` bits. -/
def signed (n v : Nat) : Int := if v % 2 ^ n < 2 ^ (n - 1) then (v % 2 ^ n : Nat) else (v % 2 ^ n : Nat) - (2 ^ n : Nat)

/-- An integer reduced to `n` bits. -/
def wrapInt (n : Nat) (i : Int) : Nat := (i % (2 ^ n : Nat)).toNat

/-- The number of set bits among the low `n`. -/
def popCount : Nat → Nat → Nat
  | 0, _ => 0
  | n + 1, v => v % 2 + popCount n (v / 2)

/-- `XorFold(u, k)` (R144): the exclusive OR of the consecutive k-bit fields of a number below 2^57. -/
def xorFold (u k : Nat) : Nat :=
  if k = 0 then 0 else (List.range 57).foldl (fun acc i => acc ^^^ bits u (k * i) k) 0

end Sys2Proof.Machine
end

