-- ==== Sys2Proof/Machine/Places.lean ====
section
/-!
DEFINITION. Where things are: coordinates of cores, ponds, chiplets and tarns (R6), the tarn window (R116), and the places of
bytes in `State.mem`: physical addresses of springs and host memory (R317, R325) below 2^48, tarns from 2^48, and the two
control pages of each partition (R356) from 2^50. Also the accessors of the state's keyed parts.
-/
namespace Sys2Proof.Machine

/-! ## Coordinates (R6) -/

/-- x of a core number. -/
def xOf (c : Nat) : Nat := c % 1280
/-- y of a core number. -/
def yOf (c : Nat) : Nat := c / 1280
/-- The core number of (x, y). -/
def coreAt (x y : Nat) : Nat := x + 1280 * y
/-- The logical chiplet number of a core. -/
def chipOf (c : Nat) : Nat := xOf c / 64 + 20 * (yOf c / 32)
/-- The pond number of a core: x of the pond + 320·y of the pond. -/
def pondOf (c : Nat) : Nat := xOf c / 4 + 320 * (yOf c / 2)
/-- The local core index in its pond (R233). -/
def localIndex (c : Nat) : Nat := xOf c % 4 + 4 * (yOf c % 2)
/-- The core of a pond with a local index. -/
def pondCore (p i : Nat) : Nat := coreAt (p % 320 * 4 + i % 4) (p / 320 * 2 + i / 4)

/-- The physical site of a logical chiplet, if its row has one for it: sites that failed the wafer's test are passed over (R375). -/
def siteOf (n : Nat) : Option Nat :=
  nth ((List.range 21).filter fun i => !Config.waferDead.contains (n / 20, i)) (n % 20)

/-! ## Places of bytes -/

/-- A number's low `n` bytes, little-endian. -/
def natBytes (n v : Nat) : List Byte := (List.range n).map fun i => BitVec.ofNat 8 (v / 2 ^ (8 * i))

/-- The place of a byte of a tarn (R116). -/
def tarnPlace (chip tarn off : Nat) : Nat := 2 ^ 48 + (chip * 32 + tarn) * 2 ^ 21 + off
/-- The place of a byte of a partition's control pages: the range-table page, then the launch control page (R356). -/
def ctlPlace (part off : Nat) : Nat := 2 ^ 50 + part * 8192 + off
/-- The logical chiplet of a tarn place. -/
def placeChip (p : Nat) : Nat := (p - 2 ^ 48) / 2 ^ 26
/-- The place of a core's share (R84). -/
def sharePlace (c off : Nat) : Nat := tarnPlace (chipOf c) (homeTarn (xOf c) (yOf c)) (shareOffset (xOf c) (yOf c) + off)

/-- The address lies in the tarn window: [56:45] all ones (R115). -/
def inWindow (ea : Nat) : Bool := bits ea 45 12 == 0xFFF
/-- The first address of the tarn window, which ends the address space (R115). -/
def windowBase : Nat := 2 ^ 57 - 2 ^ 45
/-- The address lies in one of the two control pages, which every ASID maps at one VA (R356). -/
def inControl (ea : Nat) : Bool := bits ea 13 51 == 0x0001000000000000 / 8192

/-- The place of a tarn-window address, seen from a chiplet, or nothing where R116's CHIP or [35:26] is broken. -/
def windowPlace (own ea : Nat) : Option Nat :=
  let chip := bits ea 36 9
  let chip' := if chip = 0x1FF then own else chip
  if bits ea 26 10 = 0 && chip' < 320 then some (tarnPlace chip' (bits ea 21 5) (bits ea 0 21)) else none

/-! ## Keyed parts of the state -/

/-- A core. -/
def State.core (s : State) (c : Nat) : Core := (find s.cores c).getD (Core.reset c)
/-- The state with a core replaced. -/
def State.setCore (s : State) (c : Nat) (k : Core) : State := { s with cores := put s.cores c k }
/-- The state with a core changed. -/
def State.modCore (s : State) (c : Nat) (f : Core → Core) : State := s.setCore c (f (s.core c))
/-- A core's L1 lines, most recently used first. -/
def State.l1Of (s : State) (c : Nat) : List L1Line := (find s.l1 c).getD []
/-- The state with a core's L1 replaced. -/
def State.setL1 (s : State) (c : Nat) (l : List L1Line) : State := { s with l1 := put s.l1 c l }
/-- A pond. -/
def State.pond (s : State) (p : Nat) : Pond := (find s.ponds p).getD Pond.reset
/-- The state with a pond changed. -/
def State.modPond (s : State) (p : Nat) (f : Pond → Pond) : State := { s with ponds := put s.ponds p (f (s.pond p)) }
/-- A spring. -/
def State.spring (s : State) (n : Nat) : Spring := (find s.springs n).getD Spring.reset
/-- The state with a spring changed. -/
def State.modSpring (s : State) (n : Nat) (f : Spring → Spring) : State :=
  { s with springs := put s.springs n (f (s.spring n)) }
/-- A partition. -/
def State.part (s : State) (p : Nat) : Part := (find s.parts p).getD Part.reset
/-- A partition's selective stream is keyed (R378). -/
def Part.keyed (p : Part) : Bool := p.ideKey.isSome
/-- The state with a partition changed. -/
def State.modPart (s : State) (p : Nat) (f : Part → Part) : State := { s with parts := put s.parts p (f (s.part p)) }
/-- A chiplet. -/
def State.chip (s : State) (n : Nat) : Chip := (find s.chips n).getD Chip.reset
/-- The state with a chiplet changed. -/
def State.modChip (s : State) (n : Nat) (f : Chip → Chip) : State := { s with chips := put s.chips n (f (s.chip n)) }
/-- The global time counter (R3, R369): one count is two fabric cycles. -/
def State.gtime (s : State) : Nat := s.fabric / 2

/-! ## Bytes and marks at places -/

/-- `n` bytes at a place. -/
def State.bytes (s : State) (p n : Nat) : Nat := readNat s.mem p n
/-- The word of a place is marked (R120). -/
def State.marked (s : State) (p : Nat) : Bool := s.marks.contains (p / 4)
/-- Some word that `n` bytes at a place touch is marked. -/
def State.anyMarked (s : State) (p n : Nat) : Bool :=
  n != 0 && (List.range ((p % 4 + n + 3) / 4)).any fun i => s.marks.contains (p / 4 + i)
/-- The state with the words that `n` bytes at a place touch marked. -/
def State.mark (s : State) (p n : Nat) : State :=
  if n = 0 then s else
    { s with marks := (List.range ((p % 4 + n + 3) / 4)).foldl (fun m i => insertNat m (p / 4 + i)) s.marks }
/-- The state with the words that `n` bytes at a place wholly cover unmarked (R120). -/
def State.unmark (s : State) (p n : Nat) : State :=
  { s with marks := s.marks.filter fun w => !(decide (p ≤ 4 * w) && decide (4 * w + 4 ≤ p + n)) }
/-- Clean data written at a place: fully covered words lose their marks, partly covered ones keep them (R120, R121). -/
def State.writeClean (s : State) (p n v : Nat) : State := { s with mem := writeNat s.mem p n v }.unmark p n
/-- Data written at a place with the poison of its source: every word touched is marked (R121). -/
def State.writePlace (s : State) (p n v : Nat) (poison : Bool) : State :=
  if poison then { s with mem := writeNat s.mem p n v }.mark p n else s.writeClean p n v

/-- The marks of the 16 words of a 64-byte unit. -/
def State.lineMarks (s : State) (p : Nat) : BitVec 16 :=
  BitVec.ofNat 16 ((List.range 16).foldl (fun acc i => if s.marks.contains (p / 4 + i) then acc + 2 ^ i else acc) 0)

/-- A mark per word from a mask per byte: the words a mask touches. -/
def touchedWords (mask : Nat) : Nat :=
  (List.range 16).foldl (fun acc i => if bits mask (4 * i) 4 = 0 then acc else acc + 2 ^ i) 0
/-- The words a byte mask wholly covers. -/
def coveredWords (mask : Nat) : Nat :=
  (List.range 16).foldl (fun acc i => if bits mask (4 * i) 4 = 15 then acc + 2 ^ i else acc) 0

/-- A 64-byte unit written by mask at a place: the words the mask wholly covers take the marks given, words partly covered
keep a mark and gain one that is given (R120, R136). -/
def State.writeLine (s : State) (p : Nat) (data : BitVec 512) (mask : BitVec 64) (marks : BitVec 16) : State :=
  let s1 := { s with mem := writeMasked s.mem p 64 data.toNat mask.toNat }
  let touched := touchedWords mask.toNat
  let covered := coveredWords mask.toNat
  (List.range 16).foldl (fun st i =>
    if touched.testBit i && marks.getLsbD i then st.mark (p + 4 * i) 4
    else if covered.testBit i then st.unmark (p + 4 * i) 4 else st) s1

end Sys2Proof.Machine
end

