-- ==== Sys2Proof/Machine/Elems.lean ====
section
/-!
DEFINITION. Element types by T code (R66, R184) and the places of elements behind a fat pointer (R94, R95, R196).
-/
namespace Sys2Proof.Machine

/-- Width in bits of an element of T code `t` (R95, R184). -/
def elemBits (t : Nat) : Nat :=
  match t with
  | 2 | 3 => 4
  | 4 | 5 | 9 | 10 => 16
  | 6 | 7 | 8 => 32
  | _ => 8
/-- Bytes that hold one element, alone. -/
def elemBytes (t : Nat) : Nat := (elemBits t + 7) / 8
/-- The type is one of the integer types (R184). -/
def isIntT (t : Nat) : Bool := t < 8
/-- The integer type is signed (R184). -/
def isSignedT (t : Nat) : Bool := t % 2 == 0
/-- The type names a slot of `B8FMT` (R66). -/
def isB8T (t : Nat) : Bool := 12 ≤ t && t < 16
/-- The slot of `B8FMT` a T code names (R188). -/
def b8Slot (b8 : BitVec 32) (t : Nat) : Nat := bits b8.toNat (8 * (t - 12)) 8
/-- The T code names an unconfigured slot (R188). -/
def b8Unset (b8 : BitVec 32) (t : Nat) : Bool := isB8T t && b8Slot b8 t % 8 == 0

/-- FMT of a fat pointer (R94). -/
def ptrFmt (p : Word) : Nat := bits p.toNat 60 4
/-- BLG of a fat pointer (R94). -/
def ptrBlg (p : Word) : Nat := bits p.toNat 57 3
/-- The address in a fat pointer (R94). -/
def ptrVa (p : Word) : Nat := bits p.toNat 0 57

/-- Elements in a block of a scaled pointer (R196). -/
def blockLen (blg : Nat) : Nat := 16 * 2 ^ (blg - 1)
/-- Bytes of a block with its scale. -/
def blockBytes (t blg : Nat) : Nat := 2 + blockLen blg * elemBits t / 8
/-- Bit offset of element `i` from the pointer's address (R184, R196). -/
def elemBitOff (t blg i : Nat) : Nat :=
  if blg = 0 then i * elemBits t
  else i / blockLen blg * (8 * blockBytes t blg) + 16 + i % blockLen blg * elemBits t
/-- Byte offset of the scale of element `i`'s block (R196). -/
def scaleOff (t blg i : Nat) : Nat := i / blockLen blg * blockBytes t blg
/-- Bytes from a pointer's address to the end of `n` elements (R196). -/
def spanBytes (t blg n : Nat) : Nat :=
  if n = 0 then 0 else (elemBitOff t blg (n - 1) + elemBits t + 7) / 8

end Sys2Proof.Machine
end

