-- ==== Sys2Proof/Machine/Float.lean ====
section
/-!
DEFINITION. Number formats, exact arithmetic and rounding (10_number_formats.md). A value is formed exactly, as an integer times
a power of two with a bit saying that a little more follows, and rounded once into its format (R189).
-/
namespace Sys2Proof.Machine

/-! ## Formats -/

/-- A binary format: its width, whether it has a sign bit, its precision with the hidden bit, the exponent of its smallest normal,
its bias, whether it is of the binary8 family, and whether its extreme codes are infinities (R183, R185). -/
structure Fmt where
  width : Nat
  hasSign : Bool
  prec : Nat
  emin : Int
  b8 : Bool
  inf : Bool
  deriving DecidableEq, Repr

/-- FP32 (R183). -/
def fp32 : Fmt := { width := 32, hasSign := true, prec := 24, emin := -126, b8 := false, inf := true }
/-- BF16 (R183). -/
def bf16 : Fmt := { width := 16, hasSign := true, prec := 8, emin := -126, b8 := false, inf := true }
/-- FP16 (R183). -/
def fp16 : Fmt := { width := 16, hasSign := true, prec := 11, emin := -14, b8 := false, inf := true }

/-- A binary8 format from the low five bits of a slot of `B8FMT` (R185, R188); precision 0 is unconfigured. -/
def b8Fmt (slot : Nat) : Option Fmt :=
  let p := slot % 8
  let uns := slot / 8 % 2 = 1
  if p = 0 then none
  else some { width := 8, hasSign := !uns, prec := p, emin := if uns then 1 - 2 ^ (8 - p) else 1 - 2 ^ (7 - p),
              b8 := true, inf := slot / 16 % 2 = 1 }

/-- The exponent of the format's smallest step. -/
def Fmt.qmin (f : Fmt) : Int := f.emin - (f.prec - 1 : Nat)
/-- The code of the largest finite magnitude. -/
def Fmt.maxCode (f : Fmt) : Nat :=
  if f.b8 then
    let top := if f.hasSign then 0x7F else 0xFE
    if f.inf then top - 1 else top
  else 2 ^ (f.width - 1) - 2 ^ (f.prec - 1) - 1
/-- The canonical NaN (R183, R185). -/
def Fmt.nan (f : Fmt) : Nat :=
  if f.b8 then (if f.hasSign then 0x80 else 0xFF)
  else 2 ^ (f.width - 1) - 2 ^ (f.prec - 2)
/-- The positive poison pattern; binary8 has none but its NaN (R195). -/
def Fmt.poison (f : Fmt) : Nat := if f.b8 then f.nan else 2 ^ (f.width - 1) - 1

/-! ## Values -/

/-- An exact value: (−1)^neg · (m + a little if `more`) · 2^e; `num _ 0 _ false` is a zero with its sign. -/
inductive Exact where
  | nan
  | inf (neg : Bool)
  | num (neg : Bool) (m : Nat) (e : Int) (more : Bool)
  deriving DecidableEq, Repr

/-- The value of a code of a format (R183, R185). -/
def Fmt.decode (f : Fmt) (bits : Nat) : Exact :=
  let neg := f.hasSign && bits.testBit (f.width - 1)
  let mag := if f.hasSign then bits % 2 ^ (f.width - 1) else bits % 2 ^ f.width
  if f.b8 then
    if bits % 256 = f.nan then .nan
    else if f.inf && decide (mag = f.maxCode + 1) then .inf neg
    else
      let fr := mag % 2 ^ (f.prec - 1)
      let e := mag / 2 ^ (f.prec - 1)
      if e = 0 then .num neg fr f.qmin false else .num neg (fr + 2 ^ (f.prec - 1)) (f.qmin + (e - 1 : Nat)) false
  else
    let fr := mag % 2 ^ (f.prec - 1)
    let e := mag / 2 ^ (f.prec - 1)
    if e = 2 ^ (f.width - f.prec) - 1 then (if fr = 0 then .inf neg else .nan)
    else if e = 0 then .num neg fr f.qmin false
    else .num neg (fr + 2 ^ (f.prec - 1)) (f.qmin + (e - 1 : Nat)) false

/-- A floating code of FP32, BF16 or FP16 holds a poison pattern (R195). -/
def Fmt.isPoison (f : Fmt) (bits : Nat) : Bool := !f.b8 && decide (bits % 2 ^ (f.width - 1) = 2 ^ (f.width - 1) - 1)

/-! ## Rounding -/

/-- A rounding mode (R66, R189): its code, 0b001 to 0b101; 0b000 reads as nearest. -/
abbrev Mode := Nat

/-- `FPFLAGS` bits (R191). -/
def flagNX : Nat := 1
/-- Underflow. -/
def flagUF : Nat := 2
/-- Overflow. -/
def flagOF : Nat := 4
/-- Divide by zero. -/
def flagDZ : Nat := 8
/-- Invalid. -/
def flagNV : Nat := 16
/-- Poison seen. -/
def flagPS : Nat := 32

/-- A number of bits. -/
def bitLen (m : Nat) : Nat := if m = 0 then 0 else Nat.log2 m + 1

/-- `m·2^-k` (with `more`) brought to an integer under a mode; the Bool says that it was not exact (R189). -/
def roundShift (mode : Mode) (neg : Bool) (m k : Nat) (more : Bool) : Nat × Bool :=
  let q := m / 2 ^ k
  let r := m % 2 ^ k
  let exact := decide (r = 0) && !more
  let up :=
    if exact then false
    else match mode with
      | 2 => false
      | 3 => neg
      | 4 => !neg
      | _ => k != 0 && (decide (2 * r > 2 ^ k) || (decide (2 * r = 2 ^ k) && (more || decide (q % 2 = 1))))
  (if up then q + 1 else q, !exact)

/-- What a format with no infinities, or saturation, makes of an infinite result (R189); `mode` 0b101 saturates. -/
def Fmt.overflow (f : Fmt) (mode : Mode) (satn neg : Bool) : Nat :=
  let sign := if neg && f.hasSign then 2 ^ (f.width - 1) else 0
  if mode = 5 then sign + f.maxCode
  else if f.inf then sign + f.maxCode + 1
  else if satn then sign + f.maxCode else f.nan

/-- An exact value rounded into a format, with the flags of R191. A negative value of an unsigned binary8 follows R189. -/
def Fmt.round (f : Fmt) (mode : Mode) (satn fz : Bool) : Exact → Nat × Nat
  | .nan => (f.nan, 0)
  | .inf neg =>
    if neg && !f.hasSign then (if mode = 5 then (0, flagNX) else (f.nan, flagNV))
    else (f.overflow mode satn neg, if mode = 5 || !f.inf then flagNX else 0)
  | .num neg m e more =>
    if m = 0 && !more then (if neg && f.hasSign && !f.b8 then 2 ^ (f.width - 1) else 0, 0)
    else
      let sign := if neg && f.hasSign then 2 ^ (f.width - 1) else 0
      let top := e + (bitLen m : Int) - 1
      let q := max (top - (f.prec - 1 : Nat)) f.qmin
      let step (q : Int) : Nat × Bool :=
        if e ≥ q then (m * 2 ^ (e - q).toNat, more) else roundShift mode neg m (q - e).toNat more
      let r := step q
      let code := (q - f.qmin).toNat * 2 ^ (f.prec - 1) + r.1
      -- half a step above the largest finite value
      let maxQ := f.qmin + ((f.maxCode / 2 ^ (f.prec - 1) : Nat) - 1 : Int)
      let maxM := f.maxCode % 2 ^ (f.prec - 1) + 2 ^ (f.prec - 1)
      let q2 := maxQ - 1
      let half :=
        if e ≥ q2 then decide (m * 2 ^ (e - q2).toNat ≥ 2 * maxM + 1)
        else decide (m ≥ (2 * maxM + 1) * 2 ^ (q2 - e).toNat)
      let excess := if mode = 2 || mode = 3 || mode = 4 then decide (code > f.maxCode) else half
      let flags := flagOF + flagNX
      if neg && !f.hasSign && (excess || decide (code ≠ 0)) then
        if mode = 5 then (0, flagNX) else (f.nan, flagNV)
      else if excess then
        match mode with
        | 2 => (sign + f.maxCode, flags)
        | 3 => if neg then (f.overflow mode satn neg, flags) else (sign + f.maxCode, flags)
        | 4 => if neg then (sign + f.maxCode, flags) else (f.overflow mode satn neg, flags)
        | _ => (f.overflow mode satn neg, flags)
      else
        -- tiny after rounding with an unbounded exponent
        let q' := top - (f.prec - 1 : Nat)
        let r' := step q'
        let tiny := decide (q' + (bitLen r'.1 : Int) - 1 < f.emin)
        if fz && decide (code < 2 ^ (f.prec - 1)) && decide (code ≠ 0) then
          (if f.b8 then 0 else sign, flagUF + flagNX)
        else
          let flags := (if r.2 then flagNX else 0) + (if r.2 && tiny then flagUF else 0)
          (if f.b8 && decide (code = 0) then 0 else sign + code, flags)

/-! ## Exact operations -/

/-- The sign of a value. -/
def Exact.neg? : Exact → Bool
  | .nan => false
  | .inf n => n
  | .num n _ _ _ => n

/-- The value with its sign turned. -/
def Exact.negate : Exact → Exact
  | .nan => .nan
  | .inf n => .inf !n
  | .num n m e k => .num (!n) m e k

/-- Zero. -/
def Exact.isZero : Exact → Bool
  | .num _ 0 _ false => true
  | _ => false

/-- NaN. -/
def Exact.isNan : Exact → Bool
  | .nan => true
  | _ => false

/-- The integer m·2^e of a value over the scale 2^q, for e ≥ q. -/
def scaled (neg : Bool) (m : Nat) (e q : Int) : Int :=
  let v := (m * 2 ^ (e - q).toNat : Nat)
  if neg then -(v : Int) else v

/-- The exact sum; an exact zero is +0 unless both are −0, or −0 under the downward mode (R216). The second part is the flags. -/
def addExact (mode : Mode) : Exact → Exact → Exact × Nat
  | .nan, _ => (.nan, 0)
  | _, .nan => (.nan, 0)
  | .inf a, .inf b => if a = b then (.inf a, 0) else (.nan, flagNV)
  | .inf a, _ => (.inf a, 0)
  | _, .inf b => (.inf b, 0)
  | .num na ma ea _, .num nb mb eb _ =>
    let q := min ea eb
    let v := scaled na ma ea q + scaled nb mb eb q
    if v = 0 then
      let sign := if ma = 0 ∧ mb = 0 ∧ na = nb then na else decide (mode = 3)
      (.num sign 0 0 false, 0)
    else (.num (decide (v < 0)) v.natAbs q false, 0)

/-- The exact product (R216, R217). -/
def mulExact : Exact → Exact → Exact × Nat
  | .nan, _ => (.nan, 0)
  | _, .nan => (.nan, 0)
  | .inf a, .inf b => (.inf (a != b), 0)
  | .inf a, .num b m _ _ => if m = 0 then (.nan, flagNV) else (.inf (a != b), 0)
  | .num a m _ _, .inf b => if m = 0 then (.nan, flagNV) else (.inf (a != b), 0)
  | .num na ma ea _, .num nb mb eb _ => (.num (na != nb) (ma * mb) (ea + eb) false, 0)

/-- The quotient, to more bits than any format keeps (R216, R198). -/
def divExact : Exact → Exact → Exact × Nat
  | .nan, _ => (.nan, 0)
  | _, .nan => (.nan, 0)
  | .inf _, .inf _ => (.nan, flagNV)
  | .inf a, .num b _ _ _ => (.inf (a != b), 0)
  | .num a _ _ _, .inf b => (.num (a != b) 0 0 false, 0)
  | .num na ma ea _, .num nb mb eb _ =>
    if mb = 0 then (if ma = 0 then (.nan, flagNV) else (.inf (na != nb), flagDZ))
    else if ma = 0 then (.num (na != nb) 0 0 false, 0)
    else
      let k := 64 + bitLen mb
      let n := ma * 2 ^ k
      (.num (na != nb) (n / mb) (ea - eb - (k : Int)) (decide (n % mb ≠ 0)), 0)

/-- The integer square root by Newton's steps from above. -/
def isqrtFrom (n : Nat) : Nat → Nat → Nat
  | 0, x => x
  | fuel + 1, x =>
    let y := (x + n / x) / 2
    if y < x then isqrtFrom n fuel y else x

/-- The integer square root. -/
def isqrt (n : Nat) : Nat := if n = 0 then 0 else isqrtFrom n 4096 (2 ^ (bitLen n / 2 + 1))

/-- √x (R203, R216). -/
def sqrtExact : Exact → Exact × Nat
  | .nan => (.nan, 0)
  | .inf n => if n then (.nan, flagNV) else (.inf false, 0)
  | .num n m e _ =>
    if m = 0 then (.num n 0 0 false, 0)
    else if n then (.nan, flagNV)
    else
      let odd := e % 2 = 1
      let m' := (if odd then 2 * m else m) * 2 ^ 80
      let e' := (if odd then e - 1 else e) - 80
      let r := isqrt m'
      (.num false r (e' / 2) (decide (r * r ≠ m')), 0)

/-- 1/√x (R203). -/
def rsqrtExact : Exact → Exact × Nat
  | .nan => (.nan, 0)
  | .inf n => if n then (.nan, flagNV) else (.num false 0 0 false, 0)
  | .num n m e _ =>
    if m = 0 then (.inf n, flagDZ)
    else if n then (.nan, flagNV)
    else
      let odd := e % 2 = 1
      let m' := if odd then 2 * m else m
      let e' := if odd then e - 1 else e
      let k : Nat := 160
      let r := isqrt (2 ^ (2 * k) / m')
      (.num false r (-(e' / 2) - (k : Int)) (decide (r * r * m' ≠ 2 ^ (2 * k))), 0)

/-- 1/x (R203). -/
def rcpExact (x : Exact) : Exact × Nat := divExact (.num false 1 0 false) x

/-! ## Exponential and logarithm, to 192 bits -/

/-- ln 2 · 2^192, rounded down. -/
def ln2Scaled : Nat := 0xb17217f7d1cf79abc9e3b39803f2f6af40f343267298b62d

/-- y + y²/2 + … from term `k` on, in units of 2^-192. -/
def expTail (y : Nat) : Nat → Nat → Nat → Nat
  | 0, _, _ => 0
  | fuel + 1, k, term =>
    let t := term * y / (k * 2 ^ 192)
    t + expTail y fuel (k + 1) t

/-- 2^f · 2^192 for f in [0, 1) given in units of 2^-192. -/
def exp2Frac (f : Nat) : Nat := 2 ^ 192 + expTail (f * ln2Scaled / 2 ^ 192) 64 1 (2 ^ 192)

/-- 2^x (R203): exact powers of two are exact; any other result is irrational, so a little more always follows. -/
def exp2Exact : Exact → Exact × Nat
  | .nan => (.nan, 0)
  | .inf n => (if n then .num false 0 0 false else .inf false, 0)
  | .num n m e _ =>
    if m = 0 then (.num false 1 0 false, 0)
    else if decide (e ≥ 0) && (decide (e > 20) || decide (m * 2 ^ e.toNat ≥ 1048576)) then
      -- far outside every format's range
      (.num false 1 (if n then -1048576 else 1048576) true, 0)
    else if (bitLen m : Int) + e < -60 then
      -- 1 plus or minus less than 2^-60
      (if n then .num false (2 ^ 64 - 1) (-64) true else .num false (2 ^ 64) (-64) true, 0)
    else
      -- x = i + f / 2^192
      let r : Nat := m / 2 ^ (-192 - e).toNat
      let v : Int := if e ≥ -192 then scaled n m (e + 192) 0 else if n then -(r : Int) else (r : Int)
      let unit : Nat := 2 ^ 192
      let i := v / (unit : Int)
      let f := (v % (unit : Int)).toNat
      if f = 0 then (.num false 1 i false, 0)
      else if i > 1048576 then (.num false 1 1048576 true, 0)
      else (.num false (exp2Frac f) (i - 192) true, 0)

/-- t³/3 + t⁵/5 + … from the power `p` on, in units of 2^-192. -/
def atanhTail (t2 : Nat) : Nat → Nat → Nat → Nat
  | 0, _, _ => 0
  | fuel + 1, k, p => let p' := p * t2 / 2 ^ 192; p' / k + atanhTail t2 fuel (k + 2) p'

/-- log2 z · 2^192 for z = m / 2^k in (1, 2). -/
def log2Frac (m k : Nat) : Nat :=
  let t := (m - 2 ^ k) * 2 ^ 192 / (m + 2 ^ k)
  let l := 2 * (t + atanhTail (t * t / 2 ^ 192) 64 3 t)
  l * 2 ^ 192 / ln2Scaled

/-- log2 x (R203): exact for powers of two, irrational otherwise. -/
def log2Exact : Exact → Exact × Nat
  | .nan => (.nan, 0)
  | .inf n => if n then (.nan, flagNV) else (.inf false, 0)
  | .num n m e _ =>
    if m = 0 then (.inf true, flagDZ)
    else if n then (.nan, flagNV)
    else
      let k := bitLen m - 1
      let i := e + (k : Int)
      if m = 2 ^ k then (if i = 0 then .num false 0 0 false else .num (decide (i < 0)) i.natAbs 0 false, 0)
      else
        let unit : Nat := 2 ^ 192
        let v := i * (unit : Int) + (log2Frac m k : Int)
        (.num (decide (v < 0)) v.natAbs (-192) true, 0)

/-! ## Comparisons -/

/-- a < b of two values that are not NaN; zeros are equal. -/
def ltExact : Exact → Exact → Bool
  | .nan, _ => false
  | _, .nan => false
  | .inf a, .inf b => a && !b
  | .inf a, _ => a
  | _, .inf b => !b
  | .num na ma ea _, .num nb mb eb _ =>
    let q := min ea eb
    decide (scaled na ma ea q < scaled nb mb eb q)

/-- Equality of value; zeros of either sign are equal. -/
def eqExact (a b : Exact) : Bool := !a.isNan && !b.isNan && !ltExact a b && !ltExact b a

/-- maximumNumber (R127) of two codes: a number wins over a NaN, two NaNs give the canonical NaN, −0 orders below +0. -/
def maxNumber (f : Fmt) (a b : Nat) : Nat :=
  let x := f.decode a
  let y := f.decode b
  if x.isNan && y.isNan then f.nan
  else if x.isNan then b else if y.isNan then a
  else if ltExact x y then b else if ltExact y x then a
  else if x.neg? then b else a

/-- minimumNumber (R127). -/
def minNumber (f : Fmt) (a b : Nat) : Nat :=
  let x := f.decode a
  let y := f.decode b
  if x.isNan && y.isNan then f.nan
  else if x.isNan then b else if y.isNan then a
  else if ltExact x y then a else if ltExact y x then b
  else if x.neg? then a else b

/-- RoundF32(a + b), nearest with ties to even (R127, R202). -/
def addF32 (a b : Nat) : Nat := (fp32.round 1 false false (addExact 1 (fp32.decode a) (fp32.decode b)).1).1

/-! ## Integers -/

/-- An exact value rounded to an integer type of `w` bits (R193): out of range gives the nearer limit with NV; with `wrap` a finite value
wraps instead (R255). -/
def toIntType (mode : Mode) (wrap sgn : Bool) (w : Nat) : Exact → Nat × Nat
  | .nan => (0, flagNV)
  | .inf n => (if n then (if sgn then 2 ^ (w - 1) else 0) else (if sgn then 2 ^ (w - 1) - 1 else 2 ^ w - 1), flagNV)
  | .num n m e more =>
    let r := if e ≥ 0 then (m * 2 ^ e.toNat, more) else roundShift mode n m (-e).toNat more
    let v : Int := if n then -(r.1 : Int) else r.1
    if wrap then (wrapInt w v, 0)
    else
    let lo : Int := if sgn then -(2 ^ (w - 1) : Nat) else 0
    let hi : Int := if sgn then ((2 ^ (w - 1) - 1 : Nat) : Int) else ((2 ^ w - 1 : Nat) : Int)
    if v < lo then (wrapInt w lo, flagNV) else if v > hi then (wrapInt w hi, flagNV)
    else (wrapInt w v, if r.2 then flagNX else 0)

/-- An integer as an exact value. -/
def ofInt (i : Int) : Exact := .num (decide (i < 0)) i.natAbs 0 false

/-- An integer result brought into `w` bits, wrapping or saturating (R209). -/
def fitInt (sat sgn : Bool) (w : Nat) (v : Int) : Nat :=
  let lo : Int := if sgn then -(2 ^ (w - 1) : Nat) else 0
  let hi : Int := if sgn then ((2 ^ (w - 1) - 1 : Nat) : Int) else ((2 ^ w - 1 : Nat) : Int)
  if sat then (if v < lo then wrapInt w lo else if v > hi then wrapInt w hi else wrapInt w v) else wrapInt w v

end Sys2Proof.Machine
end

