-- ==== Sys2Proof/Machine/Convert.lean ====
section
/-!
DEFINITION. Operations on one element: its value by type (R183-R188), conversions (R192, R193, R195, R219), the in-band scales of a
fat pointer (R197, R198), the element operations of the vector instructions (R216-R218, R224) and the special functions (R203).
-/
namespace Sys2Proof.Machine

/-- The format a T code names under `B8FMT`; none for an integer or raw type. -/
def fmtOf (b8 : BitVec 32) (t : Nat) : Option Fmt :=
  match t with
  | 8 => some fp32
  | 9 => some bf16
  | 10 => some fp16
  | _ => if isB8T t then b8Fmt (b8Slot b8 t) else none
/-- The format has poison patterns: FP32, BF16, FP16 (R195). -/
def isWideFloat (t : Nat) : Bool := 8 ≤ t && t < 11
/-- The integer value of an element. -/
def intOf (t v : Nat) : Int := if isSignedT t then signed (elemBits t) v else (v % 2 ^ elemBits t : Nat)
/-- The exact value of an element. -/
def exactOf (b8 : BitVec 32) (t v : Nat) : Exact :=
  match fmtOf b8 t with
  | some f => f.decode v
  | none => ofInt (intOf t v)
/-- An element's bits hold a poison pattern (R195). -/
def isPattern (b8 : BitVec 32) (t v : Nat) : Bool :=
  match fmtOf b8 t with
  | some f => f.isPoison v
  | none => false
/-- The pattern a poisoned element is written with: a wide floating one that holds none gets the positive pattern of its format, any
other keeps its bits (R195). -/
def asPoison (t v : Nat) : Nat :=
  match (if isWideFloat t then fmtOf 0 t else none) with
  | some f => if f.isPoison v then v else f.poison
  | none => v
/-- The sign of a floating element that has poison patterns. -/
def signOf (t v : Nat) : Bool := isWideFloat t && v.testBit (elemBits t - 1)

/-- What arithmetic depends on at its instruction (R189, R190, R209); `wrap` is a copy's, whose integers wrap (R255). -/
structure Env where
  b8 : BitVec 32
  mode : Mode
  sat : Bool
  satn : Bool
  fz : Bool
  wrap : Bool := false
  deriving DecidableEq, Repr

/-- Nearest-even without saturation, as the engines round (R189). -/
def Env.plain (b8 : BitVec 32) : Env := { b8 := b8, mode := 1, sat := false, satn := false, fz := false }

/-- An exact value rounded into a format under an environment. -/
def Env.fit (e : Env) (f : Fmt) (x : Exact) : Nat × Nat := f.round e.mode e.satn e.fz x

/-! ## Conversions -/

/-- The encoding of a poisoned result of a conversion to a type, by the sign of its source (R195). -/
def poisonOf (b8 : BitVec 32) (t : Nat) (neg : Bool) : Nat :=
  match fmtOf b8 t with
  | some f => if f.b8 then f.nan else f.poison + if neg then 2 ^ (f.width - 1) else 0
  | none => 0

/-- A value of one type converted to a destination format (R189, R192, R193): the bits and the flags. -/
def Env.convert (e : Env) (src dst v : Nat) : Nat × Nat :=
  match fmtOf e.b8 src, fmtOf e.b8 dst with
  | some f, some g => e.fit g (f.decode v)
  | some f, none => toIntType e.mode e.wrap (isSignedT dst) (elemBits dst) (f.decode v)
  | none, some g => e.fit g (ofInt (intOf src v))
  | none, none => (if src = dst then v else fitInt e.sat (isSignedT dst) (elemBits dst) (intOf src v), 0)

/-- A converted element with its poison (R195): bits, poison, flags. -/
def Env.convertP (e : Env) (src dst : Nat) (x : Nat × Bool) : Nat × Bool × Nat :=
  if x.2 then (poisonOf e.b8 dst (signOf src x.1), true, flagPS)
  else
    let r := e.convert src dst x.1
    (r.1, false, r.2)

/-- An element converted by `vcvt`: to its own type it stays as it is, but for a NaN, which becomes canonical (R219), and for a poisoned
one, which R195 converts (R208; DEDUCED: log entry 93). -/
def Env.castP (e : Env) (src dst : Nat) (x : Nat × Bool) : Nat × Bool × Nat :=
  if src = dst && !x.2 then
    match fmtOf e.b8 dst with
    | some f => (if (f.decode x.1).isNan then f.nan else x.1, false, 0)
    | none => (x.1, false, 0)
  else e.convertP src dst x

/-- An element of a scaled pointer widened to FP32 (R197): `s` is the block's BF16 scale with its poison. -/
def widen (b8 : BitVec 32) (t : Nat) (x s : Nat × Bool) : Nat × Bool × Nat :=
  if x.2 || s.2 || bf16.isPoison s.1 then (fp32.poison + (if signOf t x.1 then 2 ^ 31 else 0), true, flagPS)
  else
    let p := mulExact (exactOf b8 t x.1) (bf16.decode s.1)
    let r := fp32.round 1 false false p.1
    (r.1, false, p.2 ||| r.2)

/-- An FP32 element narrowed by its block's scale in one rounding (R198). -/
def Env.narrow (e : Env) (t : Nat) (x s : Nat × Bool) : Nat × Bool × Nat :=
  if x.2 || s.2 || bf16.isPoison s.1 then (poisonOf e.b8 t (signOf 8 x.1), true, flagPS)
  else
    let q := divExact (fp32.decode x.1) (bf16.decode s.1)
    match fmtOf e.b8 t with
    | some f => let r := e.fit f q.1; (r.1, false, q.2 ||| r.2)
    | none => let r := toIntType e.mode false (isSignedT t) (elemBits t) q.1; (r.1, false, q.2 ||| r.2)

/-! ## Arithmetic (R216, R217, R224) -/

/-- The result of an element operation with the poison of its sources (R208): positive pattern for a floating type, the computed bits
otherwise; a poisoned element sets PS alone. -/
def Env.result (e : Env) (t : Nat) (r : Nat × Nat) (p : Bool) : Nat × Bool × Nat :=
  if p then (match fmtOf e.b8 t with
    | some f => if f.b8 then r.1 else f.poison
    | none => r.1, true, flagPS)
  else (r.1, false, r.2)

/-- An exact binary operation rounded. -/
def Env.floatOp (e : Env) (f : Fmt) (op : Exact → Exact → Exact × Nat) (a b : Nat) : Nat × Nat :=
  let x := op (f.decode a) (f.decode b)
  let r := e.fit f x.1
  (r.1, x.2 ||| r.2)
/-- An integer operation brought into the type (R209). -/
def Env.intOp (e : Env) (t : Nat) (op : Int → Int → Int) (a b : Nat) : Nat × Nat :=
  (fitInt e.sat (isSignedT t) (elemBits t) (op (intOf t a) (intOf t b)), 0)

/-- `vadd`. -/
def Env.add (e : Env) (t a b : Nat) : Nat × Nat :=
  match fmtOf e.b8 t with
  | some f => e.floatOp f (addExact e.mode) a b
  | none => e.intOp t (· + ·) a b
/-- `vsub`. -/
def Env.sub (e : Env) (t a b : Nat) : Nat × Nat :=
  match fmtOf e.b8 t with
  | some f => e.floatOp f (fun x y => addExact e.mode x y.negate) a b
  | none => e.intOp t (· - ·) a b
/-- `vmul`. -/
def Env.mul (e : Env) (t a b : Nat) : Nat × Nat :=
  match fmtOf e.b8 t with
  | some f => e.floatOp f mulExact a b
  | none => e.intOp t (· * ·) a b
/-- `vmul.hi`: the high half of the exact product. -/
def mulHigh (t a b : Nat) : Nat × Nat :=
  (wrapInt (elemBits t) (intOf t a * intOf t b / ((2 ^ elemBits t : Nat) : Int)), 0)
/-- `vmin`. -/
def Env.min (e : Env) (t a b : Nat) : Nat × Nat :=
  match fmtOf e.b8 t with
  | some f => e.fit f (f.decode (minNumber f a b))
  | none => (if intOf t a ≤ intOf t b then a else b, 0)
/-- `vmax`. -/
def Env.max (e : Env) (t a b : Nat) : Nat × Nat :=
  match fmtOf e.b8 t with
  | some f => e.fit f (f.decode (maxNumber f a b))
  | none => (if intOf t a ≥ intOf t b then a else b, 0)
/-- `vdiv`. -/
def Env.div (e : Env) (t a b : Nat) : Nat × Nat :=
  match fmtOf e.b8 t with
  | some f => e.floatOp f divExact a b
  | none => (a, 0)
/-- `vsqr`. -/
def Env.sqrt (e : Env) (t a : Nat) : Nat × Nat :=
  match fmtOf e.b8 t with
  | some f => let x := sqrtExact (f.decode a); let r := e.fit f x.1; (r.1, x.2 ||| r.2)
  | none => (a, 0)
/-- `vfma` by its F: a·b + c, −(a·b) + c, a·b − c, rounded once (R217). -/
def Env.fma (e : Env) (t : Nat) (fn : BitVec 2) (a b c : Nat) : Nat × Nat :=
  match fmtOf e.b8 t with
  | some f =>
    let p := mulExact (f.decode a) (f.decode b)
    let p1 := if fn = 1 then p.1.negate else p.1
    let c1 := if fn = 2 then (f.decode c).negate else f.decode c
    let x := addExact e.mode p1 c1
    let r := e.fit f x.1
    (r.1, p.2 ||| x.2 ||| r.2)
  | none => (a, 0)

/-- Leading zeros of a number of `w` bits. -/
def leadZeros (w v : Nat) : Nat := w - bitLen (v % 2 ^ w)

/-- `vint` by its F on elements of `w` bits (R224). -/
def intBits (f w a b : Nat) : Nat :=
  let s := b % w
  match f with
  | 0 => a &&& b
  | 1 => a ||| b
  | 2 => a ^^^ b
  | 3 => a &&& (2 ^ w - 1 - b)
  | 4 => a * 2 ^ s % 2 ^ w
  | 5 => a / 2 ^ s
  | 6 => wrapInt w (signed w a / ((2 ^ s : Nat) : Int))
  | 7 => popCount w a
  | _ => leadZeros w a

/-! ## Special functions (R203) -/

/-- A step rounded to FP32, nearest ties to even. -/
def rne (x : Exact) : Exact := fp32.decode (fp32.round 1 false false x).1
/-- An FP32 constant. -/
def const32 (v : Nat) : Exact := fp32.decode v
/-- RNE(log2 e). -/
def l2e : Exact := const32 0x3FB8AA3B
/-- 2·L2E. -/
def l2e2 : Exact := const32 0x4038AA3B
/-- RNE(ln 2). -/
def ln2c : Exact := const32 0x3F317218
/-- 1. -/
def one32 : Exact := const32 0x3F800000
/-- The flags a step keeps when it is not the last: NV and DZ. -/
def stepFlags (f : Nat) : Nat := f &&& (flagNV ||| flagDZ)

/-- The last, exact step of a special function and the NV and DZ its steps raised. -/
def specialExact (mode : Mode) (f : Nat) (x : Exact) : Exact × Nat :=
  match f with
  | 0 => exp2Exact x
  | 1 => log2Exact x
  | 2 => rcpExact x
  | 3 => rsqrtExact x
  | 4 => sqrtExact x
  | 5 =>
    let t := mulExact x l2e
    let r := exp2Exact (rne t.1)
    (r.1, stepFlags t.2 ||| r.2)
  | 6 =>
    let t := log2Exact x
    let r := mulExact (rne t.1) ln2c
    (r.1, stepFlags t.2 ||| r.2)
  | 7 =>
    if x.isZero then (x, 0)
    else
      let t := rne (mulExact x l2e2).1
      let u := rne (exp2Exact t).1
      let v := rne (addExact 1 one32 u).1
      let w := rne (rcpExact v).1
      addExact mode one32 (mulExact (const32 0x40000000) w).1.negate
  | _ =>
    let t := rne (mulExact x.negate l2e).1
    let u := rne (exp2Exact t).1
    let v := rne (addExact 1 one32 u).1
    rcpExact v

/-- `vsfn` on an FP32 element. -/
def Env.special (e : Env) (f a : Nat) : Nat × Nat :=
  let x := specialExact e.mode f (fp32.decode a)
  let r := e.fit fp32 x.1
  (r.1, x.2 ||| r.2)

/-! ## Reductions (R201, R223) -/

/-- Neighbours combined. -/
def pairUp {α : Type} (op : α → α → α) : List α → List α
  | a :: b :: rest => op a b :: pairUp op rest
  | l => l
/-- The pairwise tree over 2^n elements (R201). -/
def reduceTree {α : Type} (op : α → α → α) : Nat → List α → List α
  | 0, l => l
  | n + 1, l => reduceTree op n (pairUp op l)

/-- The identity of a reduction (R201). -/
def identity (b8 : BitVec 32) (t o : Nat) : Nat :=
  match fmtOf b8 t with
  | some f => if o = 0 then 2 ^ (f.width - 1) else f.nan
  | none =>
    let w := elemBits t
    match o with
    | 1 => if isSignedT t then 2 ^ (w - 1) - 1 else 2 ^ w - 1
    | 2 => if isSignedT t then 2 ^ (w - 1) else 0
    | 3 => 2 ^ w - 1
    | _ => 0

/-- One combination of a reduction: bits, poison, flags. -/
def Env.combine (e : Env) (t o : Nat) (x y : Nat × Bool × Nat) : Nat × Bool × Nat :=
  let r : Nat × Nat := match o with
    | 0 => e.add t x.1 y.1
    | 1 => e.min t x.1 y.1
    | 2 => e.max t x.1 y.1
    | 3 => (x.1 &&& y.1, 0)
    | 4 => (x.1 ||| y.1, 0)
    | _ => (x.1 ^^^ y.1, 0)
  let z := e.result t r (x.2.1 || y.2.1)
  (z.1, z.2.1, z.2.2 ||| x.2.2 ||| y.2.2)

/-- An element as it enters a reduction: a poisoned floating one as the pattern, a NaN as the canonical one (R194, R208). -/
def Env.leaf (e : Env) (t : Nat) (x : Nat × Bool) : Nat × Bool × Nat :=
  match fmtOf e.b8 t with
  | some f => if x.2 then (if f.b8 then x.1 else f.poison, true, flagPS) else (if (f.decode x.1).isNan then f.nan else x.1, false, 0)
  | none => (x.1, x.2, if x.2 then flagPS else 0)

/-! ## Random numbers (R227-R229) -/

/-- The change of state of the generator, on RNGS0 + 2^64·RNGS1. -/
def rngNext (st : Nat) : Nat :=
  let a : BitVec 64 := BitVec.ofNat 64 st
  let b : BitVec 64 := BitVec.ofNat 64 (st / 2 ^ 64)
  let t := a ^^^ (a <<< 19)
  b.toNat + 2 ^ 64 * (b ^^^ (b >>> 29) ^^^ t ^^^ (t >>> 11)).toNat
/-- The output of a step from a state. -/
def rngOut (st : Nat) : Nat :=
  let a : BitVec 64 := BitVec.ofNat 64 st
  let b : BitVec 64 := BitVec.ofNat 64 (st / 2 ^ 64)
  ((a + 3 * b).rotateLeft 23 ^^^ b).toNat

/-- A linear map over GF(2) by its columns, applied. -/
def gfApply : List Nat → Nat → Nat
  | [], _ => 0
  | c :: rest, v => (if v % 2 = 1 then c else 0) ^^^ gfApply rest (v / 2)
/-- The map applied twice. -/
def gfSquare (m : List Nat) : List Nat := m.map (gfApply m)
/-- The map applied 2^k times. -/
def gfPower (m : List Nat) : Nat → List Nat
  | 0 => m
  | k + 1 => gfSquare (gfPower m k)
/-- The columns of the generator's step. -/
def rngColumns : List Nat := (List.range 128).map fun j => rngNext (2 ^ j)
/-- Jump(n·2^k) by the bits of n, the map of 2^k steps given (R227). -/
def gfSteps : Nat → List Nat → Nat → Nat → Nat
  | 0, _, _, st => st
  | fuel + 1, m, n, st =>
    if n = 0 then st else gfSteps fuel (gfSquare m) (n / 2) (if n % 2 = 1 then gfApply m st else st)
/-- Jump(2^83). -/
def rngJump (st : Nat) : Nat := gfApply (gfPower rngColumns 83) st
/-- The seed of the core at launch index i (R228). -/
def rngSeed (seed i : Nat) : Nat :=
  let s := if seed = 0 then 2 ^ 64 else seed
  if i = 0 then s else gfSteps 32 (gfPower rngColumns 64) i s
/-- An element of `rng` from an output: n32, or f32 in [0, 1). -/
def rngElem (t o : Nat) : Nat :=
  if t = 7 then o / 2 ^ 32 else (fp32.round 1 false false (.num false (o / 2 ^ 40) (-24) false)).1

end Sys2Proof.Machine
end

