-- ==== Sys2Proof/WellFormed.lean ====
section
/-!
DEFINITION. Which instructions are well formed: the values of fields that the tables of R69-R72 and R67 reserve, where the
type of a field does not exclude them already. A step without a word is well formed with any operands.
-/
namespace Sys2Proof

/-- A shift immediate's amount fits its width (R69: W = 1 with amount 32 or more is reserved). -/
def shiftOk (w : Bool) (s : BitVec 6) : Bool := !w || s.ult 32
/-- The SCOPE codes 0b000-0b100 (R62). -/
def scopeOk (p : BitVec 3) : Bool := p.ult 5
/-- The T codes of f32, bf16 and f16 (R66). -/
def floatT (t : BitVec 4) : Bool := t == 8 || t == 9 || t == 10

/-- The CSR numbers of the CSR table (R107). -/
def csrNumbers : List Nat :=
  [0x000, 0x001, 0x002, 0x003, 0x004, 0x005, 0x006, 0x007, 0x008, 0x009, 0x00A, 0x00B, 0x010, 0x011, 0x012, 0x013,
   0x018, 0x019, 0x01A, 0x01B, 0x100, 0x101, 0x102, 0x103, 0x104, 0x105, 0x106, 0x107, 0x108, 0x109,
   0x300, 0x301, 0x302, 0x303]
/-- The number names a register of the CSR table (R107). -/
def csrNamed (c : BitVec 10) : Bool := csrNumbers.contains c.toNat

/-- No field holds a value the tables reserve (R67, R69-R72, R77). -/
def Instr.wf : Instr → Bool
  | .nop => true
  | .add _ _ _ _ _ => true
  | .sub _ _ _ _ _ => true
  | .mul _ _ _ _ _ => true
  | .div _ _ _ _ _ => true
  | .rem _ _ _ _ _ => true
  | .and _ _ _ _ => true
  | .or _ _ _ _ => true
  | .xor _ _ _ _ => true
  | .andn _ _ _ _ => true
  | .shl _ _ _ _ _ => true
  | .shr _ _ _ _ _ => true
  | .sra _ _ _ _ _ => true
  | .rot _ _ _ _ _ => true
  | .min _ _ _ _ _ => true
  | .max _ _ _ _ _ => true
  | .cmp _ _ h _ _ => h != 0
  | .sel _ _ _ _ s => s != 0
  | .bcnt _ _ _ _ => true
  | .bfx _ _ _ _ _ => true
  | .bfi _ _ _ _ => true
  | .gop _ d _ _ _ => d != 0
  | .addi _ _ _ _ => true
  | .andi _ _ _ _ => true
  | .ori _ _ _ _ => true
  | .xori _ _ _ _ => true
  | .shli _ _ _ w s => shiftOk w s
  | .shri _ _ _ w s => shiftOk w s
  | .srai _ _ _ w s => shiftOk w s
  | .cmpi _ _ h _ _ => h != 0
  | .muli _ _ _ _ => true
  | .lit _ _ f _ => f != 3
  | .addk _ _ _ _ _ => true
  | .cmpk _ _ h _ _ _ => h != 0
  | .padd _ _ _ _ => true
  | .paddi _ _ _ _ => true
  | .ptag _ _ _ t b => t != 11 || b == 0
  | .br _ _ => true
  | .call _ _ => true
  | .jr _ _ _ => true
  | .loop _ _ l => l != 0
  | .rpt _ _ _ _ _ _ => true
  | .halt _ => true
  | .trap _ _ => true
  | .eret _ => true
  | .csrr _ _ c => csrNamed c
  | .csrw _ _ c => csrNamed c
  | .csrx _ _ _ c => csrNamed c
  | .step _ => true
  | .fwd _ _ => true
  | .fwdRel _ => true
  | .fwdJoin _ => true
  | .echo _ _ => true
  | .echoEnd _ => true
  | .lnch _ _ _ _ => true
  | .evw _ _ _ => true
  | .evs _ _ _ => true
  | .ld _ _ _ o _ => o != 0x80
  | .ldTag _ _ _ _ => true
  | .ldz _ _ _ o s => o != 0x80 && s != 3
  | .ldzTag _ _ _ s => s != 3
  | .st _ _ _ _ _ => true
  | .lda _ _ _ p _ => scopeOk p
  | .stl _ _ _ p _ => scopeOk p
  | .aadd _ d _ _ _ => d != 0
  | .aand _ d _ _ _ => d != 0
  | .aor _ d _ _ _ => d != 0
  | .axor _ d _ _ _ => d != 0
  | .amin _ d _ _ _ _ => d != 0
  | .amax _ d _ _ _ _ => d != 0
  | .axch _ _ _ _ _ => true
  | .acas _ _ _ _ _ => true
  | .fadda _ d _ _ => d != 0
  | .famax _ d _ _ => d != 0
  | .famin _ d _ _ => d != 0
  | .radd _ _ _ _ => true
  | .rand _ _ _ _ => true
  | .ror _ _ _ _ => true
  | .rxor _ _ _ _ => true
  | .rmin _ _ _ _ _ => true
  | .rmax _ _ _ _ _ => true
  | .rfadd _ _ _ => true
  | .rfmax _ _ _ => true
  | .rfmin _ _ _ => true
  | .fenceAcq _ p => scopeOk p
  | .fenceRel _ p => scopeOk p
  | .fenceFull _ p => scopeOk p
  | .wb _ _ _ => true
  | .inv _ _ _ => true
  | .dsc _ _ _ => true
  | .bar _ _ _ => true
  | .bexp _ _ _ => true
  | .send _ _ _ _ => true
  | .sendE _ _ _ _ => true
  | .sendRel _ _ _ _ s => s != 0 && s.ult 6
  | .wake _ _ => true
  | .slp _ => true
  | .cpy _ _ _ _ _ => true
  | .cpyClk _ _ _ _ _ _ => true
  | .cpyqWm _ _ _ => true
  | .cpyqOut _ _ _ => true
  | .cpyqSt _ _ _ => true
  | .mma _ _ => true
  | .mmaClk _ _ _ => true
  | .mmsp _ _ => true
  | .mmspClk _ _ _ => true
  | .mmld _ _ _ _ => true
  | .mmldV _ _ _ _ _ => true
  | .mmst _ _ _ _ => true
  | .mmstV _ _ _ _ _ => true
  | .tload _ _ _ => true
  | .teval _ _ => true
  | .tevalClk _ _ _ => true
  | .tlv _ _ => true
  | .coll _ _ _ => true
  | .collClk _ _ _ _ => true
  | .collqSt _ _ _ => true
  | .collqDone _ _ _ => true
  | .rng _ _ t => t == 7 || t == 8
  | .rngJump _ t => t == 7 || t == 8
  | .vshp _ r c => decide (r.toNat + c.toNat ≤ 8)
  | .vld _ _ _ _ => true
  | .vldTag _ _ _ _ => true
  | .vst _ _ _ _ => true
  | .vgat _ _ _ _ => true
  | .vsct _ _ _ _ => true
  | .vadd _ _ _ _ t => t.ult 11
  | .vsub _ _ _ _ t => t.ult 11
  | .vmul _ _ _ _ t h => t.ult 11 && (!h || t.ult 8)
  | .vfma _ _ _ _ t f => floatT t && f != 3
  | .vmin _ _ _ _ t => t.ult 11
  | .vmax _ _ _ _ t => t.ult 11
  | .vdiv _ _ _ _ t => floatT t
  | .vsqr _ _ _ t => floatT t
  | .vsfn _ _ _ t f => t == 8 && f.ult 9
  | .vcvt _ _ _ t s => t != 11 && s != 11
  | .vcmp _ m _ _ t c => m != 0 && t.ult 11 && c.ult 6
  | .vsel _ _ _ _ _ m => m != 0
  | .vred _ _ _ t x o => x != 3 && o.ult 6 && (if o.ult 3 then t.ult 11 else t.ult 8)
  | .vint _ _ _ b t f => t.ult 8 && f.ult 9 && (f.ult 7 || b == 0)
  | .vmov _ _ _ _ => true
  | .vmovBc _ _ _ _ => true
  | .vpermTr _ _ _ _ => true
  | .vpermIdx _ _ _ _ _ => true
  | .vmsk _ d a b f => d != 0 && f.ult 6 && (f != 4 || b == 0) && (f != 5 || (a == 0 && b == 0))
  | .vectorPrefix m z r _ _ => r.ult 6 && (!z || m != 0)
  | .illegalWord _ => true
  | .boundaryEvent => true
  | .lateResultArrival _ => true
  | .forwardingStarts _ => true
  | .forwardingRejoin _ => true
  | .fwdWaitTimeout _ => true
  | .evwTimeout _ => true
  | .slpTimeout _ => true
  | .engineWaitTimeout _ => true
  | .taskEnd _ => true
  | .barrierRootCycle _ _ => true
  | .barrierContinue _ => true
  | .barrierTimeout _ _ => true
  | .engineOffsetStart _ => true
  | .matrixStep _ _ _ _ => true
  | .matrixCompletion _ => true
  | .tileMove _ => true
  | .copyStart _ _ => true
  | .copyBeat _ _ => true
  | .copyCompletion _ _ => true
  | .thresholdCommandStart _ => true
  | .tloadRun _ => true
  | .tevalRun _ => true
  | .tlvRun _ => true
  | .thresholdCompletion _ => true
  | .collectiveMatch _ _ => true
  | .treeContribution _ _ _ _ _ => true
  | .collectiveCompletion _ => true
  | .writebackMerge _ => true
  | .flushRequest _ => true
  | .translationWalk _ _ _ _ => true
  | .pageAnswer _ _ _ => true
  | .hostMemoryAccess _ _ _ _ _ _ => true
  | .hostLinkError _ _ _ _ _ => true
  | .packetArrival _ => true
  | .wakeArrival _ => true
  | .rangeTableCommit _ => true
  | .setClass _ => true
  | .probe _ => true
  | .edit _ => true
  | .setRoot _ => true
  | .invalidate _ => true
  | .clean _ => true
  | .migrate _ => true
  | .answer _ => true
  | .register _ _ => true
  | .revoke _ _ => true
  | .forcedRevoke _ _ => true
  | .doorbell _ _ => true
  | .vfAnswer _ _ => true
  | .registerWrite _ _ _ => true
  | .nselRead _ _ => true
  | .launchRecordHandling _ _ => true
  | .admissionRound _ => true
  | .launchCompletion _ _ _ => true
  | .partitionReset _ => true
  | .ownershipChange _ _ _ _ => true
  | .eventWrite _ => true
  | .energyDecrement _ => true
  | .energyPeriodStart => true
  | .backgroundError _ _ _ => true
  | .pairCheckpoint _ _ => true
  | .byteBudgetInterval _ _ => true
  | .clockChange _ _ => true
  | .springThermalLimit _ _ _ => true
  | .chipletThermalLimit _ => true
  | .edgeSourceStart _ _ _ _ _ => true
  | .clockArrival _ => true
  | .clockForward _ => true
  | .configured _ _ _ => true
  | .tested _ _ => true
  | .trained _ _ => true
  | .nselWrite => true
  | .forwarding _ => true
  | .ready _ => true
  | .stateLimitExpiry _ => true
  | .fenced _ _ => true
  | .rootOfTrustBoot _ => true
  | .hostLinkTraining _ _ => true
  | .ideKeying _ => true
  | .scaleOutTraining _ _ => true
  | .linkLost _ _ => true
  | .pairKeyAgreement _ _ => true
  | .flitTagFailure _ => true
  | .attestationRequest _ _ => true
  | .attestationReportReady _ => true
  | .partitionCreation _ _ _ _ _ _ _ _ _ _ => true
  | .partitionDestruction _ => true
  | .tokenBucketRefill _ => true

end Sys2Proof
end

