-- ==== Sys2Proof/Decode.lean ====
section
/-!
DEFINITION. Decoding words into instructions and encoding instructions into words, from the format tables R57-R68 and the
opcode maps R69-R72. A word the tables call reserved decodes to nothing (R77); the machine then takes the row ILLEGAL_WORD.
-/
namespace Sys2Proof

/-! ## Fields of a word -/

/-- Bits [hi : hi - n + 1] given by their low position (R53, R57-R68). -/
def fld (lo n : Nat) (w : Word32) : BitVec n := w.extractLsb' lo n
/-- One bit of a word. -/
def bitAt (i : Nat) (w : Word32) : Bool := w.getLsbD i
/-- The major opcode (R53). -/
def opOf (w : Word32) : BitVec 7 := fld 25 7 w
/-- The guard field (R53). -/
def gOf (w : Word32) : Sel := fld 22 3 w
/-- Field D (R57); field A of the E format (R65). -/
def dOf (w : Word32) : SReg := fld 16 6 w
/-- Field A (R57); field B of the E format (R65). -/
def aOf (w : Word32) : SReg := fld 10 6 w
/-- Field B (R57); field C of the E format (R65). -/
def bOf (w : Word32) : SReg := fld 4 6 w
/-- Field F of the R and E formats (R57, R65). -/
def fOf (w : Word32) : BitVec 4 := fld 0 4 w
/-- IMM10 (R58). -/
def iOf (w : Word32) : BitVec 10 := fld 0 10 w
/-- COND (R59). -/
def condOf (w : Word32) : BitVec 3 := fld 19 3 w
/-- GD (R59). -/
def gdOf (w : Word32) : BitVec 3 := fld 16 3 w
/-- VD (R63). -/
def vdOf (w : Word32) : VReg := fld 18 4 w
/-- VA (R63). -/
def vaOf (w : Word32) : VReg := fld 14 4 w
/-- VB (R63). -/
def vbOf (w : Word32) : VReg := fld 10 4 w
/-- T (R63). -/
def tOf (w : Word32) : BitVec 4 := fld 6 4 w
/-- F of the V and VM formats (R63, R64). -/
def f6Of (w : Word32) : BitVec 6 := fld 0 6 w

/-- The instruction if the rest of its word is legal. -/
def opt (b : Bool) (i : Instr) : Option Instr := if b then some i else none

/-! ## One word -/

/-- The instruction a word is, with `w2` the word after it where the format takes one (R52, R60, R65, R66). -/
def decodePair (w w2 : Word32) : Option Instr :=
  let g := gOf w; let d := dOf w; let a := aOf w; let b := bOf w; let f := fOf w; let i := iOf w
  let f0 := bitAt 0 w
  match (opOf w).toNat with
  | 0x00 => opt (w == 0) .nop
  | 0x01 => opt (fld 1 3 w == 0) (.add g d a b f0)
  | 0x02 => opt (fld 1 3 w == 0) (.sub g d a b f0)
  | 0x03 => opt (fld 2 2 w == 0) (.mul g d a b (fld 0 2 w))
  | 0x04 => opt (fld 2 2 w == 0) (.div g d a b (fld 0 2 w))
  | 0x05 => opt (fld 2 2 w == 0) (.rem g d a b (fld 0 2 w))
  | 0x06 => opt (f == 0) (.and g d a b)
  | 0x07 => opt (f == 0) (.or g d a b)
  | 0x08 => opt (f == 0) (.xor g d a b)
  | 0x09 => opt (f == 0) (.andn g d a b)
  | 0x0A => opt (fld 1 3 w == 0) (.shl g d a b f0)
  | 0x0B => opt (fld 1 3 w == 0) (.shr g d a b f0)
  | 0x0C => opt (fld 1 3 w == 0) (.sra g d a b f0)
  | 0x0D => opt (fld 1 3 w == 0) (.rot g d a b f0)
  | 0x0E => opt (fld 1 3 w == 0) (.min g d a b f0)
  | 0x0F => opt (fld 1 3 w == 0) (.max g d a b f0)
  | 0x10 => opt (f == 0 && gdOf w != 0) (.cmp g (condOf w) (gdOf w) a b)
  | 0x11 => opt (!bitAt 3 w && fld 0 3 w != 0) (.sel g d a b (fld 0 3 w))
  | 0x12 => opt (b == 0 && fld 2 2 w == 0) (.bcnt g d a (fld 0 2 w))
  | 0x13 => opt (fld 1 3 w == 0) (.bfx g d a b f0)
  | 0x14 => opt (f == 0) (.bfi g d a b)
  | 0x15 => opt (fld 19 3 w == 0 && fld 13 3 w == 0 && fld 7 3 w == 0 && !bitAt 3 w && fld 16 3 w != 0)
      (.gop g (fld 16 3 w) (fld 10 3 w) (fld 4 3 w) (fld 0 3 w))
  | 0x16 => some (.addi g d a i)
  | 0x17 => some (.andi g d a i)
  | 0x18 => some (.ori g d a i)
  | 0x19 => some (.xori g d a i)
  | 0x1A => opt (fld 7 3 w == 0 && (!bitAt 6 w || !bitAt 5 w)) (.shli g d a (bitAt 6 w) (fld 0 6 w))
  | 0x1B => opt (fld 7 3 w == 0 && (!bitAt 6 w || !bitAt 5 w)) (.shri g d a (bitAt 6 w) (fld 0 6 w))
  | 0x1C => opt (fld 7 3 w == 0 && (!bitAt 6 w || !bitAt 5 w)) (.srai g d a (bitAt 6 w) (fld 0 6 w))
  | 0x1D => opt (gdOf w != 0) (.cmpi g (condOf w) (gdOf w) a i)
  | 0x1E => some (.muli g d a i)
  | 0x1F => opt (a == 0 && b == 0 && fld 2 2 w == 0 && fld 0 2 w != 3) (.lit g d (fld 0 2 w) w2)
  | 0x20 => opt (b == 0 && fld 1 3 w == 0) (.addk g d a f0 w2)
  | 0x21 => opt (b == 0 && fld 1 3 w == 0 && gdOf w != 0) (.cmpk g (condOf w) (gdOf w) a f0 w2)
  | 0x22 => opt (f == 0) (.padd g d a b)
  | 0x23 => some (.paddi g d a i)
  | 0x24 => opt (fld 7 3 w == 0 && (fld 3 4 w != 11 || fld 0 3 w == 0)) (.ptag g d a (fld 3 4 w) (fld 0 3 w))
  | 0x25 => some (.br g (fld 0 22 w))
  | 0x26 => some (.call g (fld 0 22 w))
  | 0x27 => opt (fld 0 10 w == 0) (.jr g d a)
  | 0x28 => opt (d == 0 && i != 0) (.loop g a i)
  | 0x29 => some (.rpt g (fld 16 6 w) (fld 12 4 w) (fld 8 4 w) (fld 4 4 w) (fld 0 4 w))
  | 0x2A => opt (fld 0 22 w == 0) (.halt g)
  | 0x2B => opt (fld 10 12 w == 0) (.trap g i)
  | 0x2C => opt (fld 0 22 w == 0) (.eret g)
  | 0x2D => opt (a == 0 && csrNamed i) (.csrr g d i)
  | 0x2E => opt (d == 0 && csrNamed i) (.csrw g a i)
  | 0x2F => opt (csrNamed i) (.csrx g d a i)
  | 0x30 => opt (fld 0 22 w == 0) (.step g)
  | 0x31 => if d != 0 || b != 0 then none
      else if f == 0 then some (.fwd g a)
      else if f == 1 then opt (a == 0) (.fwdRel g)
      else opt (f == 2 && a == 0) (.fwdJoin g)
  | 0x32 => if d != 0 || b != 0 then none
      else if f == 0 then some (.echo g a)
      else opt (f == 1 && a == 0) (.echoEnd g)
  | 0x33 => opt (b == 0 && !bitAt 3 w) (.lnch g d a (fld 0 3 w))
  | 0x34 => opt (d == 0 && f == 0) (.evw g a b)
  | 0x35 => opt (d == 0 && f == 0) (.evs g a b)
  | 0x36 => if fld 2 8 w == 0x80 then some (.ldTag g d a (fld 0 2 w)) else some (.ld g d a (fld 2 8 w) (fld 0 2 w))
  | 0x37 => if fld 0 2 w == 3 then none
      else if fld 2 8 w == 0x80 then some (.ldzTag g d a (fld 0 2 w)) else some (.ldz g d a (fld 2 8 w) (fld 0 2 w))
  | 0x38 => some (.st g d a (fld 2 8 w) (fld 0 2 w))
  | 0x39 => opt (fld 2 5 w == 0 && (fld 7 3 w).ult 5) (.lda g d a (fld 7 3 w) (fld 0 2 w))
  | 0x3A => opt (fld 2 5 w == 0 && (fld 7 3 w).ult 5) (.stl g d a (fld 7 3 w) (fld 0 2 w))
  | 0x3B => if fld 1 3 w != 1 then none else if d == 0 then some (.radd g a b f0) else some (.aadd g d a b f0)
  | 0x3C => if fld 1 3 w != 1 then none else if d == 0 then some (.rand g a b f0) else some (.aand g d a b f0)
  | 0x3D => if fld 1 3 w != 1 then none else if d == 0 then some (.ror g a b f0) else some (.aor g d a b f0)
  | 0x3E => if fld 1 3 w != 1 then none else if d == 0 then some (.rxor g a b f0) else some (.axor g d a b f0)
  | 0x3F => if fld 1 2 w != 1 then none else if d == 0 then some (.rmin g a b (bitAt 3 w) f0) else some (.amin g d a b (bitAt 3 w) f0)
  | 0x40 => if fld 1 2 w != 1 then none else if d == 0 then some (.rmax g a b (bitAt 3 w) f0) else some (.amax g d a b (bitAt 3 w) f0)
  | 0x41 => opt (fld 1 3 w == 1) (.axch g d a b f0)
  | 0x42 => opt (fld 1 3 w == 1) (.acas g d a b f0)
  | 0x43 => if f != 2 then none else if d == 0 then some (.rfadd g a b) else some (.fadda g d a b)
  | 0x44 => if f != 2 then none else if d == 0 then some (.rfmax g a b) else some (.famax g d a b)
  | 0x45 => if f != 2 then none else if d == 0 then some (.rfmin g a b) else some (.famin g d a b)
  | 0x46 => if fld 5 17 w != 0 || !(fld 2 3 w).ult 5 then none
      else if fld 0 2 w == 1 then some (.fenceAcq g (fld 2 3 w))
      else if fld 0 2 w == 2 then some (.fenceRel g (fld 2 3 w))
      else opt (fld 0 2 w == 3) (.fenceFull g (fld 2 3 w))
  | 0x47 => opt (d == 0 && f == 0) (.wb g a b)
  | 0x48 => opt (d == 0 && f == 0) (.inv g a b)
  | 0x49 => opt (d == 0 && f == 0) (.dsc g a b)
  | 0x4A => opt (fld 20 2 w == 0 && b == 0 && f == 0) (.bar g (fld 16 4 w) a)
  | 0x4B => opt (fld 20 2 w == 0 && b == 0 && f == 0) (.bexp g (fld 16 4 w) a)
  | 0x4C => if fld 18 4 w != 0 then none
      else if f == 0 then some (.send g (fld 16 2 w) a b)
      else if f == 1 then some (.sendE g (fld 16 2 w) a b)
      else opt (f0 && (fld 1 3 w).ult 6) (.sendRel g (fld 16 2 w) a b (fld 1 3 w))
  | 0x4D => opt (d == 0 && b == 0 && f == 0) (.wake g a)
  | 0x4E => opt (fld 0 22 w == 0) (.slp g)
  | 0x4F => if b != 0 then none
      else if bitAt 3 w then some (.cpyClk g d a (bitAt 2 w) (fld 0 2 w) w2) else some (.cpy g d a (bitAt 2 w) (fld 0 2 w))
  | 0x50 => if a != 0 || b != 0 then none
      else if fld 2 2 w == 0 then some (.cpyqWm g d (fld 0 2 w))
      else if fld 2 2 w == 1 then some (.cpyqOut g d (fld 0 2 w))
      else opt (fld 2 2 w == 2) (.cpyqSt g d (fld 0 2 w))
  | 0x51 => if a != 0 || b != 0 || fld 0 3 w != 0 then none else if bitAt 3 w then some (.mmaClk g d w2) else some (.mma g d)
  | 0x52 => if a != 0 || b != 0 || fld 0 3 w != 0 then none else if bitAt 3 w then some (.mmspClk g d w2) else some (.mmsp g d)
  | 0x53 => if fld 2 2 w != 0 then none
      else if bitAt 1 w then opt (fld 8 2 w == 0) (.mmldV g d a (fld 4 4 w) f0)
      else opt (b == 0) (.mmld g d a f0)
  | 0x54 => if fld 2 2 w != 0 then none
      else if bitAt 1 w then opt (fld 8 2 w == 0) (.mmstV g d a (fld 4 4 w) f0)
      else opt (b == 0) (.mmst g d a f0)
  | 0x55 => opt (fld 0 10 w == 0) (.tload g d a)
  | 0x56 => if a != 0 || b != 0 || fld 0 3 w != 0 then none else if bitAt 3 w then some (.tevalClk g d w2) else some (.teval g d)
  | 0x57 => opt (fld 0 16 w == 0) (.tlv g d)
  | 0x58 => if b != 0 || fld 0 3 w != 0 then none else if bitAt 3 w then some (.collClk g d a w2) else some (.coll g d a)
  | 0x59 => if b != 0 then none else if f == 0 then some (.collqSt g d a) else opt (f == 1) (.collqDone g d a)
  | 0x5A => if vaOf w != 0 || vbOf w != 0 || !(tOf w == 7 || tOf w == 8) then none
      else if f6Of w == 0 then some (.rng g (vdOf w) (tOf w))
      else opt (f6Of w == 1 && vdOf w == 0) (.rngJump g (tOf w))
  | 0x5B => opt (fld 8 14 w == 0 && decide ((fld 4 4 w).toNat + (fld 0 4 w).toNat ≤ 8)) (.vshp g (fld 4 4 w) (fld 0 4 w))
  | 0x5C => if f6Of w == 0 then some (.vld g (vdOf w) (fld 12 6 w) (fld 6 6 w)) else opt (f6Of w == 1) (.vldTag g (vdOf w) (fld 12 6 w) (fld 6 6 w))
  | 0x5D => opt (f6Of w == 0) (.vst g (vdOf w) (fld 12 6 w) (fld 6 6 w))
  | 0x5E => opt (fld 6 6 w == 0 && fld 4 2 w == 0) (.vgat g (vdOf w) (fld 12 6 w) (fld 0 4 w))
  | 0x5F => opt (fld 6 6 w == 0 && fld 4 2 w == 0) (.vsct g (vdOf w) (fld 12 6 w) (fld 0 4 w))
  | 0x60 => opt (f6Of w == 0 && (tOf w).ult 11) (.vadd g (vdOf w) (vaOf w) (vbOf w) (tOf w))
  | 0x61 => opt (f6Of w == 0 && (tOf w).ult 11) (.vsub g (vdOf w) (vaOf w) (vbOf w) (tOf w))
  | 0x62 => opt (fld 1 5 w == 0 && (tOf w).ult 11 && (!f0 || (tOf w).ult 8)) (.vmul g (vdOf w) (vaOf w) (vbOf w) (tOf w) f0)
  | 0x63 => opt (fld 2 4 w == 0 && fld 0 2 w != 3 && floatT (tOf w)) (.vfma g (vdOf w) (vaOf w) (vbOf w) (tOf w) (fld 0 2 w))
  | 0x64 => opt (f6Of w == 0 && (tOf w).ult 11) (.vmin g (vdOf w) (vaOf w) (vbOf w) (tOf w))
  | 0x65 => opt (f6Of w == 0 && (tOf w).ult 11) (.vmax g (vdOf w) (vaOf w) (vbOf w) (tOf w))
  | 0x66 => opt (f6Of w == 0 && floatT (tOf w)) (.vdiv g (vdOf w) (vaOf w) (vbOf w) (tOf w))
  | 0x67 => opt (f6Of w == 0 && vbOf w == 0 && floatT (tOf w)) (.vsqr g (vdOf w) (vaOf w) (tOf w))
  | 0x68 => opt ((f6Of w).ult 9 && vbOf w == 0 && tOf w == 8) (.vsfn g (vdOf w) (vaOf w) (tOf w) (f6Of w))
  | 0x69 => opt (fld 4 2 w == 0 && vbOf w == 0 && tOf w != 11 && fld 0 4 w != 11) (.vcvt g (vdOf w) (vaOf w) (tOf w) (fld 0 4 w))
  | 0x6A => opt (!bitAt 21 w && fld 18 3 w != 0 && fld 3 3 w == 0 && (tOf w).ult 11 && (fld 0 3 w).ult 6)
      (.vcmp g (fld 18 3 w) (vaOf w) (vbOf w) (tOf w) (fld 0 3 w))
  | 0x6B => opt (fld 3 3 w == 0 && fld 0 3 w != 0) (.vsel g (vdOf w) (vaOf w) (vbOf w) (tOf w) (fld 0 3 w))
  | 0x6C => opt (vbOf w == 0 && !bitAt 5 w && fld 3 2 w != 3 && (fld 0 3 w).ult 6 &&
        (if (fld 0 3 w).ult 3 then (tOf w).ult 11 else (tOf w).ult 8))
      (.vred g (vdOf w) (vaOf w) (tOf w) (fld 3 2 w) (fld 0 3 w))
  | 0x6D => opt ((f6Of w).ult 9 && (tOf w).ult 8 && ((f6Of w).ult 7 || vbOf w == 0)) (.vint g (vdOf w) (vaOf w) (vbOf w) (tOf w) (f6Of w))
  | 0x6E => if f6Of w == 0 then opt (vbOf w == 0) (.vmov g (vdOf w) (vaOf w) (tOf w))
      else opt (f6Of w == 1 && fld 10 2 w == 0) (.vmovBc g (vdOf w) (fld 12 6 w) (tOf w))
  | 0x6F => if f6Of w == 0 then opt (vbOf w == 0) (.vpermTr g (vdOf w) (vaOf w) (tOf w))
      else opt (f6Of w == 1) (.vpermIdx g (vdOf w) (vaOf w) (vbOf w) (tOf w))
  | 0x70 => opt (!bitAt 21 w && !bitAt 17 w && !bitAt 13 w && fld 18 3 w != 0 && tOf w == 0 && (f6Of w).ult 6 &&
        (f6Of w != 4 || fld 10 3 w == 0) && (f6Of w != 5 || (fld 14 3 w == 0 && fld 10 3 w == 0)))
      (.vmsk g (fld 18 3 w) (fld 14 3 w) (fld 10 3 w) (f6Of w))
  | 0x7E => opt (fld 0 14 w == 0 && (fld 18 3 w).ult 6 && (!bitAt 21 w || g != 0))
      (.vectorPrefix g (bitAt 21 w) (fld 18 3 w) (fld 14 4 w) w2)
  | _ => none

/-- The word is followed by a second word of the same instruction (R52, R65, R66). -/
def takesSecond (w : Word32) : Bool :=
  match (opOf w).toNat with
  | 0x1F | 0x20 | 0x21 | 0x7E => true
  | 0x4F | 0x51 | 0x52 | 0x56 | 0x58 => bitAt 3 w
  | _ => false

/-- The instruction is two words long (R52). -/
def Instr.long : Instr → Bool
  | .lit .. | .addk .. | .cmpk .. | .cpyClk .. | .mmaClk .. | .mmspClk .. | .tevalClk .. | .collClk .. | .vectorPrefix .. => true
  | _ => false

/-- The instruction at the head of a list of words, and the words after it. -/
def decodeWords : List Word32 → Option (Instr × List Word32)
  | [] => none
  | w :: rest =>
    if takesSecond w then
      match rest with
      | [] => none
      | w2 :: rest' => (decodePair w w2).map fun i => (i, rest')
    else (decodePair w 0).map fun i => (i, rest)

/-- Four bytes, lowest address first, as a word (R7, R52). -/
def leWord (b0 b1 b2 b3 : Byte) : Word32 := b3 ++ b2 ++ b1 ++ b0

/-- The words of a list of bytes (R52); bytes left over make no word. -/
def wordsOf : List Byte → List Word32
  | b0 :: b1 :: b2 :: b3 :: rest => leWord b0 b1 b2 b3 :: wordsOf rest
  | _ => []

/-- The instruction at the head of a list of bytes, as memory holds them. -/
def decodeBytes (bs : List Byte) : Option Instr := (decodeWords (wordsOf bs)).map Prod.fst

/-- The eight bytes of an instruction given as one number with bit 0 the least significant bit of its first word. -/
def tableBytes (nbits w : Nat) : List Byte :=
  (List.range 8).map fun k => BitVec.ofNat 8 ((w % 2 ^ nbits) >>> (8 * k))

/-- The instruction the decoder reads from a row's word, numbered as the opcode table numbers its bits. -/
def decodeTableWord (nbits w : Nat) : Option Instr := decodeBytes (tableBytes nbits w)

/-! ## Encoding -/

/-- One bit. -/
def b1 (x : Bool) : BitVec 1 := BitVec.ofBool x
/-- R, E and K format (R57, R60, R65). -/
def rWord (op : BitVec 7) (g : Sel) (d a b : SReg) (f : BitVec 4) : Word32 := op ++ g ++ d ++ a ++ b ++ f
/-- I format (R58). -/
def iWord (op : BitVec 7) (g : Sel) (d a : SReg) (i : BitVec 10) : Word32 := op ++ g ++ d ++ a ++ i
/-- B format (R61). -/
def bWord (op : BitVec 7) (g : Sel) (o : BitVec 22) : Word32 := op ++ g ++ o
/-- M format (R62). -/
def mWord (op : BitVec 7) (g : Sel) (d a : SReg) (o : BitVec 8) (s : BitVec 2) : Word32 := op ++ g ++ d ++ a ++ o ++ s
/-- V format (R63). -/
def vWord (op : BitVec 7) (g : Sel) (d a b : VReg) (t : BitVec 4) (f : BitVec 6) : Word32 := op ++ g ++ d ++ a ++ b ++ t ++ f
/-- VM format (R64). -/
def vmWord (op : BitVec 7) (g : Sel) (d : VReg) (a b : SReg) (f : BitVec 6) : Word32 := op ++ g ++ d ++ a ++ b ++ f
/-- The frame layout (R68). -/
def rptWord (g : Sel) (n : BitVec 6) (k x y z : BitVec 4) : Word32 := 0x29#7 ++ g ++ n ++ k ++ x ++ y ++ z
/-- The X format (R66). -/
def xWord (m : Sel) (z : Bool) (r : BitVec 3) (v : VReg) : Word32 := 0x7E#7 ++ m ++ b1 z ++ r ++ v ++ 0#14

/-- The first word of an instruction; a step without a word has none. -/
def Instr.word? : Instr → Option Word32
  | .nop => some (0)
  | .add g d a b w => some (rWord 0x01 g d a b (0#3 ++ b1 w))
  | .sub g d a b w => some (rWord 0x02 g d a b (0#3 ++ b1 w))
  | .shl g d a b w => some (rWord 0x0A g d a b (0#3 ++ b1 w))
  | .shr g d a b w => some (rWord 0x0B g d a b (0#3 ++ b1 w))
  | .sra g d a b w => some (rWord 0x0C g d a b (0#3 ++ b1 w))
  | .rot g d a b w => some (rWord 0x0D g d a b (0#3 ++ b1 w))
  | .min g d a b w => some (rWord 0x0E g d a b (0#3 ++ b1 w))
  | .max g d a b w => some (rWord 0x0F g d a b (0#3 ++ b1 w))
  | .bfx g d a b w => some (rWord 0x13 g d a b (0#3 ++ b1 w))
  | .mul g d a b f => some (rWord 0x03 g d a b (0#2 ++ f))
  | .div g d a b f => some (rWord 0x04 g d a b (0#2 ++ f))
  | .rem g d a b f => some (rWord 0x05 g d a b (0#2 ++ f))
  | .and g d a b => some (rWord 0x06 g d a b 0)
  | .or g d a b => some (rWord 0x07 g d a b 0)
  | .xor g d a b => some (rWord 0x08 g d a b 0)
  | .andn g d a b => some (rWord 0x09 g d a b 0)
  | .bfi g d a b => some (rWord 0x14 g d a b 0)
  | .padd g d a b => some (rWord 0x22 g d a b 0)
  | .cmp g c h a b => some (rWord 0x10 g (c ++ h) a b 0)
  | .sel g d a b s => some (rWord 0x11 g d a b (0#1 ++ s))
  | .bcnt g d a f => some (rWord 0x12 g d a 0 (0#2 ++ f))
  | .gop g d a b f => some (rWord 0x15 g (0#3 ++ d) (0#3 ++ a) (0#3 ++ b) (0#1 ++ f))
  | .addi g d a i => some (iWord 0x16 g d a i)
  | .andi g d a i => some (iWord 0x17 g d a i)
  | .ori g d a i => some (iWord 0x18 g d a i)
  | .xori g d a i => some (iWord 0x19 g d a i)
  | .muli g d a i => some (iWord 0x1E g d a i)
  | .paddi g d a i => some (iWord 0x23 g d a i)
  | .shli g d a w s => some (iWord 0x1A g d a (0#3 ++ b1 w ++ s))
  | .shri g d a w s => some (iWord 0x1B g d a (0#3 ++ b1 w ++ s))
  | .srai g d a w s => some (iWord 0x1C g d a (0#3 ++ b1 w ++ s))
  | .cmpi g c h a i => some (iWord 0x1D g (c ++ h) a i)
  | .lit g d f _ => some (rWord 0x1F g d 0 0 (0#2 ++ f))
  | .addk g d a n _ => some (rWord 0x20 g d a 0 (0#3 ++ b1 n))
  | .cmpk g c h a n _ => some (rWord 0x21 g (c ++ h) a 0 (0#3 ++ b1 n))
  | .ptag g d a t b => some (iWord 0x24 g d a (0#3 ++ t ++ b))
  | .br g o => some (bWord 0x25 g o)
  | .call g o => some (bWord 0x26 g o)
  | .jr g d a => some (rWord 0x27 g d a 0 0)
  | .loop g a l => some (iWord 0x28 g 0 a l)
  | .rpt g n k x y z => some (rptWord g n k x y z)
  | .halt g => some (bWord 0x2A g 0)
  | .trap g n => some (iWord 0x2B g 0 0 n)
  | .eret g => some (bWord 0x2C g 0)
  | .csrr g d c => some (iWord 0x2D g d 0 c)
  | .csrw g a c => some (iWord 0x2E g 0 a c)
  | .csrx g d a c => some (iWord 0x2F g d a c)
  | .step g => some (bWord 0x30 g 0)
  | .fwd g a => some (rWord 0x31 g 0 a 0 0)
  | .fwdRel g => some (rWord 0x31 g 0 0 0 1)
  | .fwdJoin g => some (rWord 0x31 g 0 0 0 2)
  | .echo g a => some (rWord 0x32 g 0 a 0 0)
  | .echoEnd g => some (rWord 0x32 g 0 0 0 1)
  | .lnch g d a q => some (rWord 0x33 g d a 0 (0#1 ++ q))
  | .evw g a b => some (rWord 0x34 g 0 a b 0)
  | .evs g a b => some (rWord 0x35 g 0 a b 0)
  | .ld g d a o s => some (mWord 0x36 g d a o s)
  | .ldTag g d a s => some (mWord 0x36 g d a 0x80 s)
  | .ldz g d a o s => some (mWord 0x37 g d a o s)
  | .ldzTag g d a s => some (mWord 0x37 g d a 0x80 s)
  | .st g d a o s => some (mWord 0x38 g d a o s)
  | .lda g d a p s => some (mWord 0x39 g d a (p ++ 0#5) s)
  | .stl g d a p s => some (mWord 0x3A g d a (p ++ 0#5) s)
  | .aadd g d a b z => some (rWord 0x3B g d a b (1#3 ++ b1 z))
  | .radd g a b z => some (rWord 0x3B g 0 a b (1#3 ++ b1 z))
  | .aand g d a b z => some (rWord 0x3C g d a b (1#3 ++ b1 z))
  | .rand g a b z => some (rWord 0x3C g 0 a b (1#3 ++ b1 z))
  | .aor g d a b z => some (rWord 0x3D g d a b (1#3 ++ b1 z))
  | .ror g a b z => some (rWord 0x3D g 0 a b (1#3 ++ b1 z))
  | .axor g d a b z => some (rWord 0x3E g d a b (1#3 ++ b1 z))
  | .rxor g a b z => some (rWord 0x3E g 0 a b (1#3 ++ b1 z))
  | .amin g d a b n z => some (rWord 0x3F g d a b (b1 n ++ 1#2 ++ b1 z))
  | .rmin g a b n z => some (rWord 0x3F g 0 a b (b1 n ++ 1#2 ++ b1 z))
  | .amax g d a b n z => some (rWord 0x40 g d a b (b1 n ++ 1#2 ++ b1 z))
  | .rmax g a b n z => some (rWord 0x40 g 0 a b (b1 n ++ 1#2 ++ b1 z))
  | .axch g d a b z => some (rWord 0x41 g d a b (1#3 ++ b1 z))
  | .acas g d a b z => some (rWord 0x42 g d a b (1#3 ++ b1 z))
  | .fadda g d a b => some (rWord 0x43 g d a b 2)
  | .rfadd g a b => some (rWord 0x43 g 0 a b 2)
  | .famax g d a b => some (rWord 0x44 g d a b 2)
  | .rfmax g a b => some (rWord 0x44 g 0 a b 2)
  | .famin g d a b => some (rWord 0x45 g d a b 2)
  | .rfmin g a b => some (rWord 0x45 g 0 a b 2)
  | .fenceAcq g p => some (iWord 0x46 g 0 0 (0#5 ++ p ++ 1#2))
  | .fenceRel g p => some (iWord 0x46 g 0 0 (0#5 ++ p ++ 2#2))
  | .fenceFull g p => some (iWord 0x46 g 0 0 (0#5 ++ p ++ 3#2))
  | .wb g a b => some (rWord 0x47 g 0 a b 0)
  | .inv g a b => some (rWord 0x48 g 0 a b 0)
  | .dsc g a b => some (rWord 0x49 g 0 a b 0)
  | .bar g n a => some (rWord 0x4A g (0#2 ++ n) a 0 0)
  | .bexp g n a => some (rWord 0x4B g (0#2 ++ n) a 0 0)
  | .send g q x b => some (rWord 0x4C g (0#4 ++ q) x b 0)
  | .sendE g q a b => some (rWord 0x4C g (0#4 ++ q) a b 1)
  | .sendRel g q a b s => some (rWord 0x4C g (0#4 ++ q) a b (s ++ 1#1))
  | .wake g a => some (rWord 0x4D g 0 a 0 0)
  | .slp g => some (bWord 0x4E g 0)
  | .cpy g a b u h => some (rWord 0x4F g a b 0 (0#1 ++ b1 u ++ h))
  | .cpyClk g a b u h _ => some (rWord 0x4F g a b 0 (1#1 ++ b1 u ++ h))
  | .cpyqWm g d h => some (rWord 0x50 g d 0 0 (0#2 ++ h))
  | .cpyqOut g d h => some (rWord 0x50 g d 0 0 (1#2 ++ h))
  | .cpyqSt g d h => some (rWord 0x50 g d 0 0 (2#2 ++ h))
  | .mma g a => some (rWord 0x51 g a 0 0 0)
  | .mmaClk g a _ => some (rWord 0x51 g a 0 0 8)
  | .mmsp g a => some (rWord 0x52 g a 0 0 0)
  | .mmspClk g a _ => some (rWord 0x52 g a 0 0 8)
  | .teval g a => some (rWord 0x56 g a 0 0 0)
  | .tevalClk g a _ => some (rWord 0x56 g a 0 0 8)
  | .mmld g a b t => some (rWord 0x53 g a b 0 (0#3 ++ b1 t))
  | .mmldV g a b c t => some (rWord 0x53 g a b (0#2 ++ c) (1#3 ++ b1 t))
  | .mmst g a b t => some (rWord 0x54 g a b 0 (0#3 ++ b1 t))
  | .mmstV g a b c t => some (rWord 0x54 g a b (0#2 ++ c) (1#3 ++ b1 t))
  | .tload g a b => some (rWord 0x55 g a b 0 0)
  | .tlv g a => some (rWord 0x57 g a 0 0 0)
  | .coll g a b => some (rWord 0x58 g a b 0 0)
  | .collClk g a b _ => some (rWord 0x58 g a b 0 8)
  | .collqSt g d a => some (rWord 0x59 g d a 0 0)
  | .collqDone g d a => some (rWord 0x59 g d a 0 1)
  | .rng g d t => some (vWord 0x5A g d 0 0 t 0)
  | .rngJump g t => some (vWord 0x5A g 0 0 0 t 1)
  | .vshp g r c => some (bWord 0x5B g (0#14 ++ r ++ c))
  | .vld g d a b => some (vmWord 0x5C g d a b 0)
  | .vldTag g d a b => some (vmWord 0x5C g d a b 1)
  | .vst g d a b => some (vmWord 0x5D g d a b 0)
  | .vgat g d a i => some (vmWord 0x5E g d a 0 (0#2 ++ i))
  | .vsct g d a i => some (vmWord 0x5F g d a 0 (0#2 ++ i))
  | .vadd g d a b t => some (vWord 0x60 g d a b t 0)
  | .vsub g d a b t => some (vWord 0x61 g d a b t 0)
  | .vmin g d a b t => some (vWord 0x64 g d a b t 0)
  | .vmax g d a b t => some (vWord 0x65 g d a b t 0)
  | .vdiv g d a b t => some (vWord 0x66 g d a b t 0)
  | .vmul g d a b t h => some (vWord 0x62 g d a b t (0#5 ++ b1 h))
  | .vfma g d a b t f => some (vWord 0x63 g d a b t (0#4 ++ f))
  | .vsqr g d a t => some (vWord 0x67 g d a 0 t 0)
  | .vsfn g d a t f => some (vWord 0x68 g d a 0 t f)
  | .vcvt g d a t s => some (vWord 0x69 g d a 0 t (0#2 ++ s))
  | .vcmp g m a b t c => some (vWord 0x6A g (0#1 ++ m) a b t (0#3 ++ c))
  | .vsel g d a b t m => some (vWord 0x6B g d a b t (0#3 ++ m))
  | .vred g d a t x o => some (vWord 0x6C g d a 0 t (0#1 ++ x ++ o))
  | .vint g d a b t f => some (vWord 0x6D g d a b t f)
  | .vmov g d a t => some (vWord 0x6E g d a 0 t 0)
  | .vmovBc g d s t => some (vWord 0x6E g d (s.extractLsb' 2 4) (s.extractLsb' 0 2 ++ 0#2) t 1)
  | .vpermTr g d a t => some (vWord 0x6F g d a 0 t 0)
  | .vpermIdx g d a b t => some (vWord 0x6F g d a b t 1)
  | .vmsk g d a b f => some (vWord 0x70 g (0#1 ++ d) (0#1 ++ a) (0#1 ++ b) 0 f)
  | .vectorPrefix m z r v _ => some (xWord m z r v)
  | _ => none

/-- The second word of a two-word instruction (R52). -/
def Instr.second? : Instr → Option Word32
  | .lit _ _ _ l | .addk _ _ _ _ l | .cmpk _ _ _ _ _ l | .cpyClk _ _ _ _ _ l | .mmaClk _ _ l | .mmspClk _ _ l
  | .tevalClk _ _ l | .collClk _ _ _ l | .vectorPrefix _ _ _ _ l => some l
  | _ => none

/-- The words of an instruction; none for a step without a word. -/
def encode (i : Instr) : List Word32 := i.word?.toList ++ i.second?.toList

/-- The instruction word a trap reports (R77, R106): the first word, or the word that is not an instruction. -/
def Instr.word (i : Instr) : Word32 := i.word?.getD 0

end Sys2Proof
end

