-- ==== Sys2Proof/Machine/Base.lean ====
section
/-!
DEFINITION. The shape of a computation on the state that can stop (a precise trap, a freeze), the accessors of the core that
moves, and what an agent leaves for a core or a partition to meet later: a pending boundary cause (R340), an error counted against
`EBUD` (R309), an event (R368), a page request (R329).
-/
namespace Sys2Proof.Machine

/-- How a computation of one instruction stops: a trap taken at the instruction (R11, R103), the open-packet fault that also discards
the packet of a queue (R48, R173), or the freeze line (R34). -/
inductive Stop where
  | trap (cause : Nat) (xval : Word)
  | packet (q : Nat) (xval : Word)
  | freeze (kind : FreezeKind)
  deriving DecidableEq, Repr

/-- A computation on the state that can stop. -/
abbrev M := EStateM Stop State

/-- The number of the core that moves. -/
def me : M Nat := do return (← get).cur
/-- The core that moves. -/
def getC : M Core := do
  let s ← get
  return s.core s.cur
/-- A change of the core that moves. -/
def modC (f : Core → Core) : M Unit := modify fun s => s.modCore s.cur f
/-- A precise trap. -/
def trap {α : Type} (cause : Nat) (xval : Word) : M α := throw (.trap cause xval)
/-- The freeze line. -/
def freeze {α : Type} (k : FreezeKind) : M α := throw (.freeze k)
/-- A trap unless a condition holds. -/
def require (b : Bool) (cause : Nat) (xval : Word) : M Unit := if b then pure () else trap cause xval
/-- A number as a register value. -/
def w64 (n : Nat) : Word := BitVec.ofNat 64 n

/-- The state a computation leaves, whether it stopped or not. -/
def runM (m : M Unit) (s : State) : State :=
  match m s with
  | .ok _ s' => s'
  | .error _ s' => s'

/-! ## Boundary causes and errors -/

/-- The causes taken at a boundary, highest priority first (R340). -/
def boundaryOrder : List Nat := [0x0E, 0x0A, 0x0B, 0x04, 0x05, 0x17, 0x11, 0x12, 0x01, 0x19, 0x0F, 0x10]

/-- A boundary cause raised on a core: an empty slot takes it with its `XVAL`, a full one keeps the first `XVAL` (R340). -/
def State.raise (s : State) (c cause : Nat) (xval : Word) : State :=
  s.modCore c fun k => if k.pend.any (fun e => e.1 == cause) then k else { k with pend := k.pend ++ [(cause, xval)] }

/-- An error counted against `EBUD` (R309). -/
def State.countError (s : State) (c n : Nat) (addr : Nat) : State :=
  let e := (s.core c).csrs.ebud
  if e = 0xFFFFFFFF then s
  else
    let e' := BitVec.ofNat 32 (e.toNat - n)
    let s1 := s.modCore c fun k => { k with csrs := { k.csrs with ebud := e' } }
    if e' = 0 then s1.raise c 0x0F (w64 addr) else s1

/-- An error of checked storage met: by the context that consumes it, or by nothing of a context, which the management controller counts
(R307, R309). -/
def State.countMet (s : State) (who : Option Nat) (bad : Bool) (addr : Nat) : State :=
  match who with
  | some c => s.countError c (if bad then 16 else 1) addr
  | none => { s with dev := { s.dev with errors := s.dev.errors + 1 } }
/-- The class-map entry of a spring physical address (R303). -/
def State.classAt (s : State) (pa : Nat) : BitVec 2 := (find (s.spring (pa / 2 ^ 36)).classes (pa % 2 ^ 36 / 2 ^ 21)).getD 3
/-- The error that the check bits of a unit report, and whether it is uncorrectable (R307): spring memory of class detect corrects
nothing, that of class none and host memory report nothing. -/
def State.errorAt (s : State) (place : Nat) : Option Bool :=
  match findFirst (fun e => e.1 == place / 64) s.latent with
  | none => none
  | some (_, bad) =>
    if place ≥ 2 ^ 48 then some bad
    else if place ≥ 2 ^ 41 then none
    else match (s.classAt place).toNat with
      | 0 => some bad
      | 1 => some true
      | _ => none
/-- An error in the unit of a place met, if its check bits report one: corrected, or every word of the unit marked (R307). -/
def State.meetError (s : State) (place : Nat) (who : Option Nat) (addr : Nat) : State :=
  let unit := place / 64
  match s.errorAt place with
  | none => s
  | some bad =>
    let s1 := { s with latent := dropFirst (fun e => e.1 == unit) s.latent }
    (if bad then s1.mark (64 * unit) 64 else s1).countMet who bad addr
/-- An error in a flit that carries data to a core met (R307): whether it is uncorrectable, so that the data comes as poison. -/
def State.meetFlit (s : State) (c addr : Nat) : State × Bool :=
  match (s.core c).flit with
  | none => (s, false)
  | some bad => ((s.modCore c fun k => { k with flit := none }).countMet (some c) bad addr, bad)

/-! ## Events and page requests -/

/-- An event put before the partition's VF, to be written after its hold (R368). Events past 4096 of types 0x07 and 0x08 are merged
into one (R367). -/
def State.post (s : State) (p : Nat) (src type cause queue seq : Nat) (val : Word) : State :=
  s.modPart p fun q =>
    let e : Event := { time := s.gtime, src := src, type := type, cause := cause, queue := queue, seq := seq, val := val }
    if q.events.length ≥ 4096 && (type == 7 || type == 8) && q.events.any (fun x => x.type == type)
    then { q with events := replaceFirst (fun x => x.type == type) e q.events }
    else { q with events := q.events ++ [e] }

/-- The place of a byte of host memory (R325). -/
def hostPlace (a : Nat) : Nat := 2 ^ 47 + a % 2 ^ 47

/-- The 32 bytes of a page request (R329). -/
def PageReq.record (r : PageReq) : Nat :=
  (r.gen.toNat * 2 ^ 48 + r.asid.toNat * 2 ^ 32 + r.core * 2 ^ 12 + r.kind * 2 ^ 8 + r.cause)
  + (r.acc.toNat * 2 ^ 60 + r.level * 2 ^ 57 + r.va % 2 ^ 57) * 2 ^ 64
  + r.id * 2 ^ 128 + r.time * 2 ^ 192

/-- Entries in use of a queue with producer and consumer indices modulo 2^32 (R367). -/
def inUse (prod cons : BitVec 32) : Nat := (prod - cons).toNat

/-- The fault queue has room (R367); one that the host has not set up has none. -/
def Vf.faultRoom (v : Vf) : Bool :=
  decide (4 ≤ v.faultLog.toNat) && decide (inUse v.faultProd v.faultCons < 2 ^ (v.faultLog.toNat % 32))

/-- A page request written to the partition's fault queue, or kept while the queue is full (R328, R367). -/
def State.writeFault (s : State) (r : PageReq) : State :=
  let v := (s.part r.part).vf
  if v.faultRoom then
    let a := hostPlace (v.faultBase.toNat + 32 * (v.faultProd.toNat % 2 ^ (v.faultLog.toNat % 32)))
    let seen := decide (v.faultProd = v.faultCons)
    ({ s with mem := writeNat s.mem a 32 r.record }).modPart r.part fun q =>
      { q with vf := { q.vf with faultProd := q.vf.faultProd + 1, msix := if seen then q.vf.msix ||| 2 else q.vf.msix } }
  else s.modSpring (r.id / 2 ^ 59) fun g => { g with kept := g.kept ++ [r] }

/-- A page request posted by a spring: the state and its REQID (R329). -/
def State.request (s : State) (spring part : Nat) (gen : BitVec 16) (asid : BitVec 16) (core kind cause : Nat) (acc : BitVec 4)
    (level va : Nat) : State × Nat :=
  let seq := (s.spring spring).seq
  let id := spring * 2 ^ 59 + seq % 2 ^ 59
  let r : PageReq := { id := id, part := part, gen := gen, asid := asid, core := core, kind := kind, cause := cause, acc := acc,
                       level := level, va := va, time := s.gtime }
  let s1 := s.modSpring spring fun g => { g with seq := seq + 1, reqs := g.reqs ++ [r] }
  (s1.writeFault r, id)

end Sys2Proof.Machine
end

