-- ==== Sys2Proof/Machine/Translate.lean ====
section
/-!
DEFINITION. The address-range table (R142-R145) and the springs' walk of the translation tables with their TLB and walk cache
(R318-R327). A translation is for a partition, an ASID and an access; it answers a physical address with its class, or a fault.
-/
namespace Sys2Proof.Machine

/-! ## Home slices and springs (R143-R145) -/

/-- The entry in force that holds a cached address, with its position. -/
def rangeAt : List RangeEntry → Nat → Nat → Option (Nat × RangeEntry)
  | [], _, _ => none
  | e :: rest, i, va => if e.base ≤ va / 4096 && va / 4096 ≤ e.last then some (i, e) else rangeAt rest (i + 1) va

/-- The range entry of a cached address. -/
def Part.range (p : Part) (va : Nat) : Option (Nat × RangeEntry) := rangeAt p.table 0 va
/-- The line is of a managed region (R135, R143); outside every entry it is released (R145). -/
def Part.managed (p : Part) (va : Nat) : Bool :=
  match p.range va with
  | some (_, e) => e.coh
  | none => false

/-- The springs in which the partition owns a channel, ascending (R145). -/
def Part.springs (p : Part) : List Nat := p.chans.foldl (fun l c => insertNat l (c / 32)) []
/-- The number of the k-th set bit of a 32-bit mask (R144). -/
def kthBit (m : Nat) (k : Nat) : Nat := (nth ((List.range 32).filter fun i => m.testBit i) k).getD 0

/-- The home spring of a cached address (R144, R145). -/
def Part.homeSpring (p : Part) (va : Nat) : Nat :=
  match p.range va with
  | some (_, e) => kthBit e.spr.toNat ((va % 2 ^ 57 - e.base * 4096) / 2 ^ (12 + e.mil) % popCount 32 e.spr.toNat)
  | none => let l := p.springs; (nth l (va / 4096 % 2 ^ 45 % l.length)).getD 0

/-- The spread home of a slice granule (R144). -/
def RangeEntry.spread (e : RangeEntry) (u : Nat) : Nat := e.slice + xorFold u e.slog
/-- The home a first touch from a chiplet fixes (R145). -/
def RangeEntry.firstHome (e : RangeEntry) (chip u : Nat) : Nat :=
  let l := (List.range (2 ^ e.slog)).filter fun i => (e.slice + i) / 16 == chip
  match l with
  | [] => e.spread u
  | i :: _ => e.slice + i + xorFold u (Nat.log2 l.length)

/-- The home slice of a cached address as seen by a requester's chiplet (R144, R145). -/
def Part.homeSlice (p : Part) (chip va : Nat) : Nat :=
  match p.range va with
  | some (_, e) =>
    let u := (va % 2 ^ 57 - e.base * 4096) / 2 ^ (6 + e.sil)
    if e.place = 0 then e.spread u
    else if e.place = 1 then e.slice
    else match findFirst (fun t => t.slot == e.slot && t.granule == u) p.touched with
      | some t => t.home
      | none => e.firstHome chip u
  | none =>
    let k := xorFold (va / 64 % 2 ^ 51) 13 % (16 * p.chips.length)
    (nth p.chips (k / 16)).getD 0 * 16 + k % 16

/-- The first access to a slice granule that reaches the L2 level fixes its home; of two in one fabric cycle the one from the lower
chiplet (R145). -/
def State.touch (s : State) (part chip va : Nat) : State :=
  let p := s.part part
  match p.range va with
  | some (_, e) =>
    let u := (va % 2 ^ 57 - e.base * 4096) / 2 ^ (6 + e.sil)
    let t : Touch := { slot := e.slot, granule := u, home := e.firstHome chip u, chip := chip, at_ := s.fabric }
    if e.place != 2 then s
    else match findFirst (fun t => t.slot == e.slot && t.granule == u) p.touched with
      | none => s.modPart part fun q => { q with touched := q.touched ++ [t] }
      | some old =>
        if old.at_ = s.fabric && decide (chip < old.chip)
        then s.modPart part fun q => { q with touched := replaceFirst (fun x => x == old) t q.touched } else s
  | none => s

/-! ## Classes and ownership (R303, R304, R325) -/

/-- The partition owns the channel of a spring physical address (R303, R317). -/
def Part.ownsPa (p : Part) (pa : Nat) : Bool := decide (pa < 2 ^ 41) && p.chans.contains (pa / 2 ^ 31)
/-- A table may stand at a physical address (R325). -/
def State.tableOk (s : State) (part pa : Nat) : Bool :=
  (s.part part).ownsPa pa && (s.classAt pa == 0 || s.classAt pa == 1)
/-- Bytes a leaf of a level covers. -/
def leafSize (l : Nat) : Nat := if l = 3 then 2 ^ 30 else if l = 4 then 2 ^ 21 else 2 ^ 12
/-- A leaf's frame meets R325 and R304 for the address it maps. -/
def State.frameOk (s : State) (part va pa l cls : Nat) : Bool :=
  if pa < 2 ^ 41 then
    pa / 2 ^ 36 == (s.part part).homeSpring va && (s.part part).ownsPa pa &&
      (List.range (leafSize l / 2 ^ 21 + 1)).all fun g =>
        decide (g * 2 ^ 21 ≥ leafSize l) && g != 0 || (s.classAt (pa + g * 2 ^ 21)).toNat == cls
  else decide (pa ≥ 2 ^ 47) && cls == 2

/-! ## The walk (R318, R327) -/

/-- A request for translation: partition, ASID, whether at user level, the rights needed, and the context that consumes errors. -/
structure Req where
  part : Nat
  asid : BitVec 16
  user : Bool
  r : Bool
  w : Bool
  x : Bool
  who : Option Nat
  kept : Option (BitVec 16) := none
  deriving DecidableEq, Repr

/-- The rights as a page request carries them (R329). -/
def Req.acc (q : Req) : BitVec 4 :=
  BitVec.ofNat 4 ((if q.r then 8 else 0) + (if q.w then 4 else 0) + (if q.x then 2 else 0) + (if q.user then 1 else 0))

/-- The leaf denies the access (R326). -/
def denied (e : Nat) (q : Req) : Bool :=
  (q.r && !e.testBit 2) || (q.w && !e.testBit 3) || (q.x && !e.testBit 4) || (q.user && !e.testBit 5)

/-- How a walk ends: at a leaf of a level, or with a fault at an entry. -/
inductive Walk where
  | leaf (lvl addr e : Nat)
  | fault (cause lvl e : Nat)
  deriving DecidableEq, Repr

/-- Index(va, l) (R318). -/
def walkIndex (va l : Nat) : Nat := bits va (48 - 9 * (l - 1)) 9

/-- Checks 3 to 6 of R327 on an entry of level `l`: the cause of the first that fails, or 0. -/
def State.entryCause (s : State) (part va l e : Nat) : Nat :=
  if !e.testBit 0 then 0x04
  else if bits e 48 11 ≠ 0 then 0x06
  else if !e.testBit 1 then
    if l = 5 || bits e 9 3 ≠ 0 then 0x06
    else if bits e 41 7 ≠ 0 || !s.tableOk part (bits e 12 36 * 4096) then 0x06 else 0
  else if l < 3 || bits e 12 36 * 4096 % leafSize l ≠ 0 then 0x06
  else if e.testBit 9 && (l != 5 || bits e 12 4 != bits va 12 4) then 0x06
  else if e.testBit 3 && !e.testBit 2 then 0x06
  else if bits e 10 2 = 3 || !s.frameOk part va (bits e 12 36 * 4096) l (bits e 10 2) then 0x06 else 0

/-- An entry of level `l` read at its address under checks 2 to 6 of R327: what it holds, and the cause of the first check that fails,
or 0. An error met is the reader's (R307, R309). -/
def State.readEntry (s : State) (part va : Nat) (who : Option Nat) (l a : Nat) : State × Nat × Nat :=
  let e := s.bytes a 8
  let s1 := s.meetError a who va
  if s.errorAt a = some true then (s1, e, 0x06)
  else if s.anyMarked a 8 then (match who with | some c => s1.countError c 16 va | none => s1, e, 0x06)
  else (s1, e, s.entryCause part va l e)

/-- The walk from level `l` at table `t`, with the entries read on the way: level, table it names, its address. -/
def State.walkFrom (s : State) (part va : Nat) (who : Option Nat) : Nat → Nat → Nat → List (Nat × Nat × Nat) →
    State × Walk × List (Nat × Nat × Nat)
  | 0, l, _, seen => (s, .fault 0x06 l 0, seen)
  | fuel + 1, l, t, seen =>
    let a := t + 8 * walkIndex va l
    match s.readEntry part va who l a with
    | (s1, e, c) =>
      if c ≠ 0 then (s1, .fault c l e, seen)
      else if e.testBit 1 then (s1, .leaf l a e, seen)
      else s1.walkFrom part va who fuel (l + 1) (bits e 12 36 * 4096) (seen ++ [(l, bits e 12 36 * 4096, a)])

/-! ## TLB and walk cache (R319) -/

/-- An entry put into a full or not yet full cache of `n` entries; which one it replaces is left open (R319). -/
def putCache {α : Type} (step n : Nat) (l : List α) (x : α) : List α :=
  if l.length < n then x :: l else x :: l.eraseIdx (Config.victim step n % n)

/-- The TLB entry that serves an address. -/
def tlbHit (sp : Spring) (part : Nat) (asid : BitVec 16) (va : Nat) : Option TlbEntry :=
  findFirst (fun t => t.part == part && (t.asid == asid || t.leaf.toNat.testBit 6) && va / 2 ^ t.bits == t.base / 2 ^ t.bits) sp.tlb

/-- The deepest walk-cache hit: the level to walk next, its table and the path to it. -/
def walkHit (sp : Spring) (part : Nat) (asid : BitVec 16) (va : Nat) : Option (Nat × Nat × List Nat) :=
  (List.range 4).foldl (fun best i =>
    let l := i + 1
    match findFirst (fun w => w.part == part && w.asid == asid && w.level == l && w.pfx == va / 2 ^ (57 - 9 * l)) sp.walk with
    | some w => some (l + 1, w.table, w.path)
    | none => best) none

/-- Entries read on a walk, after those of a path, installed in the walk cache. -/
def installWalk (step part : Nat) (asid : BitVec 16) (va : Nat) (path : List Nat) (sp : Spring) : List (Nat × Nat × Nat) → Spring
  | [] => sp
  | (l, t, a) :: rest =>
    let w : WalkEntry := { part := part, asid := asid, level := l, pfx := va / 2 ^ (57 - 9 * l), table := t, path := path ++ [a] }
    installWalk step part asid va (path ++ [a]) { sp with walk := putCache step 1024 sp.walk w } rest

/-- The answer to a translation. -/
inductive Xlate where
  | ok (pa cls : Nat)
  | fault (cause lvl : Nat)
  deriving DecidableEq, Repr

/-- The physical address a leaf gives. -/
def leafPa (leaf va bitsN : Nat) : Nat := bits leaf 12 36 * 4096 / 2 ^ bitsN * 2 ^ bitsN + va % 2 ^ bitsN

/-- Accessed and dirty bits set in the leaf at its address (R318, R326). -/
def State.setBits (s : State) (addr e : Nat) (dirty : Bool) : State :=
  let e' := e ||| 0x80 ||| (if dirty then 0x100 else 0)
  if e' = e then s else { s with mem := writeNat s.mem addr 8 e' }

/-- A translation by the tables, where no TLB entry serves it (R318, R319). -/
def State.walked (s : State) (q : Req) (va : Nat) : State × Xlate :=
  let p := s.part q.part
  let n := p.homeSpring va
  match find p.roots q.asid.toNat with
  | none => (s, .fault 0x04 1)
  | some root =>
    let start := (walkHit (s.spring n) q.part q.asid va).getD (1, root, [])
    let r := s.walkFrom q.part va q.who 5 start.1 start.2.1 []
    let s1 := r.1.modSpring n fun g => installWalk s.stepNo q.part q.asid va start.2.2 g r.2.2
    match r.2.1 with
    | .fault c l _ => (s1, .fault c l)
    | .leaf l addr e =>
      if denied e q then (s1, .fault 0x05 l)
      else
        let s2 := s1.setBits addr e q.w
        let bitsN := if e.testBit 9 then 16 else if l = 3 then 30 else if l = 4 then 21 else 12
        let leaf := e ||| 0x80 ||| (if q.w then 0x100 else 0)
        let t : TlbEntry := { part := q.part, asid := q.asid, base := va / 2 ^ bitsN * 2 ^ bitsN, bits := bitsN,
                              leaf := w64 leaf, addr := addr, path := start.2.2 ++ r.2.2.map (fun e => e.2.2) ++ [addr] }
        (s2.modSpring n fun g => { g with tlb := putCache s.stepNo 8192 g.tlb t },
          .ok (leafPa e va bitsN) (bits e 10 2))

/-- The level of a TLB entry's leaf. -/
def TlbEntry.level (t : TlbEntry) : Nat := if t.bits = 30 then 3 else if t.bits = 21 then 4 else 5

/-- A translation below L2 (R318, R319, R326, R327), at the home spring of the address. A write through an entry without D reads the
leaf again; where that is no leaf that allows the write the entry goes, and the write faults as a walk would there (R326). The control
pages, which every ASID maps without U, stand at places of their own (R142, R356). -/
def State.translate (s : State) (q : Req) (va : Nat) : State × Xlate :=
  if inControl va then (s, if q.user then .fault 0x05 5 else .ok (ctlPlace q.part (va % 8192)) 0) else
  let p := s.part q.part
  let n := p.homeSpring va
  match tlbHit (s.spring n) q.part q.asid va with
  | some t =>
    if denied t.leaf.toNat q then (s, .fault 0x05 t.level)
    else if q.w && !t.leaf.toNat.testBit 8 then
      let drop (st : State) : State := st.modSpring n fun g => { g with tlb := dropFirst (fun x => x == t) g.tlb }
      match s.readEntry q.part va q.who t.level t.addr with
      | (s1, e, c) =>
        if c ≠ 0 then (drop s1, .fault c t.level)
        else if !e.testBit 1 then (drop s1).walked q va
        else if denied e q then (drop s1, .fault 0x05 t.level)
        else
          ((s1.setBits t.addr e true).modSpring n fun g =>
            { g with tlb := replaceFirst (fun x => x == t) { t with leaf := t.leaf ||| 0x100 } g.tlb },
            .ok (leafPa t.leaf.toNat va t.bits) (bits t.leaf.toNat 10 2))
    else (s, .ok (leafPa t.leaf.toNat va t.bits) (bits t.leaf.toNat 10 2))
  | none => s.walked q va

end Sys2Proof.Machine
end

