-- ==== Sys2Proof/Machine/Cache.lean ====
section
/-!
DEFINITION. The caches: lines of L2 slices and their merges by byte mask (R136, R141), the L1 of a core (R140), update-only lines
(R129-R131), the tags of releases and their flushes (R151, R152), the side log (R330) and the two places an atomic is performed at
(R126-R128).
-/
namespace Sys2Proof.Machine

/-! ## Bytes of a line -/

/-- A bit per byte spread over the byte. -/
def spread (mask : Nat) : Nat → Nat
  | 0 => 0
  | n + 1 => (if mask % 2 = 1 then 255 else 0) + 256 * spread (mask / 2) n
/-- The bytes of `new` whose mask bit is set, over `old` (R136). -/
def mergeData (old new : BitVec 512) (mask : BitVec 64) : BitVec 512 :=
  let m := BitVec.ofNat 512 (spread mask.toNat 64)
  (old &&& ~~~m) ||| (new &&& m)
/-- Marks after a write by mask: a word it marks, a word it wholly covers with clean data, any other word (R120, R136). -/
def mergeMarks (old new : BitVec 16) (mask : BitVec 64) : BitVec 16 :=
  let t := BitVec.ofNat 16 (touchedWords mask.toNat)
  let c := BitVec.ofNat 16 (coveredWords mask.toNat)
  (old &&& ~~~c) ||| (new &&& t)
/-- Marks after a write-back: the words it clears, then those it marks (R120, R136). -/
def sentMarks (old sets clears : BitVec 16) : BitVec 16 := (old &&& ~~~clears) ||| sets
/-- The byte mask of `n` bytes from an offset. -/
def byteMask (off n : Nat) : BitVec 64 := BitVec.ofNat 64 ((2 ^ n - 1) * 2 ^ off)
/-- `n` bytes of a line from an offset. -/
def lineBytes (d : BitVec 512) (off n : Nat) : Nat := bits d.toNat (8 * off) (8 * n)
/-- A word mask of the words that `n` bytes from an offset touch. -/
def wordMask (off n : Nat) : BitVec 16 := BitVec.ofNat 16 (touchedWords (byteMask off n).toNat)

/-! ## Requests of a context -/

/-- The translation request of a core's access at its level. -/
def State.reqOf (s : State) (c : Nat) (r w x : Bool) : Req :=
  let k := s.core c
  { part := k.task.part, asid := k.csrs.asid, user := k.level == .user, r := r, w := w, x := x, who := some c }
/-- The translation request of an engine command's access (R326). -/
def Issuer.req (i : Issuer) (r w : Bool) : Req :=
  { part := i.part, asid := i.asid, user := i.level == .user, r := r, w := w, x := false, who := some i.core }

/-! ## Contexts kept with a stopped launch (R345, R346, R348) -/

/-- A core's context of a generation that a stopped launch keeps. -/
def State.keptCore (s : State) (c : Nat) (gen : BitVec 16) : Option Core :=
  (findFirst (fun (e : Nat × Core) => e.1 == c && e.2.gen == gen) (s.launches.map fun l => l.saved).flatten).map fun e => e.2
/-- The context that issued a command is kept with a stopped launch. -/
def State.kept (s : State) (i : Issuer) : Bool := (s.keptCore i.core i.gen).isSome
/-- A boundary cause raised on a context whose image is saved: bit `cause` and the cause's `XVAL` slot of area 1 (R346). -/
def State.raiseSaved (s : State) (c cause : Nat) (xval : Word) : State :=
  let p := sharePlace c 0x7120
  let pend := s.bytes p 8
  if pend.testBit cause then s
  else
    let i := (boundaryOrder.findIdx? fun x => x == cause).getD 0
    (s.writeClean p 8 (pend + 2 ^ cause)).writeClean (p + 8 + 8 * i) 8 xval.toNat
/-- The half of a core's share that its save areas and tile images lie in: bytes and marked words (R49, R346). -/
def State.saveHalf (s : State) (c : Nat) : Nat × List Nat :=
  let p := sharePlace c 0x4000
  (s.bytes p 16384, (List.range 4096).filter fun i => s.marked (p + 4 * i))
/-- That half given other bytes and marks. -/
def State.setHalf (s : State) (c : Nat) (h : Nat × List Nat) : State :=
  let p := sharePlace c 0x4000
  let s1 := s.writeClean p 16384 h.1
  { s1 with marks := h.2.foldl (fun m i => insertNat m (p / 4 + i)) s1.marks }
/-- A change made with a kept context's image in its core's share, also where a later launch has had it put aside (R331, R346; DESIGN
CHOICE: log entry 89). -/
def State.onImage {α : Type} (s : State) (c : Nat) (gen : BitVec 16) (f : State → State × α) : State × α :=
  let keeps (l : Launch) : Bool := l.saved.any fun e => e.1 == c && e.2.gen == gen
  match (findFirst keeps s.launches).bind fun l => find l.aside c with
  | none => f s
  | some h =>
    let r := f (s.setHalf c h)
    ({ r.1.setHalf c (s.saveHalf c) with
      launches := r.1.launches.map fun l => if keeps l then { l with aside := put l.aside c (r.1.saveHalf c) } else l }, r.2)
/-- A change of the state made with a context on its core, also where the context is kept with a stopped launch: there an error
counted and a cause raised go to the saved image (R307, R309, R346). -/
def State.within {α : Type} (s : State) (c : Nat) (gen : BitVec 16) (f : State → State × α) : State × α :=
  match s.keptCore c gen with
  | none => f s
  | some k => s.onImage c gen fun s =>
    let p := sharePlace c 0x70B0
    let left := BitVec.ofNat 32 (s.bytes p 4)
    let r := f (s.setCore c { k with csrs := { k.csrs with ebud := left }, pend := [] })
    let k1 := r.1.core c
    let s1 : State := { r.1 with
      cores := put r.1.cores c (s.core c)
      launches := r.1.launches.map fun l =>
        { l with saved := l.saved.map fun e => if e.1 == c && e.2.gen == gen then (c, { k1 with csrs := k.csrs, pend := k.pend }) else e } }
    let s2 := if k1.csrs.ebud = left then s1 else s1.writeClean p 4 k1.csrs.ebud.toNat
    (k1.pend.foldl (fun st (e : Nat × Word) => st.raiseSaved c e.1 e.2) s2, r.2)
/-- The same for a change alone. -/
def State.inContext (s : State) (c : Nat) (gen : BitVec 16) (f : State → State) : State := (s.within c gen fun st => (f st, ())).1

/-! ## L2 slices -/

/-- A write to a control page at its home slice: the words R142, R333 and R356 keep to themselves ignore it. -/
def ctlWritable (off : Nat) : Bool :=
  !((decide (0x828 ≤ off) && decide (off < 0x840)) || (decide (0x8B0 ≤ off) && decide (off < 0x1000)) ||
    (decide (0x1200 ≤ off) && decide (off < 0x1220)) || decide (0x1238 ≤ off))

/-- A byte of a control page as a write leaves it: the bits of HVA and of the doubleword of HEN that are always zero stay so (R356). -/
def ctlByte (off v : Nat) : Nat :=
  if off = 0x122F then v % 2
  else if 0x1232 ≤ off ∧ off ≤ 0x1236 then 0
  else if off = 0x1237 then v % 256 / 128 * 128
  else v % 256
/-- A line of a control page at its home slice. One page stands under every ASID of its partition (R356), so a slice keeps no copy of it:
what reaches the slice acts on the page itself (DEDUCED: log entry 53). -/
def State.ctlLine (s : State) (part : Nat) (asid : BitVec 16) (line : Nat) : L2Line :=
  let p := ctlPlace part (64 * line % 8192)
  { part := part, asid := asid, line := line, data := BitVec.ofNat 512 (s.bytes p 64), dirty := 0, marks := s.lineMarks p, cls := 0, err := none }
/-- The bytes and marks that a write at the home slice has left in such a line, put into the page. -/
def State.ctlPut (s : State) (x : L2Line) : State :=
  let off := 64 * x.line % 8192
  let p := ctlPlace x.part off
  let mask := (List.range 64).foldl (fun acc i => if x.dirty.getLsbD i && ctlWritable (off + i) then acc + 2 ^ i else acc) 0
  let data := (List.range 64).foldl (fun acc i => acc + ctlByte (off + i) (lineBytes x.data i 1) * 2 ^ (8 * i)) 0
  (List.range 16).foldl (fun st i =>
    if !ctlWritable (off + 4 * i) then st
    else if x.marks.getLsbD i then st.mark (p + 4 * i) 4 else st.unmark (p + 4 * i) 4)
    { s with mem := writeMasked s.mem p 64 data mask }
/-- The L2 line of a partition's ASID (R141). -/
def State.l2Get (s : State) (part : Nat) (asid : BitVec 16) (line : Nat) : Option L2Line :=
  if inControl (64 * line) then some (s.ctlLine part asid line)
  else findFirst (fun l => l.part == part && l.asid == asid && l.line == line) s.l2
/-- An L2 line in place of the one with its tag. -/
def State.l2Put (s : State) (x : L2Line) : State :=
  if inControl (64 * x.line) then s.ctlPut x
  else { s with l2 := replaceFirst (fun l => l.part == x.part && l.asid == x.asid && l.line == x.line) x s.l2 }

/-- Bytes that a spring holds for a line, over the bytes of its frame's unit (R159, R328). -/
def overHeld (held : List HeldLine) (part : Nat) (asid : BitVec 16) (line unit : Nat) (d : BitVec 512) (m : BitVec 16) :
    BitVec 512 × BitVec 16 :=
  held.foldl (fun r h =>
    if (match h.frame with
      | some n => n == unit
      | none => h.part == part && h.asid == asid && h.line == line) then (mergeData r.1 h.data h.mask, mergeMarks r.2 h.marks h.mask) else r) (d, m)

/-- Energy estimated for a context, in pJ (R349, R371). -/
def State.spend (s : State) (c n : Nat) : State := s.modCore c fun k => { k with energy := k.energy + n }
/-- Energy estimated for the context of a request, where it has one. -/
def State.spendFor (s : State) (who : Option Nat) (n : Nat) : State :=
  match who with
  | some c => s.spend c n
  | none => s
/-- A line whose storage had an uncorrectable error: every word of it is marked (R307). -/
def L2Line.disturbed (x : L2Line) (bad : Bool) : L2Line := { x with err := none, marks := if bad then BitVec.allOnes 16 else x.marks }
/-- An error in an L2 line met (R307). -/
def State.l2Meet (s : State) (x : L2Line) (who : Option Nat) (addr : Nat) : State :=
  match x.err with
  | none => s
  | some bad => (s.l2Put (x.disturbed bad)).countMet who bad addr

/-- An L2 line's dirty bytes written to its spring or host memory by mask, and the line dropped (R141, R308, R326, R328). A spring that
moves the line's page holds them (R159). -/
def State.l2Evict (s : State) (y : L2Line) : State :=
  let x := y.disturbed (y.err == some true)
  let s0 := { s with l2 := dropFirst (fun l => l.part == x.part && l.asid == x.asid && l.line == x.line) s.l2 }
  let s0 := match y.err with
    | some bad => s0.countMet none bad 0
    | none => s0
  if x.dirty = 0 then s0
  else
    let q : Req := { part := x.part, asid := x.asid, user := false, r := false, w := true, x := false, who := none }
    let va := x.line * 64
    let kept (req : Nat) (frame : Option Nat) : HeldLine :=
      { req := req, frame := frame, part := x.part, asid := x.asid, line := x.line, data := x.data, mask := x.dirty, marks := x.marks }
    let hold (s : State) (n req : Nat) (frame : Option Nat) : State := s.modSpring n fun g => { g with held := g.held ++ [kept req frame] }
    match s0.translate q va with
    | (s1, .ok pa cls) =>
      let n := (s1.part x.part).homeSpring va
      match (s1.spring n).moving with
      | some m =>
        if m.old ≤ pa && pa < m.old + m.size then hold s1 n (2 ^ 64) (some (pa / 64))
        else s1.writeLine (pa / 64 * 64) x.data x.dirty (if cls = 2 then 0 else x.marks)
      | none => s1.writeLine (pa / 64 * 64) x.data x.dirty (if cls = 2 then 0 else x.marks)
    | (s1, .fault c l) =>
      let n := (s1.part x.part).homeSpring va
      let r := s1.request n x.part 0 x.asid 0 4 c q.acc l va
      hold r.1 n r.2 none

/-- A line that a matrix command has pinned in its home slice (R240). -/
def State.pinned (s : State) (x : L2Line) : Bool :=
  s.ponds.any fun p => p.2.pins.any fun n => n.part == x.part && n.asid == x.asid && n.line == x.line
/-- The lines of a home slice. -/
def State.inSlice (s : State) (slice : Nat) : List L2Line :=
  s.l2.filter fun x => (s.part x.part).homeSlice 0 (64 * x.line) == slice
/-- Room made in the home slice of an address, which holds 2 MiB (R2, R141): the spec leaves open which line gives way, and how lines
share the sets of 16, so that one may give way earlier (`TRANSLATION_WALK`; log entry 6). Where every line of the slice is pinned, the
pin of one gives way (DESIGN CHOICE: log entry 6). A line written back is paid for by the context whose access needs the room (R371;
DESIGN CHOICE: log entry 28). -/
def State.l2Room (s : State) (part chip va : Nat) (who : Option Nat) : State :=
  if s.l2.length < 32768 then s
  else
    let l := s.inSlice ((s.part part).homeSlice chip va)
    if l.length < 32768 then s
    else
      let free := l.filter fun x => !s.pinned x
      let free := if free.isEmpty then l else free
      match nth free (Config.victim s.stepNo free.length % free.length) with
      | some x => (if x.dirty = 0 then s else s.spendFor who 1600).l2Evict x
      | none => s

/-- The line of an address brought into its home slice, translated on a miss (R134, R141, R318), by what runs now. A read by a context
consumes an error it meets (R307). -/
def State.l2Bring (s : State) (q : Req) (va : Nat) : State × Xlate :=
  let line := va % 2 ^ 57 / 64
  let reader := if q.r || q.x then q.who else none
  let s0 := match q.who with
    | some c => s.touch q.part (chipOf c) va
    | none => s
  if inControl (64 * line) then s0.translate q (va % 2 ^ 57)
  else match s0.l2Get q.part q.asid line with
  | some l => (if q.r || q.x then s0.l2Meet l reader va else s0, .ok 0 l.cls.toNat)
  | none =>
    match s0.translate q va with
    | (s1, .fault c l) => (s1, .fault c l)
    | (s1, .ok pa cls) =>
      let base := pa / 64 * 64
      let s2 := (s1.meetError base reader va).l2Room q.part (chipOf (q.who.getD 0)) va q.who
      let p := s2.part q.part
      let h := overHeld (s2.spring (p.homeSpring va)).held q.part q.asid line (base / 64) (BitVec.ofNat 512 (s2.bytes base 64))
        (if cls = 2 then 0 else s2.lineMarks base)
      let x : L2Line := { part := q.part, asid := q.asid, line := line, data := h.1, dirty := 0, marks := h.2, cls := BitVec.ofNat 2 cls,
                          err := none }
      (({ s2 with l2 := x :: s2.l2 }).spendFor q.who 1600, .ok pa cls)
/-- The same for any request: one of a context that is kept with a stopped launch is made, and paid for, by that context (R349). -/
def State.l2Fill (s : State) (q : Req) (va : Nat) : State × Xlate :=
  match q.kept, q.who with
  | some gen, some c => s.within c gen fun st => st.l2Bring { q with kept := none } va
  | _, _ => s.l2Bring q va

/-! ## Tags of releases (R151) -/

/-- The tag covers one of `n` bytes at an address of a place's kind. -/
def Tag.meets (t : Tag) (tarn : Bool) (part : Nat) (asid : BitVec 16) (a n : Nat) : Bool :=
  t.tarn == tarn && (tarn || (t.part == part && t.asid == asid)) && decide (t.addr < a + n) && decide (a < t.addr + t.size)
/-- A write without a release clears the tags it meets (R151). -/
def State.untag (s : State) (tarn : Bool) (part : Nat) (asid : BitVec 16) (a n : Nat) : State :=
  { s with tags := s.tags.filter fun t => !t.meets tarn part asid a n }
/-- A release write tags its variable in place of any earlier tag (R151). -/
def State.tag (s : State) (tarn : Bool) (part : Nat) (asid : BitVec 16) (a n : Nat) (rel : Rel) : State :=
  let s1 := s.untag tarn part asid a n
  { s1 with tags := { tarn := tarn, part := part, asid := asid, addr := a, size := n, rels := [rel] } :: s1.tags }
/-- Two agents' cores lie in each other's scope (R147). -/
def scopeCovers (sc : Scope) (a b : Nat) : Bool :=
  match sc with
  | .core => a == b
  | .pond => pondOf a == pondOf b
  | .chip => chipOf a == chipOf b
  | .dev | .sys => true
/-- The releases that tagged the bytes of a variable. -/
def State.relsOf (s : State) (tarn : Bool) (part : Nat) (asid : BitVec 16) (a n : Nat) : List Rel :=
  (s.tags.filter fun t => t.meets tarn part asid a n).flatMap fun t => t.rels
/-- A core has read what releases wrote, which a later `fence.acq` makes an acquire of them (R152). -/
def State.saw (s : State) (c : Nat) (l : List Rel) : State :=
  if l.isEmpty then s else s.modCore c fun k => { k with seen := k.seen ++ l.filter fun r => !k.seen.contains r }
/-- A write performed by a core at a home slice or tarn: tagged after a `fence.rel` (R152), else clearing the tag. -/
def State.wrote (s : State) (c : Nat) (tarn : Bool) (a n : Nat) : State :=
  let k := s.core c
  match k.fenceTag with
  | some sc => s.tag tarn k.task.part k.csrs.asid a n { core := c, scope := sc }
  | none => s.untag tarn k.task.part k.csrs.asid a n

/-! ## The side log (R330) -/

/-- The place of entry `i` of a core's side log. -/
def slogPlace (c i : Nat) : Nat := sharePlace c (0x6B00 + 80 * i)
/-- ST of entry `i` of a core's side log. -/
def State.slogSt (s : State) (c i : Nat) : Nat := bits (s.bytes (slogPlace c i) 8) 57 3
/-- The entries of a core's side log in log order, those that a supervisor has emptied left out. -/
def State.logged (s : State) (c : Nat) : List SideEntry := (s.core c).slog.filter fun e => s.slogSt c e.num != 0
/-- The log as its words in the tarn have it: emptied entries gone, those that a supervisor has filled behind the others. -/
def State.slogSync (s : State) (c : Nat) : State :=
  let old := s.logged c
  let new := (List.range 16).filter fun i => s.slogSt c i != 0 && !old.any fun e => e.num == i
  if new.isEmpty && old.length = (s.core c).slog.length then s
  else s.modCore c fun k =>
    { k with slog := old ++ new.map fun i => { num := i, asid := k.csrs.asid, level := .user, clears := 0, tagged := 0, rel := none } }
/-- The log holds an entry for the page of an address. -/
def State.slogPage (s : State) (c va : Nat) : Bool :=
  (s.logged c).any fun e => bits (s.bytes (slogPlace c e.num) 8) 12 45 == bits va 12 45
/-- The first empty entry. -/
def State.slogFree (s : State) (c : Nat) : Option Nat :=
  findFirst (fun i => !(s.logged c).any fun e => e.num == i) (List.range 16)
/-- An entry put into the log: kind, address, mask or operation, data, the words it marks, and what the device keeps of it. Nothing when
the log is full. -/
def State.slogPut (s : State) (c kind va oper data : Nat) (marks : BitVec 16) (e : SideEntry) : Option State :=
  match s.slogFree c with
  | none => none
  | some i =>
    let p := slogPlace c i
    let s1 := { s with mem := writeNat (writeNat (writeNat s.mem p 8 (kind * 2 ^ 60 + 2 ^ 57 + va % 2 ^ 57)) (p + 8) 8 oper) (p + 16) 64 data }
    let s2 := (List.range 16).foldl (fun st w => if marks.getLsbD w then st.mark (p + 16 + 4 * w) 4 else st.unmark (p + 16 + 4 * w) 4) s1
    some (s2.modCore c fun k => { k with slog := s.logged c ++ [{ e with num := i }] })
/-- An entry taken out of the log (R330: ST 0). -/
def State.slogDrop (s : State) (c i : Nat) : State :=
  let d0 := s.bytes (slogPlace c i) 8
  ({ s with mem := writeNat s.mem (slogPlace c i) 8 (d0 - bits d0 57 3 * 2 ^ 57) }).modCore c fun k =>
    { k with slog := k.slog.filter fun e => e.num != i }
/-- Every entry taken out of the log, unreported (R331). -/
def State.slogForget (s : State) (c : Nat) : State :=
  ((s.core c).slog.foldl (fun st (e : SideEntry) => st.slogDrop c e.num) s).modCore c fun k => { k with slog := [], loss := none }
/-- A page request for a side-log entry (R328). -/
def State.slogRequest (s : State) (c : Nat) (q : Req) (va cause lvl : Nat) : State :=
  (s.request ((s.part q.part).homeSpring va) q.part (s.core c).gen q.asid c 1 cause q.acc lvl va).1

/-! ## Atomic operations (R126-R128) -/

/-- The value an atomic writes from the cell `c`, the operand `b` and, for `acas`, the expected value `d`; `f` is its F field. -/
def atomicNew (op f c b d : Nat) : Option Nat :=
  let w := if f % 2 = 1 then 64 else 32
  let n := f / 8 % 2 = 1
  let b := b % 2 ^ w
  match op with
  | 0x3B => some ((c + b) % 2 ^ w)
  | 0x3C => some (c &&& b)
  | 0x3D => some (c ||| b)
  | 0x3E => some (c ^^^ b)
  | 0x3F => some (if n then Nat.min c b else if signed w c ≤ signed w b then c else b)
  | 0x40 => some (if n then Nat.max c b else if signed w c ≥ signed w b then c else b)
  | 0x41 => some b
  | 0x42 => if c = d % 2 ^ w then some b else none
  | 0x43 => some (addF32 c b)
  | 0x44 => some (maxNumber fp32 c b)
  | _ => some (minNumber fp32 c b)
/-- The atomic is a floating one. -/
def atomicFloat (op : Nat) : Bool := 0x43 ≤ op
/-- The bytes of an atomic's cell. -/
def atomicSize (f : Nat) : Nat := if f % 2 = 1 then 8 else 4
/-- A value is poisoned as an operand of a floating atomic (R128). -/
def atomicPattern (op v : Nat) : Bool := atomicFloat op && fp32.isPoison v

/-- What an atomic makes of a cell: the value written with its poison, and the poisoned state the cell had (R128). -/
def atomicResult (op f c : Nat) (cp : Bool) (b : Nat) (bp : Bool) (d : Nat) : Option (Nat × Bool) × Bool :=
  let cp := cp || atomicPattern op c
  let bp := bp || atomicPattern op b
  match atomicNew op f c b d with
  | none => (none, cp)
  | some v => if cp || bp then (some (if atomicFloat op then 0x7FFFFFFF else v, true), cp) else (some (v, false), cp)

/-- An atomic performed at a line of L2: the state, the old value and its poison. A floating result into class none is not marked. -/
def State.atomicLine (s : State) (x : L2Line) (off op f b : Nat) (bp : Bool) (d : Nat) : State × Nat × Bool :=
  let n := atomicSize f
  let c := lineBytes x.data off n
  let wm := wordMask off n
  let r := atomicResult op f c ((x.marks &&& wm) != 0) b bp d
  match r.1 with
  | none => (s, c, r.2)
  | some (v, p) =>
    let m := byteMask off n
    let mark := p && !(atomicFloat op && x.cls == 2)
    (s.l2Put { x with
        data := mergeData x.data (BitVec.ofNat 512 (v * 2 ^ (8 * off))) m
        dirty := x.dirty ||| m
        marks := if mark then x.marks ||| wm else x.marks &&& ~~~wm }, c, r.2)

/-! ## Write-backs and merges from a core -/

/-- Bytes of a mask written without a release: the tags of the variables they meet go (R151). -/
def State.untagMask (s : State) (part : Nat) (asid : BitVec 16) (line : Nat) (mask : BitVec 64) : State :=
  if s.tags.isEmpty then s
  else (List.range 64).foldl (fun st i => if mask.getLsbD i then st.untag false part asid (64 * line + i) 1 else st) s
/-- Bytes of a mask written with a release: each is tagged with it in place of any earlier tag (R151, R152). -/
def State.tagMask (s : State) (part : Nat) (asid : BitVec 16) (line : Nat) (mask : BitVec 64) (rel : Rel) : State :=
  (List.range 64).foldl (fun st i => if mask.getLsbD i then st.tag false part asid (64 * line + i) 1 rel else st) s
/-- Bytes of a line written at its home slice: those that other cores' L1s hold dirty are older there from now on (R149). -/
def State.overtake (s : State) (part : Nat) (asid : BitVec 16) (line : Nat) (mask : BitVec 64) (by_ : Option Nat) : State :=
  { s with l1 := s.l1.map fun e =>
      if by_ == some e.1 || (s.core e.1).task.part != part then e
      else (e.1, e.2.map fun l => if l.asid == asid && l.line == line then { l with overtaken := l.overtaken ||| (mask &&& l.dirty) } else l) }
/-- Bytes of a line written at its home slice by mask for a core: those that a release tags and the others (R151, R152). -/
def State.arrived (s : State) (w : WriteBack) : State :=
  let s1 := (s.untagMask w.part w.asid w.line (w.mask &&& ~~~w.tagged)).overtake w.part w.asid w.line w.mask (some w.core)
  match w.rel with
  | some r => s1.tagMask w.part w.asid w.line (w.mask &&& w.tagged) r
  | none => s1.untagMask w.part w.asid w.line (w.mask &&& w.tagged)
/-- A write by mask merged into its line (R136). -/
def State.merged (s : State) (x : L2Line) (w : WriteBack) : State :=
  (s.l2Put { x with data := mergeData x.data w.data w.mask, dirty := x.dirty ||| w.mask,
                    marks := sentMarks x.marks w.marks w.clears }).arrived w
/-- The lines a `dsc` on its way names. -/
def WriteBack.drops (w : WriteBack) (line : Nat) : Bool := decide (w.line ≤ line) && decide (line < w.line + w.drop)
/-- A write-back or a `dsc` on its way meets a line of its ASID. -/
def WriteBack.covers (w : WriteBack) (asid : BitVec 16) (line : Nat) : Bool :=
  w.asid == asid && if w.drop = 0 then w.line == line else w.drops line
/-- A write by mask performed at its home slice for a core: merged, or retired into the side log with a page request (R136, R328,
R330); of a `dsc`, the lines it drops there (R165). The Bool is false when the log is full and the write has to wait. -/
def State.sendHome (s : State) (w : WriteBack) : State × Bool :=
  let va := w.line * 64
  let log (s : State) (f : Option (Nat × Nat)) : State × Bool :=
    match s.slogPut w.core 0 va w.mask.toNat w.data.toNat w.marks
      { num := 0, asid := w.asid, level := w.level, clears := w.clears, tagged := w.tagged, rel := w.rel } with
    | none => (s, false)
    | some s1 =>
      match f with
      | some (c, l) =>
        (s1.slogRequest w.core { part := w.part, asid := w.asid, user := w.level == .user, r := false, w := true, x := false,
                                 who := some w.core } va c l, true)
      | none => (s1, true)
  if w.drop ≠ 0 then ({ s with l2 := s.l2.filter fun x => !(x.part == w.part && x.asid == w.asid && w.drops x.line) }, true)
  else if s.slogPage w.core va then log s none
  else
    let q : Req := { part := w.part, asid := w.asid, user := w.level == .user, r := false, w := true, x := false, who := some w.core }
    match s.l2Fill q va with
    | (s1, .fault c l) => log s1 (some (c, l))
    | (s1, .ok _ _) =>
      match s1.l2Get w.part w.asid w.line with
      | none => (s1, true)
      | some x => (s1.merged x w, true)

/-- A line whose storage had an uncorrectable error: every word of it is marked (R307). -/
def L1Line.disturbed (l : L1Line) (bad : Bool) : L1Line :=
  if bad then { l with err := none, marks := BitVec.allOnes 16, sets := BitVec.allOnes 16, clears := 0 } else { l with err := none }
/-- The dirty bytes of a mask as a write-back of a level; an uncorrectable error of the line goes with them as marks (R307). -/
def L1Line.writeBack (l : L1Line) (c part : Nat) (fence : Option Rel) (mask : BitVec 64) (lv : Level) : WriteBack :=
  let d := l.disturbed (l.err == some true)
  let words := BitVec.ofNat 16 (touchedWords mask.toNat)
  { core := c, part := part, asid := l.asid, line := l.line, mask := mask, data := l.data,
    marks := d.sets &&& words, clears := d.clears &&& words,
    level := lv, recorded := l.recorded, tagged := if fence.isSome then l.fenced &&& mask else 0, rel := fence, drop := 0 }
/-- A line's dirty bytes as write-backs: those stored at user level and those stored at supervisor level are checked apart (R326). -/
def L1Line.writeBacks (l : L1Line) (c part : Nat) (fence : Option Rel) : List WriteBack :=
  [l.writeBack c part fence (l.dirty &&& ~~~l.sup) .user, l.writeBack c part fence (l.dirty &&& l.sup) .supervisor].filter fun w => w.mask != 0
/-- A line once its dirty bytes have left. -/
def L1Line.cleaned (l : L1Line) : L1Line :=
  { l with dirty := 0, sup := 0, overtaken := 0, fenced := 0, sets := 0, clears := 0, recorded := false }
/-- A line once the dirty bytes of a mask have left. -/
def L1Line.without (l : L1Line) (mask : BitVec 64) : L1Line :=
  let left := l.dirty &&& ~~~mask
  let words := BitVec.ofNat 16 (touchedWords left.toNat)
  { l with dirty := left, sup := l.sup &&& left, overtaken := l.overtaken &&& left, fenced := l.fenced &&& left, sets := l.sets &&& words,
           clears := l.clears &&& words, recorded := l.recorded && left != 0 }

/-- The release that a write of a core after its `fence.rel` belongs to (R152). -/
def State.fenceRel (s : State) (c : Nat) : Option Rel := (s.core c).fenceTag.map fun sc => { core := c, scope := sc }
/-- An atomic of a release or none performed at its home slice by a core: its bytes tagged or not (R151, R152). -/
def State.atomicDone (s : State) (c : Nat) (asid : BitVec 16) (va n : Nat) (rel : Option Rel) : State :=
  let part := (s.core c).task.part
  let s1 := s.overtake part asid (va / 64) (byteMask (va % 64) n) (some c)
  match rel with
  | some r => s1.tag false part asid va n r
  | none => s1.untag false part asid va n
/-- A no-return atomic of a level performed at its home slice for a core, or retired into the side log (R129, R328, R330); `rel` is the
release it belongs to (R113, R152). -/
def State.atomicHome (s : State) (c : Nat) (lv : Level) (asid : BitVec 16) (va op f b : Nat) (bp : Bool) (d : Nat) (rel : Option Rel) :
    State × Bool :=
  let k := s.core c
  let q : Req := { part := k.task.part, asid := asid, user := lv == .user, r := true, w := true, x := false, who := some c }
  let log (s : State) (fl : Option (Nat × Nat)) : State × Bool :=
    match s.slogPut c 1 va (f * 256 + op) b (if bp then wordMask 0 (atomicSize f) else 0)
      { num := 0, asid := asid, level := lv, clears := 0, tagged := 0, rel := rel } with
    | none => (s, false)
    | some s1 =>
      match fl with
      | some (cs, l) => (s1.slogRequest c q va cs l, true)
      | none => (s1, true)
  if s.slogPage c va then log s none
  else
    match s.l2Fill q va with
    | (s1, .fault cs l) => log s1 (some (cs, l))
    | (s1, .ok _ _) =>
      match s1.l2Get q.part asid (va / 64) with
      | none => (s1, true)
      | some x => (((s1.atomicLine x (va % 64) op f b bp d).1).atomicDone c asid va (atomicSize f) rel, true)

/-- The partials of an update-only line applied at the home slice, as one indivisible step per element (R130). Those that find the
side log full stay. -/
def State.mergeParts (s : State) (c : Nat) (l : L1Line) : List Partial → State × List Partial
  | [] => (s, [])
  | p :: rest =>
    match s.atomicHome c (if p.user then .user else .supervisor) l.asid (l.line * 64 + p.off) p.op p.fn p.value.toNat
      (l.err == some true) 0 (s.fenceRel c) with
    | (s1, true) => s1.mergeParts c l rest
    | (s1, false) => (s1, p :: rest)

/-- One L1 line changed or dropped. -/
def State.l1Set (s : State) (c : Nat) (l : L1Line) (l' : Option L1Line) : State :=
  let old := s.l1Of c
  s.setL1 c (match l' with
    | some x => replaceFirst (fun y => y.asid == l.asid && y.line == l.line) x old
    | none => dropFirst (fun y => y.asid == l.asid && y.line == l.line) old)

/-- The L1 line of a core with a tag changed. -/
def State.modLine (s : State) (c : Nat) (asid : BitVec 16) (line : Nat) (f : L1Line → L1Line) : State :=
  s.setL1 c ((s.l1Of c).map fun y => if y.asid == asid && y.line == line then f y else y)

/-- The write-backs of a core on their way that meet a test, performed in order (R136, R165). -/
def State.settle (s : State) (c : Nat) (p : WriteBack → Bool) : State × Bool :=
  s.flights.foldl (fun r w =>
    if w.core == c && p w && r.2 then
      match r.1.sendHome w with
      | (s1, true) => ({ s1 with flights := dropFirst (fun x => x == w) s1.flights }, true)
      | (s1, false) => (s1, false)
    else r) (s, true)

/-- An error of an L1 line that gives up its bytes, which the management controller counts (R307). -/
def State.meetGiven (s : State) (l : L1Line) : State :=
  match l.err with
  | some bad => s.countMet none bad 0
  | none => s
/-- An update-only line merged after the core's earlier write-backs of it (R122, R130, R131), and then dropped or, emptied, kept; the
Bool is false when the side log is full. -/
def State.mergeLineAs (s : State) (c : Nat) (l : L1Line) (keep : Bool) : State × Bool :=
  match s.settle c (fun w => w.covers l.asid l.line) with
  | (s0, false) => (s0, false)
  | (s0, true) =>
    match s0.mergeParts c l l.parts with
    | (s1, []) => ((s1.meetGiven l).l1Set c l (if keep then some { l with parts := [], valid := 0, err := none } else none), true)
    | (s1, rest) => (s1.l1Set c l (some { l with parts := rest }), false)
/-- An update-only line merged and dropped (R130). -/
def State.mergeLine (s : State) (c : Nat) (l : L1Line) : State × Bool := s.mergeLineAs c l false
/-- A line's dirty bytes written back after the core's earlier write-backs of it (R122), the line kept. -/
def State.cleanHome (s : State) (c : Nat) (l : L1Line) : State × Bool :=
  match s.settle c (fun w => w.covers l.asid l.line) with
  | (s0, false) => (s0, false)
  | (s0, true) =>
    if l.dirty = 0 then (s0, true)
    else
      let x := l.disturbed (l.err == some true)
      (x.writeBacks c (s0.core c).task.part (s0.fenceRel c)).foldl (fun r w =>
        if r.2 then
          match r.1.sendHome w with
          | (s1, true) => (s1.modLine c l.asid l.line fun y => y.without w.mask, true)
          | (s1, false) => (s1, false)
        else r) ((s0.meetGiven l).l1Set c l (some x), true)

/-- The line of a core's L1 under its current ASID (R140). -/
def State.l1Get (s : State) (c line : Nat) : Option L1Line :=
  findFirst (fun l => l.asid == (s.core c).csrs.asid && l.line == line) (s.l1Of c)

/-- Every update-only line of a line, in every core of the partition, merged (R130). One that finds its core's side log full waits
there; nobody but that core, `who`, waits for it (R330; DEDUCED: log entry 88). -/
def State.mergeAll (s : State) (part : Nat) (asid : BitVec 16) (line : Nat) (who : Option Nat) : State × Bool :=
  s.l1.foldl (fun r e =>
    match findFirst (fun l => l.updateOnly && l.asid == asid && l.line == line) e.2 with
    | some l => if (r.1.core e.1).task.part == part then (let x := r.1.mergeLine e.1 l; (x.1, r.2 && (x.2 || who != some e.1))) else r
    | none => r) (s, true)

/-- The recorded lines of a core written back, those that have left its L1 since and are on their way included (R151). -/
def State.flushRecorded (s : State) (c : Nat) : State × Bool :=
  let sent := s.flights.filter fun w => w.core == c && w.recorded
  (s.l1Of c).foldl (fun r l => if l.recorded && !l.updateOnly && r.2 then r.1.cleanHome c l else r)
    (s.settle c fun w => sent.any fun x => w.covers x.asid x.line)

/-- The recorded lines of a releaser written back for a reader. What finds the releaser's side log full waits there, and the reader
only where it is the releaser (R330; DEDUCED: log entry 88). -/
def State.flushFor (s : State) (releaser : Nat) (who : Option Nat) : State × Bool :=
  let x := s.flushRecorded releaser
  (x.1, x.2 || who != some releaser)
/-- A read of a variable at its home slice or tarn flushes the caches that tagged it (R151). -/
def State.flushTags (s : State) (tarn : Bool) (part : Nat) (asid : BitVec 16) (a n : Nat) (who : Option Nat) : State × Bool :=
  s.tags.foldl (fun r t =>
    if t.meets tarn part asid a n then
      t.rels.foldl (fun r rel => let x := r.1.flushFor rel.core who; (x.1, r.2 && x.2)) r
    else r) (s, true)

/-- A way given up: an update-only line merges, dirty bytes leave as a write-back (R130, R137). -/
def State.l1Drop (s : State) (c : Nat) (l : L1Line) : State × Bool :=
  if l.updateOnly then s.mergeLine c l
  else
    let s1 := s.l1Set c l none
    (if l.dirty = 0 then s1 else
      { s1.meetGiven l with flights := s1.flights ++ l.writeBacks c (s.core c).task.part (s.fenceRel c) }, true)

/-- A line put into the L1 as the most recently used of its set, the least recently used of four giving way (R137, R140). -/
def State.l1Insert (s : State) (c : Nat) (l : L1Line) : State × Bool :=
  let set := (s.l1Of c).filter fun y => y.line % 32 == l.line % 32 && !(y.asid == l.asid && y.line == l.line)
  let r := if set.length < 4 then (s, true) else
    match set.getLast? with
    | some v => s.l1Drop c v
    | none => (s, true)
  if r.2 then
    (r.1.setL1 c (l :: (r.1.l1Of c).filter fun y => !(y.asid == l.asid && y.line == l.line)), true)
  else r

/-- The lines of released-mode memory that a test picks dropped from a core's L1 (R123, R152, R21). -/
def State.dropReleased (s : State) (c : Nat) : State × Bool :=
  (s.l1Of c).foldl (fun r l =>
    if r.2 && !(r.1.part (r.1.core c).task.part).managed (l.line * 64) then r.1.l1Drop c l else r) (s, true)

/-- Every update-only line of a core merged (R130). -/
def State.mergeOwn (s : State) (c : Nat) : State × Bool :=
  (s.l1Of c).foldl (fun r l => if l.updateOnly && r.2 then r.1.mergeLine c l else r) (s, true)

/-- The dirty released-mode lines of a core written back, those on their way included (R147, R160). -/
def State.cleanReleased (s : State) (c : Nat) : State × Bool :=
  (s.l1Of c).foldl (fun r l =>
    if r.2 && l.dirty != 0 && !l.updateOnly && !(r.1.part (r.1.core c).task.part).managed (l.line * 64) then r.1.cleanHome c l else r)
    (s.settle c fun _ => true)
/-- The dirty lines of a partition in L2 whose frame is host memory written there for a context; the slices keep them (R147, R160). -/
def State.toHost (s : State) (part : Nat) (who : Option Nat) : State :=
  s.l2.foldl (fun st (x : L2Line) =>
    if x.part == part && x.dirty != 0 then
      let q : Req := { part := x.part, asid := x.asid, user := false, r := false, w := true, x := false, who := none }
      match st.translate q (64 * x.line) with
      | (s1, .ok pa _) =>
        if 2 ^ 47 ≤ pa then ((s1.writeLine (pa / 64 * 64) x.data x.dirty 0).l2Put { x with dirty := 0 }).spendFor who 1600 else st
      | (_, .fault _ _) => st
    else st) s

/-- The dirty released-mode lines of a core recorded for its release at a scope (R124, R151), and the tagging of an earlier `fence.rel`
ended (R152). -/
def State.recordDirty (s : State) (c : Nat) (sc : Scope) : State :=
  let p := s.part (s.core c).task.part
  s.setL1 c ((s.l1Of c).map fun l =>
    { l with recorded := l.recorded || (sc != .core && l.dirty != 0 && !p.managed (l.line * 64)), fenced := 0 })

/-- Every dirty byte of a core written back, the lines kept (R21, R27). -/
def State.cleanOwn (s : State) (c : Nat) : State × Bool :=
  (s.l1Of c).foldl (fun r l => if l.dirty != 0 && !l.updateOnly && r.2 then r.1.cleanHome c l else r) (s, true)

/-- What barrier arrival, `halt` and a kill do to a core's caches: merges, write-backs on their way, dirty bytes (R21, R27, R311). -/
def State.arriveHome (s : State) (c : Nat) : State × Bool :=
  let a := s.mergeOwn c
  let b := a.1.settle c fun _ => true
  let d := b.1.cleanOwn c
  (d.1, a.2 && b.2 && d.2)
/-- The same at a kill, where what enters the side log is dropped (R331), until every write has been made or dropped (R311). -/
def State.killHome (c : Nat) : Nat → State → State
  | 0, s => s.slogForget c
  | n + 1, s =>
    match s.arriveHome c with
    | (s1, true) => s1.slogForget c
    | (s1, false) => State.killHome c n (s1.slogForget c)

end Sys2Proof.Machine
end

