-- ==== Sys2Proof/Machine/Locks.lean ====
section
/-!
DEFINITION. The range-lock table of a pond (R132, R157), the watermark of a copy (R257), the events a barrier root receives
(R167, R169) and the cancellation of a command that has not started (R36, R311, R343).
-/
namespace Sys2Proof.Machine

/-! ## Spans -/

/-- Bytes of a tarn. -/
def tarnSpan (place n : Nat) : Span := { kind := 0, owner := 0, lo := place, hi := place + n }
/-- Cached bytes of a partition's ASID. -/
def cachedSpan (part : Nat) (asid : BitVec 16) (va n : Nat) : Span :=
  { kind := 1, owner := part * 65536 + asid.toNat, lo := va, hi := va + n }
/-- Columns of a launch's threshold array in a pond (R291, R297). -/
def columnSpan (owner col n : Nat) : Span := { kind := 2, owner := owner, lo := col, hi := col + n }
/-- Two spans share a byte or column. -/
def Span.meets (a b : Span) : Bool :=
  a.kind == b.kind && a.owner == b.owner && decide (a.lo < a.hi) && decide (b.lo < b.hi) && decide (a.lo < b.hi) && decide (b.lo < a.hi)
/-- A lock covers a byte of a span. -/
def Lock.meets (l : Lock) (sp : Span) : Bool := l.spans.any fun x => x.meets sp

/-- The bytes of a checked address seen from a core's partition: a tarn's place or cached bytes. -/
def State.spanAt (s : State) (c va n : Nat) : Span :=
  if inWindow va then
    match windowPlace (chipOf c) va with
    | some p => tarnSpan p n
    | none => tarnSpan 0 0
  else cachedSpan (s.core c).task.part (s.core c).csrs.asid (va % 2 ^ 57) n

/-! ## Commands of a core -/

/-- Every engine command in a core's queues and channels. -/
def Core.cmds (k : Core) : List Cmd := k.matq ++ k.thrq ++ (k.chan[0].cmds ++ k.chan[1].cmds ++ k.chan[2].cmds ++ k.chan[3].cmds)
/-- A command of a core by its number. -/
def Core.cmd (k : Core) (id : Nat) : Option Cmd := findFirst (fun x => x.id == id) k.cmds

/-! ## Watermarks (R257) -/

/-- The destination row stride in force (R251). -/
def CopyDesc.rowStride (d : CopyDesc) : Nat := if d.dstr = 0 || d.ring.isSome then d.len * elemBits (ptrFmt d.dst) / 8 else d.dstr
/-- Destination data bytes of a row. -/
def CopyDesc.rowBytes (d : CopyDesc) : Nat := d.len * elemBits (ptrFmt d.dst) / 8
/-- The byte at an offset from the destination's first byte lies in a prefix of elements. -/
def CopyDesc.below (d : CopyDesc) (done off : Nat) : Bool :=
  let r := off / d.rowStride
  let o := off % d.rowStride
  decide (r < d.rows) && decide (o < d.rowBytes) && decide (r * d.len + (8 * o + 7) / elemBits (ptrFmt d.dst) < done)

/-- Every byte of a span under a copy's write lock lies below its watermark. -/
def State.belowMark (s : State) (l : Lock) (sp : Span) : Bool :=
  match (s.core l.core).cmd l.cmd, l.spans with
  | some { work := .copy d, progress := done, .. }, x :: _ =>
    (List.range (sp.hi - sp.lo)).all fun i =>
      let a := sp.lo + i
      if l.meets { sp with lo := a, hi := a + 1 } then
        x.kind == sp.kind && decide (x.lo ≤ a) && d.below done (a - x.lo)
      else true
  | _, _ => false

/-- What the pond's locks say of a thread access (R132): proceed, trap, or wait for a watermark. -/
inductive LockVerdict where
  | go
  | refuse
  | wait
  deriving DecidableEq, Repr

/-- The range-lock rule for a load (R132). -/
def State.loadLock (s : State) (c : Nat) (sp : Span) : LockVerdict :=
  (s.pond (pondOf c)).locks.foldl (fun v l =>
    if l.write && l.meets sp then
      if l.copy then (if v == .go && !s.belowMark l sp then .wait else v) else .refuse
    else v) .go
/-- The range-lock rule for a store or atomic (R132). -/
def State.storeLock (s : State) (c : Nat) (sp : Span) : LockVerdict :=
  if (s.pond (pondOf c)).locks.any (fun l => l.meets sp) then .refuse else .go

/-- A lock registered at its pond as the last, in a fabric cycle (R157). -/
def Pond.register (p : Pond) (now : Nat) (l : Lock) : Pond :=
  { p with lockSeq := p.lockSeq + 1, locks := p.locks ++ [{ l with seq := p.lockSeq, at_ := now }] }
/-- A lock registered at issue: of locks that one cycle brings, those of a lower local index come first (R295). -/
def Pond.issueLock (p : Pond) (now : Nat) (l : Lock) : Pond :=
  let after (x : Lock) : Bool := x.at_ == now && decide (localIndex l.core < localIndex x.core)
  let n := (p.locks.filter after).foldl (fun n x => Nat.min n x.seq) p.lockSeq
  { p with lockSeq := p.lockSeq + 1,
           locks := (p.locks.map fun x => if n ≤ x.seq then { x with seq := x.seq + 1 } else x) ++ [{ l with seq := n, at_ := now }] }
/-- Some lock registered at the pond before a lock conflicts with a span of it (R157). -/
def Pond.conflict (p : Pond) (own : Lock) (sp : Span) : Bool :=
  p.locks.any fun l => l.cmd != own.cmd && decide (l.seq < own.seq) && (l.write || own.write) && l.meets sp
/-- Some lock of another command conflicts with a span of a lock, whenever it was registered (R36); on a column any lock does (R298). -/
def Pond.blocked (p : Pond) (own : Lock) (sp : Span) : Bool :=
  p.locks.any fun l => l.cmd != own.cmd && (l.write || own.write || sp.kind == 2) && l.meets sp
/-- The locks of a command. -/
def Pond.locksOf (p : Pond) (id : Nat) : List Lock := p.locks.filter fun l => l.cmd == id
/-- A command of another pond comes before a lock at a tarn or home slice that both name (R157): its lock has come there first, of two in
one fabric cycle that of the lower core. A lock is there once it is registered (DESIGN CHOICE: log entry 80). -/
def State.awayConflict (s : State) (pond : Nat) (own : Lock) (sp : Span) : Bool :=
  sp.kind != 2 && s.ponds.any fun p => p.1 != pond && p.2.locks.any fun l =>
    (l.write || own.write) && l.meets sp && (decide (l.at_ < own.at_) || (l.at_ == own.at_ && decide (l.core < own.core)))
/-- The cycle that brought a command's locks is over, so that none can still come before them (R157, R295). -/
def State.locksIn (s : State) (pond id : Nat) : Bool := ((s.pond pond).locksOf id).all fun l => decide (l.at_ < s.fabric)
/-- No lock that came before those of a command of a pond conflicts with them (R157). -/
def State.locksClear (s : State) (pond id : Nat) : Bool :=
  let p := s.pond pond
  (p.locksOf id).all fun l => l.spans.all fun sp => !p.conflict l sp && !s.awayConflict pond l sp
/-- No lock of another operation, of its pond or of another, conflicts with those of a command at its start moment (R36, R298). -/
def State.locksFree (s : State) (pond id : Nat) : Bool :=
  let p := s.pond pond
  (p.locksOf id).all fun l => l.spans.all fun sp =>
    !p.blocked l sp && !(sp.kind != 2 && s.ponds.any fun q => q.1 != pond && q.2.blocked l sp)
/-- The locks of a command released with its pins; `rd` only its read locks (R157, R240). -/
def State.unlock (s : State) (pond id : Nat) (rd : Bool) : State :=
  s.modPond pond fun p => { p with
    locks := p.locks.filter fun l => !(l.cmd == id && (!rd || !l.write))
    pins := p.pins.filter fun n => n.cmd != id }

/-! ## Barrier roots (R167-R170) -/

/-- The root pond of an instance. -/
def BarName.root (b : BarName) : Nat := pondOf (coreAt b.x b.y)
/-- A core is a member of an instance. -/
def BarName.member (b : BarName) (c : Nat) : Bool :=
  decide (b.x ≤ xOf c) && decide (xOf c < b.x + b.w) && decide (b.y ≤ yOf c) && decide (yOf c < b.y + b.h)
/-- An instance no member of which has arrived and whose counter is zero (R167). -/
def Barrier.idle (b : Barrier) : Bool := b.arrived.isEmpty && b.counter == 0 && b.inbox.isEmpty && b.early.isEmpty
/-- The instance just opened. -/
def Barrier.open (n : BarName) : Barrier :=
  { name := n, held := false, phase := 0, arrived := [], counter := 0, posts := [], early := [], first := none, inbox := [] }
/-- An instance of the same number at the same root. -/
def BarName.rivals (n : BarName) (b : Barrier) : Bool := b.name.root == n.root && b.name.num == n.num

/-- The root of an instance holds another instance of its number that is not idle (R167), also one of another launch (DESIGN CHOICE:
log entry 79). -/
def State.rootBusy (s : State) (n : BarName) : Bool :=
  s.barriers.any fun b => b.name != n && n.rivals b && b.held && !b.idle
/-- The root knows the instance, and holds it unless it holds another that is not idle. -/
def State.openRoot (s : State) (n : BarName) : State :=
  let l := if s.barriers.any (fun b => b.name == n) then s.barriers else s.barriers ++ [Barrier.open n]
  if s.rootBusy n then { s with barriers := l }
  else { s with barriers := l.map fun b => if n.rivals b then { b with held := b.name == n } else b }
/-- The kinds of event a root receives (R169): an arrival, a landing, a post, an expectation, a cancellation. Each comes with its core,
its transfer and its bytes; an arrival's bytes are the core's timeout. -/
def evArrive : Nat := 0
/-- Bytes of a transfer have landed. -/
def evLand : Nat := 1
/-- A transfer posts its bytes. -/
def evPost : Nat := 2
/-- A `bexp` adds its count. -/
def evExpect : Nat := 3
/-- A transfer's remaining bytes are removed. -/
def evCancel : Nat := 4
/-- An event sent to an instance's root, also one held with a stopped launch (R348). For an instance that the root cannot hold yet it
waits there (R167). -/
def State.toRoot (s : State) (n : BarName) (e : Nat × Nat × Nat × Nat) : State :=
  if s.launches.any (fun l => l.barriers.any fun b => b.name == n) then
    { s with launches := s.launches.map fun l => { l with barriers := l.barriers.map fun b =>
        if b.name == n then { b with inbox := b.inbox ++ [e] } else b } }
  else
    let s1 := s.openRoot n
    { s1 with barriers := s1.barriers.map fun b => if b.name == n then { b with inbox := b.inbox ++ [e] } else b }

/-- The rectangle a sub-rectangle descriptor names in a launch rectangle (R24, R26), or nothing where the descriptor is broken. -/
def subRect (rect : Word) (d : Word) : Option (Nat × Nat × Nat × Nat) :=
  let r := rect.toNat
  let x0 := bits r 0 11; let y0 := bits r 11 9; let lw0 := bits r 21 4; let lh0 := bits r 25 4
  let n := d.toNat
  if bits n 32 32 ≠ 0 then none
  else if !n.testBit 31 then (if n = 0 then some (x0, y0, 2 ^ lw0, 2 ^ lh0) else none)
  else
    let lw := bits n 0 4; let lh := bits n 4 4; let ox := bits n 8 10; let oy := bits n 18 9
    if bits n 27 4 = 0 && decide (lw ≤ 10) && decide (lh ≤ 9) && ox % 2 ^ lw == 0 && oy % 2 ^ lh == 0 &&
        decide (ox + 2 ^ lw ≤ 2 ^ lw0) && decide (oy + 2 ^ lh ≤ 2 ^ lh0)
    then some (x0 + ox, y0 + oy, 2 ^ lw, 2 ^ lh) else none
/-- A core lies in a rectangle. -/
def inRect (r : Nat × Nat × Nat × Nat) (c : Nat) : Bool :=
  decide (r.1 ≤ xOf c) && decide (xOf c < r.1 + r.2.2.1) && decide (r.2.1 ≤ yOf c) && decide (yOf c < r.2.1 + r.2.2.2)
/-- The launch rectangle of a core. -/
def Core.rect (k : Core) : Nat × Nat × Nat × Nat :=
  let r := k.csrs.rect.toNat
  (bits r 0 11, bits r 11 9, 2 ^ bits r 21 4, 2 ^ bits r 25 4)

/-! ## Forwarding rows (R41, R45) and the heads of a core's queues (R34) -/

/-- The followers of a leader's row under its descriptor. -/
def Core.rowFollowers (k : Core) (c : Nat) : List Nat :=
  match subRect k.csrs.rect (k.group.fwdDesc.setWidth 64) with
  | some (_, _, w, _) => (List.range (w - 1)).map fun i => c + 1 + i
  | none => []
/-- The leader of a row's follower. -/
def Core.rowLeader (k : Core) (c : Nat) : Nat :=
  match subRect k.csrs.rect (k.group.fwdDesc.setWidth 64) with
  | some (x, _, _, _) => coreAt x (yOf c)
  | none => c
/-- The cores frozen together with a core (R45): the members of its row, or itself. -/
def State.rowOf (s : State) (c : Nat) : List Nat :=
  let k := s.core c
  let lead := match k.group.fwd with
    | .leader => some c
    | .follower => some (k.rowLeader c)
    | _ => none
  match lead with
  | some l => c :: l :: ((s.core l).rowFollowers l).filter fun f => (s.core f).group.fwd == .follower
  | none => [c]
/-- The freeze line of a core is up by itself, and not for an engine wait (R34, R385). -/
def Core.stalled (k : Core) : Bool :=
  match k.freeze with
  | none => false
  | some z => !(z.kind == .engine || z.kind == .haltWork || z.kind == .sleep)
/-- The heads of a core's queues and channels start commands: at user level (R338), with the freeze line down or held only by an engine
wait (R34, R385), also by those of its row (R45). -/
def State.headsGo (s : State) (c : Nat) : Bool :=
  let k := s.core c
  k.run == .running && k.level == .user && (s.rowOf c).all fun f => !(s.core f).stalled

/-- The instance a core binds to a number (R167). -/
def Core.instanceOf (k : Core) (num : Nat) : BarName :=
  let d := k.bind.toArray.getD num 0
  let r := (subRect k.csrs.rect (w64 d.toNat)).getD k.rect
  { part := k.task.part, queue := k.task.queue, seq := k.task.seq, num := num, desc := d, x := r.1, y := r.2.1, w := r.2.2.1, h := r.2.2.2 }

/-- A landing of a command's bytes reported to the root (R169, R260). -/
def State.land (s : State) (c : Option Post) (n : Nat) : State :=
  match c with
  | some p => if n = 0 then s else s.toRoot p.name (evLand, 0, p.xfer, n)
  | none => s

/-! ## Causes for a command's issuer (R329, R340) -/

/-- A pending cause for the context that issued a command, if it is still the core's or kept with its launch (R329, R340). -/
def State.raiseFor (s : State) (i : Issuer) (cause : Nat) (xval : Word) : State :=
  if s.kept i then s.inContext i.core i.gen fun st => st.raise i.core cause xval
  else if (s.core i.core).gen == i.gen then s.raise i.core cause xval else s

/-! ## Cancelling what has not started -/

/-- A command withdrawn: its locks and registered landings released, its unlanded posts removed (R36, R169, R311, R343). -/
def State.withdraw (s : State) (pond : Nat) (x : Cmd) : State :=
  let s1 := s.unlock pond x.id false
  let s2 := { s1 with landings := s1.landings.filter fun l => l.1 != x.id }
  match x.count with
  | some p => if p.xfer = 0 then s2 else s2.toRoot p.name (evCancel, 0, p.xfer, p.left)
  | none => s2

/-- The address of a copy's first destination byte; of a ring copy, its slot's (R38, R254). -/
def CopyDesc.firstByte (d : CopyDesc) : Nat :=
  match d.ring with
  | some (seq, slots, size) => ptrVa d.dst + 8 * slots + seq.toNat % slots * size
  | none => ptrVa d.dst

/-- The place in a copy's destination where its filled prefix ends (R257). -/
def CopyDesc.markAt (d : CopyDesc) (done : Nat) : Word :=
  let base := d.firstByte
  let last := (d.rows - 1) * d.rowStride + d.rowBytes
  if done ≥ d.rows * d.len then w64 (base + last)
  else w64 (base + done / d.len * d.rowStride + done % d.len * elemBits (ptrFmt d.dst) / 8)

/-- A channel whose command has left it: one more completion, the last point and byte count kept (R257, R262). -/
def Channel.leave (ch : Channel) (x : Cmd) (cancelled : Bool) : Channel :=
  let c1 := { ch with cmds := ch.cmds.filter fun y => y.id != x.id, ended := ch.ended + 1, cancelled := ch.cancelled || cancelled }
  match x.work with
  | .copy d => { c1 with mark := d.markAt x.progress, bytes := x.progress * elemBits (ptrFmt d.dst) / 8 }
  | _ => c1

/-- A command taken out of its core's queue or channel; one that an earlier task has left there counts for no channel of a later one
(R257, R311). -/
def Core.remove (k : Core) (x : Cmd) (cancelled : Bool) : Core :=
  let leave (ch : Channel) : Channel :=
    if x.issuer.gen == k.gen then ch.leave x cancelled else { ch with cmds := ch.cmds.filter fun y => y.id != x.id }
  { k with
    matq := k.matq.filter fun y => y.id != x.id
    thrq := k.thrq.filter fun y => y.id != x.id
    chan := k.chan.map fun ch => if ch.cmds.any (fun y => y.id == x.id) then leave ch else ch }

/-- A partition's own peer number (R279). -/
def Part.self (p : Part) : Nat :=
  match findFirst (fun (e : Peer) => e.own) p.peers with
  | some e => e.num
  | none => 2 ^ 16
/-- The news for the other members that a command has ended before its work is done (R275, R278). -/
def State.endedTo (s : State) (x : Coll) : List (Nat × Parcel) :=
  (x.desc.members.zip (List.range x.desc.members.length)).filterMap fun e =>
    if e.1 = (s.part x.issuer.part).self then none else some (e.2, .ended)
/-- Every command of a core that has not started cancelled, the collectives not yet handed to a spring included (R311, R343). -/
def State.cancelQueued (s : State) (c : Nat) : State :=
  let s1 := (s.core c).cmds.foldl (fun st x =>
    if x.started then st else (st.withdraw (pondOf c) x).modCore c fun k => k.remove x true) s
  s1.colls.foldl (fun st x =>
    if x.issuer.core == c && !s.kept x.issuer && !x.handed && x.state == .waiting then
      let st1 := st.unlock (pondOf c) x.id false
      let st2 := match x.count with
        | some p => if p.xfer = 0 then st1 else st1.toRoot p.name (evCancel, 0, p.xfer, p.left)
        | none => st1
      { st2 with colls := st2.colls.map fun y =>
          if y.id == x.id then { y with state := .cancelled, count := none, sent := st2.endedTo y } else y }
    else st) s1

/-- Some command of a core has not ended (R27). -/
def State.engineWork (s : State) (c : Nat) : Bool :=
  !(s.core c).cmds.isEmpty ||
  s.colls.any fun x => x.issuer.core == c && !s.kept x.issuer && (x.state == .waiting || x.state == .running)

end Sys2Proof.Machine
end

