-- ==== Sys2Proof/Machine/Operands.lean ====
section
/-!
DEFINITION. What the formats say of an instruction before it runs: its guard, the registers it reads and writes, its nominal latency
(R69-R76), the encodings illegal by the machine's state (R188, R205, R219), privilege (R24, R105, R106), whether a frame captures it
(R101), and the operand values of the immediate forms (R56, R88-R90).
-/
namespace Sys2Proof.Machine

/-! ## Guard and words -/

/-- The instruction a vector prefix modifies (R66, R67). -/
def prefixed (w : Word32) : Option Instr := decodePair w 0
/-- The guard field of an instruction; that of a prefixed one stands in its own word (R14, R53). -/
def guardOf (i : Instr) : Nat :=
  match i with
  | .vectorPrefix _ _ _ _ w => (gOf w).toNat
  | .nop => 0
  | _ => (gOf i.word).toNat
/-- The instruction word, past a prefix. -/
def mainWord (i : Instr) : Word32 :=
  match i with
  | .vectorPrefix _ _ _ _ w => w
  | _ => i.word
/-- The major opcode, past a prefix. -/
def opNum (i : Instr) : Nat := (opOf (mainWord i)).toNat
/-- Words of an instruction in memory (R52). -/
def wordsIn (i : Instr) : Nat := if i.long then 2 else 1

/-! ## Immediate operands -/

/-- A field sign-extended to 64 bits. -/
def sx {n : Nat} (b : BitVec n) : Word := b.signExtend 64
/-- A literal extended by its F (R90, R91): zero-extended for `.n`. -/
def litValue (n : Bool) (l : Word32) : Word := if n then l.setWidth 64 else l.signExtend 64

/-! ## Registers read and written (R33, R55) -/

/-- Number of a guard, a vector register and a mask on the scoreboard; scalar registers have their own numbers. -/
def rG (n : Nat) : Nat := 64 + n
/-- A vector register on the scoreboard. -/
def rV (v : VReg) : Nat := 72 + v.toNat
/-- A mask on the scoreboard. -/
def rM (n : Nat) : Nat := 88 + n
/-- The flags of `FPFLAGS` on the scoreboard (R106). -/
def rFlags : Nat := 96
/-- The vector datapath on the scoreboard (R76). -/
def rPath : Nat := 97
/-- Scalar registers on the scoreboard; s0 and the queue registers never wait. -/
def rS (l : List SReg) : List Nat := (l.map BitVec.toNat).filter fun n => n != 0 && n < 60

/-- What an unprefixed instruction reads, its guard apart; `vc` is a prefix's addend for `vfma`. -/
def readsOf (i : Instr) (vc : Option VReg) : List Nat :=
  match i with
  | .add _ _ a b _ | .sub _ _ a b _ | .mul _ _ a b _ | .div _ _ a b _ | .rem _ _ a b _ | .and _ _ a b | .or _ _ a b | .xor _ _ a b
  | .andn _ _ a b | .shl _ _ a b _ | .shr _ _ a b _ | .sra _ _ a b _ | .rot _ _ a b _ | .min _ _ a b _ | .max _ _ a b _
  | .cmp _ _ _ a b | .bfx _ _ a b _ | .padd _ _ a b | .evw _ a b | .evs _ a b | .wb _ a b | .inv _ a b | .dsc _ a b
  | .cpy _ a b _ _ | .cpyClk _ a b _ _ _ | .tload _ a b | .coll _ a b | .collClk _ a b _ | .aadd _ _ a b _ | .aand _ _ a b _
  | .aor _ _ a b _ | .axor _ _ a b _ | .amin _ _ a b _ _ | .amax _ _ a b _ _ | .axch _ _ a b _ | .fadda _ _ a b | .famax _ _ a b
  | .famin _ _ a b | .radd _ a b _ | .rand _ a b _ | .ror _ a b _ | .rxor _ a b _ | .rmin _ a b _ _ | .rmax _ a b _ _
  | .rfadd _ a b | .rfmax _ a b | .rfmin _ a b | .sendE _ _ a b | .sendRel _ _ a b _ | .mmld _ a b _ | .mmst _ a b _
  | .mmstV _ a b _ _ => rS [a, b]
  | .sel _ _ a b s => rG s.toNat :: rS [a, b]
  | .bcnt _ _ a _ | .addi _ _ a _ | .andi _ _ a _ | .ori _ _ a _ | .xori _ _ a _ | .shli _ _ a _ _ | .shri _ _ a _ _ | .srai _ _ a _ _
  | .cmpi _ _ _ a _ | .muli _ _ a _ | .addk _ _ a _ _ | .cmpk _ _ _ a _ _ | .paddi _ _ a _ | .ptag _ _ a _ _ | .jr _ _ a | .loop _ a _
  | .csrw _ a _ | .lnch _ _ a _ | .lda _ _ a _ _ | .bar _ _ a | .bexp _ _ a | .wake _ a | .mma _ a | .mmaClk _ a _
  | .mmsp _ a | .mmspClk _ a _ | .teval _ a | .tevalClk _ a _ | .tlv _ a | .collqSt _ _ a | .collqDone _ _ a | .fwd _ a | .echo _ a
  | .ld _ _ a _ _ | .ldz _ _ a _ _ => rS [a]
  | .csrx _ _ a c => (if c = 4 then [rFlags] else []) ++ rS [a]
  | .csrr _ _ c => if c = 4 then [rFlags] else []
  | .bfi _ d a b | .acas _ d a b _ => rS [d, a, b]
  | .gop _ _ a b _ => [a, b].filterMap fun x => if x = 0 then none else some (rG x.toNat)
  | .lit _ d f _ => if f = 2 then rS [d] else []
  | .ldTag _ d a _ | .ldzTag _ d a _ | .st _ d a _ _ | .stl _ d a _ _ => rS [d, a]
  | .send _ _ _ b => rS [b]
  | .mmldV _ a b c _ => rV c :: rS [a, b]
  | .vld _ _ a b | .vldTag _ _ a b => rPath :: rS [a, b]
  | .vst _ d a b => rPath :: rV d :: rS [a, b]
  | .vgat _ _ a x => rV x :: rS [a]
  | .vsct _ d a x => rV d :: rV x :: rS [a]
  | .vadd _ _ a b _ | .vsub _ _ a b _ | .vmul _ _ a b _ _ | .vmin _ _ a b _ | .vmax _ _ a b _ | .vdiv _ _ a b _ | .vcmp _ _ a b _ _
  | .vpermIdx _ _ a b _ => [rPath, rV a, rV b]
  | .vfma _ d a b _ _ => [rPath, rV a, rV b, rV (vc.getD d)]
  | .vsqr _ _ a _ | .vsfn _ _ a _ _ | .vcvt _ _ a _ _ | .vred _ _ a _ _ _ | .vmov _ _ a _ | .vpermTr _ _ a _ => [rPath, rV a]
  | .vsel _ _ a b _ m => [rPath, rV a, rV b, rM m.toNat]
  | .vint _ _ a b _ f => if f.ult 7 then [rPath, rV a, rV b] else [rPath, rV a]
  | .vmovBc _ _ x _ => rPath :: rS [x]
  | .vmsk _ _ a b _ => rPath :: [a, b].filterMap fun x => if x = 0 then none else some (rM x.toNat)
  | _ => []

/-- What an unprefixed instruction writes. -/
def writesOf (i : Instr) : List Nat :=
  match i with
  | .add _ d _ _ _ | .sub _ d _ _ _ | .mul _ d _ _ _ | .div _ d _ _ _ | .rem _ d _ _ _ | .and _ d _ _ | .or _ d _ _ | .xor _ d _ _
  | .andn _ d _ _ | .shl _ d _ _ _ | .shr _ d _ _ _ | .sra _ d _ _ _ | .rot _ d _ _ _ | .min _ d _ _ _ | .max _ d _ _ _
  | .sel _ d _ _ _ | .bcnt _ d _ _ | .bfx _ d _ _ _ | .bfi _ d _ _ | .addi _ d _ _ | .andi _ d _ _ | .ori _ d _ _ | .xori _ d _ _
  | .shli _ d _ _ _ | .shri _ d _ _ _ | .srai _ d _ _ _ | .muli _ d _ _ | .lit _ d _ _ | .addk _ d _ _ _ | .padd _ d _ _ | .paddi _ d _ _
  | .ptag _ d _ _ _ | .jr _ d _ | .csrr _ d _ | .csrx _ d _ _ | .lnch _ d _ _ | .ld _ d _ _ _ | .ldTag _ d _ _ | .ldz _ d _ _ _
  | .ldzTag _ d _ _ | .lda _ d _ _ _ | .aadd _ d _ _ _ | .aand _ d _ _ _ | .aor _ d _ _ _ | .axor _ d _ _ _ | .amin _ d _ _ _ _
  | .amax _ d _ _ _ _ | .axch _ d _ _ _ | .acas _ d _ _ _ | .fadda _ d _ _ | .famax _ d _ _ | .famin _ d _ _ | .cpyqWm _ d _
  | .cpyqOut _ d _ | .cpyqSt _ d _ | .collqSt _ d _ | .collqDone _ d _ => rS [d]
  | .call _ _ => [58]
  | .cmp _ _ h _ _ | .cmpi _ _ h _ _ | .cmpk _ _ h _ _ _ => [rG h.toNat]
  | .gop _ d _ _ _ => [rG d.toNat]
  | .mmstV _ _ _ c _ => [rV c]
  | .rng _ d _ => [rV d]
  | .vld _ d _ _ | .vldTag _ d _ _ | .vgat _ d _ _ => [rFlags, rV d]
  | .vst _ _ _ _ | .vsct _ _ _ _ => [rFlags]
  | .vadd _ d _ _ _ | .vsub _ d _ _ _ | .vmul _ d _ _ _ _ | .vfma _ d _ _ _ _ | .vmin _ d _ _ _ | .vmax _ d _ _ _ | .vdiv _ d _ _ _
  | .vsqr _ d _ _ | .vsfn _ d _ _ _ | .vcvt _ d _ _ _ | .vsel _ d _ _ _ _ | .vred _ d _ _ _ _ | .vint _ d _ _ _ _ | .vmov _ d _ _
  | .vmovBc _ d _ _ | .vpermTr _ d _ _ | .vpermIdx _ d _ _ _ => [rFlags, rV d]
  | .vcmp _ m _ _ _ _ => [rFlags, rM m.toNat]
  | .vmsk _ d _ _ _ => [rM d.toNat]
  | _ => []

/-- What an instruction reads: with a merging mask also its destination (R207, R220). -/
def sources (i : Instr) : List Nat :=
  match i with
  | .vectorPrefix m z _ vc w =>
    match prefixed w with
    | some j =>
      let keep := match j with
        | .vred .. => []
        | _ => if m != 0 && !z then (writesOf j).filter (fun r => r != rFlags) else []
      readsOf j (some vc) ++ keep ++ (if m = 0 then [] else [rM m.toNat])
    | none => []
  | _ => readsOf i none
/-- What an instruction writes. -/
def targets (i : Instr) : List Nat :=
  match i with
  | .vectorPrefix _ _ _ _ w => match prefixed w with
    | some j => writesOf j
    | none => []
  | _ => writesOf i

/-! ## Latency (R69-R76) -/

/-- The nominal latency of an instruction whose latency is not that of its target (R69-R72). -/
def fixedLatency (op f : Nat) : Nat :=
  match op with
  | 0x03 | 0x1E => 3
  | 0x04 | 0x05 => 20
  | 0x2D | 0x2E | 0x2F | 0x50 | 0x59 => 2
  | 0x33 => 40
  | 0x53 | 0x54 => if f.testBit 1 then 8 else 1
  | 0x5A | 0x69 => 6
  | 0x5E | 0x5F | 0x66 | 0x67 => 16
  | 0x60 | 0x61 | 0x64 | 0x65 | 0x6A | 0x6B | 0x6D | 0x6E => 5
  | 0x62 | 0x63 | 0x6F => 8
  | 0x68 => if f % 64 < 5 then 12 else 24
  | 0x6C => 10
  | _ => 1
/-- The nominal latency of an instruction, with that of its target where the table says L. -/
def latencyOf (i : Instr) (l : Nat) : Nat :=
  match opNum i with
  | 0x36 | 0x37 | 0x39 | 0x5C => l
  | 0x3B | 0x3C | 0x3D | 0x3E | 0x3F | 0x40 | 0x43 | 0x44 | 0x45 => if dOf (mainWord i) = 0 then 1 else l
  | 0x41 | 0x42 => if dOf (mainWord i) = 0 then 1 else l
  | op => fixedLatency op (mainWord i).toNat
/-- Cycles an instruction holds the vector datapath (R76). -/
def pathCycles (i : Instr) : Nat :=
  let op := opNum i
  if op = 0x66 || op = 0x67 || op = 0x68 then 12
  else if op = 0x5C || op = 0x5D || (0x60 ≤ op && op ≤ 0x70) then 4 else 0

/-! ## Illegal by the state, and privilege (R78 checks 4 and 5) -/

/-- n = r·c of `SHAPE` (R204, R205). -/
def shapeN (shape : BitVec 8) : Nat := 2 ^ (bits shape.toNat 4 4 + bits shape.toNat 0 4)
/-- The T codes whose width and slots the check of an unprefixed vector instruction uses (R188, R205, R219). -/
def typesOf (i : Instr) : List Nat :=
  match i with
  | .vadd _ _ _ _ t | .vsub _ _ _ _ t | .vmul _ _ _ _ t _ | .vfma _ _ _ _ t _ | .vmin _ _ _ _ t | .vmax _ _ _ _ t | .vdiv _ _ _ _ t
  | .vsqr _ _ _ t | .vsfn _ _ _ t _ | .vcmp _ _ _ _ t _ | .vsel _ _ _ _ t _ | .vred _ _ _ t _ _ | .vint _ _ _ _ t _ | .vmov _ _ _ t
  | .vmovBc _ _ _ t | .vpermTr _ _ _ t | .vpermIdx _ _ _ _ t => [t.toNat]
  | .vcvt _ _ _ t s => [t.toNat, s.toNat]
  | .rng _ _ _ => [8]
  | _ => []
/-- Check 4 on a decoded instruction: an unconfigured slot or n·w above 1024 (R188, R205, R219). -/
def shapeCheck (i : Instr) (word : Word32) (k : Core) : Option (Nat × Word) :=
  let ts := typesOf i
  if ts.any (b8Unset k.csrs.b8fmt) then some (0x01, k.csrs.b8fmt.setWidth 64)
  else if ts.any (fun t => shapeN k.csrs.shape * elemBits t > 1024) then some (0x01, word.setWidth 64) else none
/-- Which of RM 0b000 to 0b101 a prefix may carry for an instruction (R67). -/
def rmAllowed (j : Instr) (r : BitVec 3) : Bool :=
  if r = 0 then true
  else
    let byType (t : BitVec 4) : Bool := !isIntT t.toNat || r = 5
    match j with
    | .vadd _ _ _ _ t | .vsub _ _ _ _ t | .vmul _ _ _ _ t _ | .vfma _ _ _ _ t _ | .vdiv _ _ _ _ t | .vsqr _ _ _ t | .vsfn _ _ _ t _ =>
      byType t
    | .vred _ _ _ t _ o => o = 0 && byType t
    | .vcvt _ _ _ t s => !(isIntT t.toNat && isIntT s.toNat) || r = 5
    | _ => false
/-- A prefix is legal for the instruction after it (R67). -/
def prefixFits (j : Instr) (r : BitVec 3) (v : VReg) : Bool :=
  0x5C ≤ opNum j && opNum j ≤ 0x70 && rmAllowed j r &&
    (v = 0 || match j with | .vfma .. => true | _ => false)
/-- Check 4 of R78. -/
def illegalNow (i : Instr) (k : Core) : Option (Nat × Word) :=
  match i with
  | .vectorPrefix _ _ r v w =>
    match prefixed w with
    | some j => if prefixFits j r v then shapeCheck j w k else some (0x01, w.setWidth 64)
    | none => some (0x01, w.setWidth 64)
  | _ => shapeCheck i i.word k

/-- What a level may do with a CSR (R107): read, write. -/
def csrAccess (n : Nat) (lv : Level) : Bool × Bool :=
  let roUser := [0x000, 0x001, 0x018, 0x019, 0x01A, 0x01B, 0x100, 0x106, 0x107, 0x108]
  let rw := [0x002, 0x003, 0x004, 0x005, 0x00A, 0x00B]
  let ro := [0x006, 0x007, 0x008, 0x009, 0x010, 0x011, 0x012, 0x013]
  let sup := [0x101, 0x102, 0x103, 0x104, 0x105, 0x109]
  if rw.contains n then (true, true)
  else if ro.contains n then (true, false)
  else match lv with
    | .user => (roUser.contains n, false)
    | .supervisor => if roUser.contains n || sup.contains n then (true, true) else (decide (0x300 ≤ n), false)
/-- Check 5 of R78: `eret` at user level (R105) and the CSR table (R106). -/
def privilegeNow (i : Instr) (lv : Level) : Bool :=
  match i with
  | .eret _ => lv == .user
  | .csrr _ _ c => !(csrAccess c.toNat lv).1
  | .csrw _ _ c => !(csrAccess c.toNat lv).2
  | .csrx _ _ _ c => !((csrAccess c.toNat lv).1 && (csrAccess c.toNat lv).2)
  | _ => false

/-- A repeat frame captures the instruction (R101). -/
def captured (i : Instr) : Bool :=
  let op := opNum i
  (0x01 ≤ op && op ≤ 0x1E) || (0x60 ≤ op && op ≤ 0x70)
/-- The instruction acts on the leader's guard in a forwarded stream (R43). -/
def leaderGuarded (i : Instr) : Bool :=
  match i with
  | .br .. | .call .. | .jr .. | .loop .. | .rpt .. | .halt .. | .step .. | .eret .. | .trap .. | .fwdRel .. | .fwdJoin .. => true
  | _ => false
/-- The instruction's effect leaves a redundancy pair other than by a plain store, or it is a trap (R314). -/
def leavesPair (i : Instr) : Bool :=
  let op := opNum i
  (0x3A ≤ op && op ≤ 0x4B) || op = 0x2B || op = 0x4D || op = 0x35 || op = 0x33 || op = 0x2A || op = 0x4F || (0x51 ≤ op && op ≤ 0x58) ||
    match i with
    | .sendE .. | .sendRel .. | .echoEnd .. => true
    | _ => false

end Sys2Proof.Machine
end

