-- ==== Sys2Proof/Machine/Flags.lean ====
section
/-!
DEFINITION. Conditions and flags: the condition codes of the compares (R59, R91, R220), the sticky flags of `FPFLAGS` (R191), and
the checks a control register makes on a value written (R106, R108, R188, R190, R191, R204, R341).
-/
namespace Sys2Proof.Machine

/-! ## Conditions (R59) -/

/-- The integer test of a condition code on 64-bit values. -/
def condInt (c : BitVec 3) (a b : Word) : Bool :=
  match c.toNat with
  | 0 => a == b
  | 1 => a != b
  | 2 => a.slt b
  | 3 => !a.slt b
  | 4 => !b.slt a
  | 5 => b.slt a
  | 6 => a.ult b
  | _ => !a.ult b

/-- The floating test of a condition code; any test but `.ne` is false on a NaN. -/
def condFloat (c : BitVec 3) (a b : Exact) : Bool :=
  let nan := a.isNan || b.isNan
  match c.toNat with
  | 0 => eqExact a b
  | 1 => nan || !eqExact a b
  | 2 => !nan && ltExact a b
  | 3 => !nan && !ltExact a b
  | 4 => !nan && !ltExact b a
  | 5 => !nan && ltExact b a
  | _ => false

/-- The integer test of a condition code on integers. -/
def condOrd (c : BitVec 3) (a b : Int) : Bool :=
  match c.toNat with
  | 0 => a == b
  | 1 => a != b
  | 2 => decide (a < b)
  | 3 => decide (b ≤ a)
  | 4 => decide (a ≤ b)
  | 5 => decide (b < a)
  | _ => false

/-! ## Sticky flags (R191) -/

/-- `FPFLAGS` with flags set. -/
def setFlags (old : BitVec 32) (flags : Nat) : BitVec 32 := old ||| BitVec.ofNat 32 (flags % 64)

/-! ## Values a control register refuses (R106 step 4) -/

/-- A slot of `B8FMT` has no must-be-zero bit set (R188). -/
def b8SlotOk (n : Nat) : Bool := n / 32 % 8 == 0
/-- Step 4 of R106 passes for a value written to a CSR: no must-be-zero field of its layout is set and no reserved value is
written. Of `SAVEPTR`, AREA must name the high half of the core's own share (R341). -/
def csrValueOk (core n : Nat) (v : Word) : Bool :=
  let x := v.toNat
  match n with
  | 0x002 => decide (bits x 4 4 + bits x 0 4 ≤ 8)
  | 0x003 => bits x 6 26 == 0 && [0, 2, 3, 4, 5].contains (bits x 0 3)
  | 0x004 => bits x 6 26 == 0
  | 0x005 => b8SlotOk (bits x 0 8) && b8SlotOk (bits x 8 8) && b8SlotOk (bits x 16 8) && b8SlotOk (bits x 24 8)
  | 0x01B => bits x 48 15 == 0 && bits x 38 6 == 0 && bits x 22 10 == 0
  | 0x105 => bits x 2 6 == 0
  | 0x109 => bits x 57 7 == 0 && bits x 1 11 == 0 && inWindow x && bits x 14 1 == 1 &&
      (windowPlace (chipOf core) (x / 4096 * 4096) == some (sharePlace core (x / 4096 * 4096 % 32768)))
  | _ => true

/-- The bits a control register keeps of a value written: those of its width, without bits [1:0] of an address register. -/
def csrKept (n : Nat) (v : Word) : Word :=
  match n with
  | 0x001 | 0x003 | 0x004 | 0x005 | 0x106 | 0x107 | 0x108 => v &&& 0xFFFFFFFF
  | 0x002 | 0x102 | 0x105 => v &&& 0xFF
  | 0x100 => v &&& 0xFFFF
  | 0x019 | 0x01A | 0x101 | 0x104 => v &&& ~~~3
  | _ => v

end Sys2Proof.Machine
end

