-- ==== Sys2Proof/Machine/Ops.lean ====
section
/-!
DEFINITION. The named operations every meaning uses: registers with their poison (R25, R55, R85), the saved images of a context
(R341, R346), killing and ending a task (R27, R311, R312, R343), starting one (R25), taking an exception (R103, R311, R341) and
returning from one (R105, R312, R342).
-/
namespace Sys2Proof.Machine

/-! ## Registers -/

/-- The value of a scalar register that has storage of its own; s0 reads 0 (R25). -/
def Regs.scalar (r : Regs) (n : Nat) : Word := if n = 0 then 0 else r.s.toArray.getD n 0
/-- The poison bit of a scalar register; that of s0 is clear. -/
def Regs.scalarPoison (r : Regs) (n : Nat) : Bool := n != 0 && r.sp.getLsbD n
/-- A scalar register written with its poison bit; a write to s0 is discarded (R85). -/
def Regs.setScalar (r : Regs) (n : Nat) (v : Word) (p : Bool) : Regs :=
  if n = 0 || 60 ≤ n then r
  else { r with s := r.s.setIfInBounds n v, sp := if p then r.sp ||| BitVec.ofNat 64 (2 ^ n) else r.sp &&& ~~~(BitVec.ofNat 64 (2 ^ n)) }
/-- A guard's value; selector 0 reads 1 (R55). -/
def Regs.guard (r : Regs) (n : Nat) : Bool := n == 0 || r.g.getLsbD n
/-- A guard's poison bit. -/
def Regs.guardPoison (r : Regs) (n : Nat) : Bool := n != 0 && r.gp.getLsbD n
/-- A guard written with its poison bit. -/
def Regs.setGuard (r : Regs) (n : Nat) (v p : Bool) : Regs :=
  if n = 0 then r else
  let b := BitVec.ofNat 8 (2 ^ n)
  { r with g := if v then r.g ||| b else r.g &&& ~~~b, gp := if p then r.gp ||| b else r.gp &&& ~~~b }
/-- A vector register. -/
def Regs.vec (r : Regs) (n : VReg) : BitVec 1024 := r.v[n.toNat]
/-- The slot poison bits of a vector register (R206). -/
def Regs.vecPoison (r : Regs) (n : VReg) : BitVec 32 := r.vp[n.toNat]
/-- A vector register written with its slot poison bits. -/
def Regs.setVec (r : Regs) (n : VReg) (x : BitVec 1024) (p : BitVec 32) : Regs :=
  { r with v := r.v.set n.toNat x, vp := r.vp.set n.toNat p }
/-- A mask; selector 0 reads all ones (R55). -/
def Regs.mask (r : Regs) (n : BitVec 3) : BitVec 128 := if n = 0 then BitVec.allOnes 128 else r.m[n.toNat]
/-- A mask written. -/
def Regs.setMask (r : Regs) (n : BitVec 3) (x : BitVec 128) : Regs := if n = 0 then r else { r with m := r.m.set n.toNat x }

/-! ## Saved images (R341, R346) -/

/-- The fields of area 0 below the side log: offset, bytes, value (R346). -/
def Core.area0 (k : Core) (slot0 : Word) : List (Nat × Nat × Nat) :=
  let r := k.regs
  let x := k.csrs
  (0x000, 8, slot0.toNat) ::
  ((List.range 59).map fun i => (8 * (i + 1), 8, (r.scalar (i + 1)).toNat)) ++
  [(0x1E0, 32, 0)] ++
  ((List.range 16).map fun i => (0x200 + 128 * i, 128, (r.vec (BitVec.ofNat 4 i)).toNat)) ++
  ((List.range 7).map fun i => (0xA00 + 16 * i, 16, (r.mask (BitVec.ofNat 3 (i + 1))).toNat)) ++
  [(0xA70, 8, r.sp.toNat), (0xA78, 8, (r.g &&& 0xFE).toNat + 256 * (r.gp &&& 0xFE).toNat)] ++
  ((List.range 16).map fun i => (0xA80 + 4 * i, 4, (r.vecPoison (BitVec.ofNat 4 i)).toNat)) ++
  [(0xAC0, 8, x.lcnt.toNat), (0xAC8, 8, x.lbeg.toNat), (0xAD0, 8, x.lend.toNat), (0xAD8, 8, x.frm.toNat),
   (0xAE0, 8, x.xpc.toNat), (0xAE8, 8, x.xval.toNat), (0xAF0, 8, x.xvec.toNat), (0xAF8, 8, x.xcause.toNat + 256 * x.xstat.toNat)]

/-- The frame buffer: entry i with its word and its prefix word or 0 (R346). -/
def Core.frameImage (k : Core) : List (Nat × Nat × Nat) :=
  (List.range 16).map fun i =>
    let e := k.frame.toArray.getD i { word := 0, pfx := none }
    (8 * i, 8, e.word.toNat + 2 ^ 32 * (e.pfx.getD 0).toNat)

/-- Fields written at a place, as clean data. -/
def State.writeImage (s : State) (p : Nat) (l : List (Nat × Nat × Nat)) : State :=
  l.foldl (fun st e => st.writeClean (p + e.1) e.2.1 e.2.2) s

/-- Registers and control registers reloaded from bytes 0x008 to 0xAFF of an image (R342, R347). -/
def State.reloadArea0 (s : State) (p : Nat) (k : Core) : Core :=
  let w (o n : Nat) : Nat := s.bytes (p + o) n
  let r := k.regs
  let x := k.csrs
  { k with
    regs := { r with
      s := Vector.ofFn fun i : Fin 64 => if i.val = 0 || 60 ≤ i.val then r.s[i] else w64 (w (8 * i.val) 8)
      sp := BitVec.ofNat 64 (w 0xA70 8) &&& 0x0FFFFFFFFFFFFFFE
      g := BitVec.ofNat 8 (w 0xA78 1) &&& 0xFE
      gp := BitVec.ofNat 8 (w 0xA79 1) &&& 0xFE
      v := Vector.ofFn fun i : Fin 16 => BitVec.ofNat 1024 (w (0x200 + 128 * i.val) 128)
      vp := Vector.ofFn fun i : Fin 16 => BitVec.ofNat 32 (w (0xA80 + 4 * i.val) 4)
      m := Vector.ofFn fun i : Fin 8 => if i.val = 0 then r.m[i] else BitVec.ofNat 128 (w (0xA00 + 16 * (i.val - 1)) 16) }
    csrs := { x with
      lcnt := w64 (w 0xAC0 8)
      lbeg := csrKept 0x019 (w64 (w 0xAC8 8))
      lend := csrKept 0x01A (w64 (w 0xAD0 8))
      frm := w64 (w 0xAD8 8) &&& 0x8000F03F003FFFFF
      xpc := csrKept 0x101 (w64 (w 0xAE0 8))
      xval := w64 (w 0xAE8 8)
      xvec := csrKept 0x104 (w64 (w 0xAF0 8))
      xcause := BitVec.ofNat 8 (w 0xAF8 1)
      xstat := BitVec.ofNat 8 (w 0xAF9 1) &&& 3 } }

/-- The frame buffer reloaded from an image. -/
def State.reloadFrame (s : State) (p : Nat) (k : Core) : Core :=
  { k with frame := Vector.ofFn fun i : Fin 16 =>
      let x := s.bytes (p + 8 * i.val + 4) 4
      { word := BitVec.ofNat 32 (s.bytes (p + 8 * i.val) 4), pfx := if x = 0 then none else some (BitVec.ofNat 32 x) } }

/-- The place of the nest area `SAVEPTR` names (R341). -/
def Core.nestPlace (k : Core) (c : Nat) : Nat :=
  (windowPlace (chipOf c) (k.csrs.saveptr.toNat / 4096 * 4096)).getD (sharePlace c 0x7000)
/-- `SAVEPTR.BUSY` (R341). -/
def Core.busy (k : Core) : Bool := k.csrs.saveptr.getLsbD 0
/-- `SAVEPTR` with BUSY set or clear. -/
def Core.setBusy (k : Core) (b : Bool) : Core :=
  { k with csrs := { k.csrs with saveptr := if b then k.csrs.saveptr ||| 1 else k.csrs.saveptr &&& ~~~1 } }

/-! ## Forwarding and pairs: the members of a row (R41, R313) -/

/-- A follower whose leader's task has ended: what is on its way to it is still executed, and a handler it is in still returns; then it
fetches for itself from the address at which its row or pair stopped (R45, R46). -/
def Core.released (k : Core) (pc : Word) : Core :=
  let w : Wait := match k.wait with
    | .fwd _ | .join | .echo _ => .none
    | w => w
  if k.group.stream.isEmpty && k.level == .user then
    { k with pc := pc, wait := w, group := { Group.reset with stopAt := k.group.stopAt } }
  else { k with wait := w, group := { k.group with leaveAt := some pc } }
/-- The row of a leader whose task ended is dissolved: its followers fetch for themselves where the row stopped; those it had released
go on as they are (R46). -/
def State.dissolveRow (s : State) (c : Nat) : State :=
  let at_ := (s.core c).group.stopAt
  ((s.core c).rowFollowers c).foldl (fun st f => st.modCore f fun k =>
    match k.group.fwd with
    | .follower => k.released at_
    | .released => { k with wait := (if k.wait == .join then .none else k.wait), group := { k.group with fwd := .none, fwdDesc := 0 } }
    | _ => k) s

/-- What the end of a core's task does to its group: a leader's row is dissolved, a pair's follower leaves it (R44, R46, R110). -/
def State.leaveGroup (s : State) (c : Nat) : State :=
  let k := s.core c
  let s1 := if k.group.fwd = .leader then s.dissolveRow c else s
  let s2 := if k.group.pair = .leader then s1.modCore k.group.partner fun f => f.released k.group.stopAt else s1
  s2.modCore c fun k => { k with group := Group.reset }

/-! ## Killing and ending a task (R27, R311, R312, R343) -/

/-- What of a closed packet still reaches its destination when its source is killed: nothing where no flit had left, the words that
had left and an error word, or the whole packet (R311). Which holds is free: `n` is how many words had left. A packet to a ring
lands whole or not at all. -/
def Packet.cut (p : Packet) (n : Nat) : Option Packet :=
  if p.queue = 4 || p.left then some p
  else if n = 0 then none
  else if n < p.words.length then
    if p.ring then none else some { p with words := p.words.take n ++ [(BitVec.allOnes 64, true)], err := true }
  else some p

/-- A core's packets in the network when it is killed. Behind one of which words had still to leave nothing of the same outbound queue
had begun to: `stuck` is the queues that this holds of. -/
def cutPackets (c step : Nat) : List Nat → Nat → List Packet → List Packet
  | _, _, [] => []
  | stuck, i, p :: rest =>
    if p.src = c then
      let n := if stuck.contains p.queue then 0 else Config.freeNat (1024 * step + i) % (p.words.length + 1)
      let stuck' := if p.queue = 4 || p.left || n = p.words.length then stuck else p.queue :: stuck
      match p.cut n with
      | some q => q :: cutPackets c step stuck' (i + 1) rest
      | none => cutPackets c step stuck' (i + 1) rest
    else p :: cutPackets c step stuck (i + 1) rest
/-- The landing that a packet to a ring has registered (R40, R174). -/
def State.landingOf (s : State) (p : Packet) : Option (Nat × Nat × Word) :=
  match findFirst (fun r => r.base == p.dst) s.rings, p.words with
  | some r, (n, _) :: _ => if p.ring then some (0, r.base + 8 * (n.toNat % r.slots), n) else none
  | _, _ => none
/-- The network with other packets: those that are gone land nowhere, so that no landing of theirs is registered (R40). -/
def State.setPackets (s : State) (l : List Packet) : State :=
  let gone := (s.packets.filter fun p => p.ring && !l.contains p).filterMap s.landingOf
  { s with packets := l, landings := gone.foldl (fun m x => dropFirst (fun y => y == x) m) s.landings }

/-- The kill of a task before its core enters the handler (R311); type 4 of the event is a task killed, 5 a double trap. -/
def State.kill (s : State) (c cause : Nat) (xval : Word) (type : Nat) : State :=
  let s1 := s.setPackets (cutPackets c s.stepNo [] 0 s.packets)
  let s2 := s1.modCore c fun k =>
    { k with outq := Vector.replicate 4 none, inq := Vector.replicate 4 [], sealed := true, pages := [] }
  let writes := s2.flights.length + (s2.l1Of c).foldl (fun n (l : L1Line) => n + 1 + l.parts.length) 0
  let s3 := State.killHome c (writes + 1) (s2.slogForget c)
  let s4 := s3.cancelQueued c
  let s5 := s4.modCore c fun k => { k with killed := true, gen := k.gen + 1 }
  let t := (s.core c).task
  s5.post t.part c type cause t.queue t.seq xval

/-- A task ended by the user's own `halt`: its followers in the chain have the `halt` in their streams, those released fetch on for
themselves (R44, R110). -/
def State.endQuiet (s : State) (c : Nat) : State :=
  let k := s.core c
  let s1 := if k.group.fwd = .leader then
      (k.rowFollowers c).foldl (fun st f =>
        st.modCore f fun q => if q.group.fwd = .released
          then { q with wait := (if q.wait == .join then .none else q.wait), group := { q.group with fwd := .none, fwdDesc := 0 } } else q) s
    else s
  s1.modCore c fun k => { k with group := Group.reset }
/-- A task ended on its core (R27, R172, R312); in a pair of a prot launch both cores run the one task (R46, R313). -/
def State.endOne (s : State) (c : Nat) (failed : Bool) : State :=
  (s.leaveGroup c).modCore c fun k =>
    { k with run := .ended failed, wait := .none, freeze := none, pend := [], inq := Vector.replicate 4 [],
             outq := Vector.replicate 4 none, level := .user, killed := false, sealed := false, wake := false, nests := [] }
/-- The end of a task. -/
def State.endTask (s : State) (c : Nat) (failed : Bool) : State :=
  let k := s.core c
  let s1 := if k.group.pair = .leader && (k.task.cls = .prot || (s.core k.group.partner).killed) then s.endOne k.group.partner failed else s
  s1.endOne c failed

/-! ## Starting a task (R25) -/

/-- The control registers at task start (R25, R107). -/
def Csrs.start (t : Task) (saveptr : Word) : Csrs :=
  { Csrs.reset with
    budget := t.budget, rect := t.rect, asid := t.asid, ebud := t.ebud, equota := t.grant, bartmo := t.bartmo
    rngs0 := t.seed0, rngs1 := t.seed1, xvec := csrKept 0x104 t.xvec, saveptr := saveptr }
/-- The registers at task start: all zero but `sp` (s57) and `ap` (s59) (R25). -/
def Regs.start (t : Task) : Regs := (Regs.reset.setScalar 57 t.sp false).setScalar 59 t.args false
/-- What a pair's checkpoint records of a core (R315, R316). -/
def Core.checkpoint (k : Core) : Checkpoint :=
  { regs := k.regs, csrs := k.csrs, pc := k.pc, sect := k.sect, wake := k.wake, loopOn := k.loopOn, frameOn := k.frameOn, outq := k.outq,
    frame := k.frame, cyc := k.cyc, ready := k.ready }
/-- The pair a core belongs to from task start: in a prot launch every core at an even x − X0 leads the one east of it (R313). -/
def Task.pair (t : Task) (c : Nat) : Group :=
  if t.cls != .prot then Group.reset
  else if (xOf c - bits t.rect.toNat 0 11) % 2 = 0 then { Group.reset with pair := .leader, partner := c + 1 }
  else { Group.reset with pair := .follower, partner := c - 1 }
/-- A channel at the start of a task (R257, R262): what still runs stays in it, its counts begin anew. -/
def Channel.anew (ch : Channel) : Channel := { Channel.reset with cmds := ch.cmds }
/-- A core at the start of a task (R25). Its started commands run on, and its generation advances (R329). -/
def Core.start (k : Core) (c : Nat) (t : Task) : Core :=
  let k1 : Core := { Core.reset c with
    regs := Regs.start t
    csrs := Csrs.start t (Core.reset c).csrs.saveptr
    pc := t.entry
    run := .running
    task := t
    gen := k.gen + 1
    matq := k.matq
    thrq := k.thrq
    chan := k.chan.map Channel.anew
    energy := k.energy
    cyc := k.cyc }
  { k1 with group := { t.pair c with saved := some k1.checkpoint } }

/-! ## Taking an exception (R103, R311, R341) -/

/-- A vector store of the core stands between two of its elements (R214): no boundary comes before it is done. -/
def Core.storing (k : Core) : Bool := k.partway.any fun w => !w.writes.isEmpty
/-- R103's entry itself: the saved registers, the level and the handler's address. Loop and frame state of the interrupted level
stay in their registers and do not act in the handler (R105). The core cycles of the entry pass on the scoreboard's clock: 3 after a trap
before issue or at a boundary, whose instruction has no issue cycle, and with that cycle 4 in all (R30, R75; DEDUCED: log entry 71). -/
def Core.takeTrap (k : Core) (cause : Nat) (xval xpc : Word) : Core :=
  let sup := k.level == .supervisor
  { k with
    csrs := { k.csrs with
      xpc := csrKept 0x101 xpc
      xcause := BitVec.ofNat 8 cause
      xval := xval
      xstat := if sup then 3 else 0
      nselIx := 0 }
    level := .supervisor
    partway := none
    pc := k.csrs.xvec
    wait := .none
    freeze := none
    loopOn := false
    frameOn := false
    cyc := k.cyc + 3
    group := if sup then k.group else { k.group with stopAt := xpc } }

/-- The nest image of a supervisor context in its nest area, with the new trap's address in slot 0 (R341). -/
def State.nest (s : State) (c : Nat) (xpc : Word) : State :=
  let k := s.core c
  let p := k.nestPlace c
  let s1 := ((s.writeImage p (k.area0 xpc)).writeImage (p + 0xB00) k.frameImage).writeClean (p + 0xB80) 0x480 0
  s1.modCore c fun k => { k.setBusy true with nests := (k.loopOn, k.frameOn) :: k.nests }

/-- Taking an exception on a core: cause, `XVAL` and the address saved. From user level a cause that kills kills first (R311); from
supervisor level the context is saved in the nest area, or the task ends when that area is in use (R341). -/
def State.enterTrap (s : State) (c cause : Nat) (xval xpc : Word) : State :=
  let k := s.core c
  match k.level with
  | .user =>
    let s1 := if cause = 0x0E || cause = 0x18 then s.kill c cause xval 4 else s
    -- a pair of a prot launch runs one task (R313)
    let s1 := if cause = 0x0E && k.group.pair == .leader && k.task.cls == .prot
      then s1.modCore k.group.partner fun q => { q with killed := true, gen := q.gen + 1 } else s1
    s1.modCore c fun k => k.takeTrap cause xval xpc
  | .supervisor =>
    if k.busy then (s.kill c cause xval 5).endTask c true
    else (s.nest c xpc).modCore c fun k => k.takeTrap cause xval xpc

/-! ## Returning from an exception (R105, R312, R342) -/

/-- The task of a killed core restarts at its entry (R312), with the other half of its pair where that is the same task or was killed
with it; the launch's slice count runs on (R363). What it led is dissolved (R46). -/
def State.restart (s : State) (c : Nat) : State :=
  let g := (s.core c).group
  let s1 := if g.pair == .leader && ((s.core c).task.cls == .prot || (s.core g.partner).killed)
    then s.modCore g.partner fun k => { k.start g.partner k.task with slice := k.slice } else s.leaveGroup c
  s1.modCore c fun k => { k.start c k.task with slice := k.slice }

/-- The first parts of a supervisor's `halt` (R343): the interrupted context's open packet is discarded and its commands that have
not started are cancelled. -/
def State.haltCancel (s : State) (c : Nat) : State :=
  (s.modCore c fun k => { k with outq := Vector.replicate 4 none }).cancelQueued c

/-- What `eret` does at supervisor level but for a return that ends the task: the level and the pc of the trap registers, the
nest image reloaded where the trap was taken at supervisor level (R342), loop and frame state acting again (R105). The nest images are
returned to in the order opposite to that in which they were written. -/
def State.eretTo (s : State) (c : Nat) : State :=
  let k := s.core c
  let pc := k.csrs.xpc
  let lv : Level := if k.csrs.xstat.getLsbD 0 then .supervisor else .user
  let nest := k.csrs.xstat.getLsbD 1
  let p := k.nestPlace c
  let k1 := if nest then s.reloadFrame (p + 0xB00) (s.reloadArea0 p k) else k
  let k2 := k1.setBusy false
  s.setCore c { k2 with
    pc := pc
    level := lv
    nests := if nest then k.nests.drop 1 else []
    loopOn := if nest then (k.nests.headD (true, true)).1 else true
    frameOn := if nest then (k.nests.headD (true, true)).2 else true }

/-! ## Control registers (R106, R107) -/

/-- `QSTAT` (R175). -/
def Core.qstat (k : Core) : Nat :=
  let cnt (i : Nat) (l : List InWord) : Nat := Nat.min l.length 63 * 2 ^ (6 * i)
  let err (i : Nat) (l : List InWord) : Nat := match l with
    | w :: _ => if w.err then 2 ^ (28 + i) else 0
    | [] => 0
  let open_ (i : Nat) (o : Option OpenPacket) : Nat := if o.isSome then 2 ^ (24 + i) else 0
  cnt 0 k.inq[0] + cnt 1 k.inq[1] + cnt 2 k.inq[2] + cnt 3 k.inq[3] +
  open_ 0 k.outq[0] + open_ 1 k.outq[1] + open_ 2 k.outq[2] + open_ 3 k.outq[3] +
  err 0 k.inq[0] + err 1 k.inq[1] + err 2 k.inq[2] + err 3 k.inq[3]

/-- `WMARKn` (R257): the end of the filled prefix of the channel's oldest command, or what the last one left. -/
def Channel.wmark (ch : Channel) : Word :=
  match ch.cmds with
  | { work := .copy d, progress := n, .. } :: _ => d.markAt n
  | _ => ch.mark

/-- A window of `NSEL` (R377). -/
def Chip.nsel (h : Chip) (k : Nat) : Word :=
  w64 (k * 2 ^ 32 + bits h.nselMessage.toNat (16 * k) 16 * 2 ^ 16 + bits h.nselCached.toNat (16 * k) 16)

/-- The value of a control register (R106, R107), zero-extended but for `EQUOTA` (R349). -/
def State.csrValue (s : State) (c n : Nat) : Word :=
  let k := s.core c
  let x := k.csrs
  let h := s.chip (chipOf c)
  match n with
  | 0x000 => x.taskclk
  | 0x001 => x.budget.setWidth 64
  | 0x002 => x.shape.setWidth 64
  | 0x003 => x.fpctl.setWidth 64
  | 0x004 => x.fpflags.setWidth 64
  | 0x005 => x.b8fmt.setWidth 64
  | 0x006 => w64 c
  | 0x007 => x.rect
  | 0x008 => w64 k.qstat
  | 0x009 => w64 s.gtime
  | 0x00A => x.rngs0
  | 0x00B => x.rngs1
  | 0x010 => k.chan[0].wmark
  | 0x011 => k.chan[1].wmark
  | 0x012 => k.chan[2].wmark
  | 0x013 => k.chan[3].wmark
  | 0x018 => x.lcnt
  | 0x019 => x.lbeg
  | 0x01A => x.lend
  | 0x01B => x.frm
  | 0x100 => x.asid.setWidth 64
  | 0x101 => x.xpc
  | 0x102 => x.xcause.setWidth 64
  | 0x103 => x.xval
  | 0x104 => x.xvec
  | 0x105 => x.xstat.setWidth 64
  | 0x106 => x.ebud.setWidth 64
  | 0x107 => x.equota.signExtend 64
  | 0x108 => x.bartmo.setWidth 64
  | 0x109 => x.saveptr
  | 0x300 => h.nsel x.nselIx
  | 0x301 => h.state.setWidth 64
  | 0x302 => h.src.setWidth 64
  | 0x303 => h.dir.setWidth 64
  | _ => 0

/-- A control register written, with a value that passed its checks. A write of the loop or frame registers at supervisor level
acts from the next `eret` on (R108), and a loop of the handler's own that is active does not act until then (DESIGN CHOICE: log
entry 14); a write of `EBUD` or `EQUOTA` that ends its condition empties the pending slot (R309, R349). -/
def Core.csrSet (k : Core) (n : Nat) (v0 : Word) : Core :=
  let v := csrKept n v0
  let x := k.csrs
  let w32 : BitVec 32 := v.setWidth 32
  let b8 : BitVec 8 := v.setWidth 8
  match n with
  | 0x000 => { k with csrs := { x with taskclk := v } }
  | 0x001 => { k with csrs := { x with budget := w32 } }
  | 0x002 => { k with csrs := { x with shape := b8 } }
  | 0x003 => { k with csrs := { x with fpctl := w32 } }
  | 0x004 => { k with csrs := { x with fpflags := w32 } }
  | 0x005 => { k with csrs := { x with b8fmt := w32 } }
  | 0x00A => { k with csrs := { x with rngs0 := v } }
  | 0x00B => { k with csrs := { x with rngs1 := v } }
  | 0x018 => { k with csrs := { x with lcnt := v }, loopOn := false }
  | 0x019 => { k with csrs := { x with lbeg := v }, loopOn := false }
  | 0x01A => { k with csrs := { x with lend := v }, loopOn := false }
  | 0x01B => { k with csrs := { x with frm := v }, frameOn := false }
  | 0x100 => { k with csrs := { x with asid := v.setWidth 16 } }
  | 0x101 => { k with csrs := { x with xpc := v } }
  | 0x102 => { k with csrs := { x with xcause := b8 } }
  | 0x103 => { k with csrs := { x with xval := v } }
  | 0x104 => { k with csrs := { x with xvec := v } }
  | 0x105 => { k with csrs := { x with xstat := b8 } }
  | 0x106 => { k with csrs := { x with ebud := w32 }, pend := if w32 = 0 then k.pend else k.pend.filter fun e => e.1 != 0x0F }
  | 0x107 => { k with csrs := { x with equota := w32 },
                      pend := if BitVec.slt 0 w32 then k.pend.filter fun e => e.1 != 0x10 else k.pend }
  | 0x108 => { k with csrs := { x with bartmo := w32 } }
  | 0x109 => { k with csrs := { x with saveptr := v } }
  | _ => k

end Sys2Proof.Machine
end

