-- ==== Sys2Proof/Machine/Access.lean ====
section
/-!
DEFINITION. What an instruction does with registers and memory: reads and writes of register fields with the queue registers (R55,
R172, R173), the address checks (R115-R117, R29, R132), loads, stores and atomics at tarns and through the caches (R118-R130), faults
of translation (R133, R328), releases and acquires (R123, R124, R152, R155, R331), and what a redundancy pair shares (R313, R315).
-/
namespace Sys2Proof.Machine

/-! ## Pairs (R313) -/

/-- The core that moves is a pair's follower in the forwarded stream: it receives what the leader read and performs nothing outside
its own registers. -/
def follows : M Bool := do
  let k ← getC
  return k.group.pair == .follower && k.level == .user
/-- The core that moves is a pair's leader in the forwarded stream. -/
def leads : M Bool := do
  let k ← getC
  return k.group.pair == .leader && k.level == .user
/-- A value a pair's leader reads and its follower receives (R313). -/
def shared (m : M (Nat × Nat)) : M (Nat × Nat) := do
  if ← follows then
    match (← getC).group.fed with
    | v :: rest => do
      modC fun k => { k with group := { k.group with fed := rest } }
      return v
    | [] => return (0, 0)
  else
    let v ← m
    if ← leads then modC fun k => { k with group := { k.group with fed := k.group.fed ++ [v] } }
    return v
/-- A shared register value with its poison bit. -/
def sharedWord (m : M (Word × Bool)) : M (Word × Bool) := do
  let r ← shared do
    let v ← m
    return (v.1.toNat, v.2.toNat)
  return (w64 r.1, r.2 != 0)
/-- An effect outside the core, made by a pair's leader alone. -/
def outside (m : M Unit) : M Unit := do
  if ← follows then pure () else m

/-- A computation whose effects are undone when it stops. -/
def restoring {α : Type} (s0 : State) (m : M α) : M α := fun s =>
  match m s with
  | .ok a s' => .ok a s'
  | .error e _ => .error e s0

/-! ## Releases and acquires -/

/-- A result that is false where the side log was full: the access waits (R330). -/
def guardLog (r : State × Bool) : M Unit := do
  set r.1
  if r.2 then pure () else freeze .sideLog

/-- The scope of a SCOPE field (R62). -/
def scopeOf (p : BitVec 3) : Scope :=
  match p.toNat with
  | 0 => .core
  | 1 => .pond
  | 2 => .chip
  | 3 => .dev
  | _ => .sys

/-- The part of an acquire that drops the core's L1 lines of released-mode memory (R123, R152). -/
def dropLines (sc : Scope) : M Unit := do
  if sc = .core then pure ()
  else
    let s ← get
    guardLog (s.dropReleased s.cur)

/-- The core's side log is empty and no loss is recorded, or it waits or takes the store-lost trap (R331). -/
def slogClear : M Unit := do
  let k ← getC
  let s ← get
  if !(s.logged s.cur).isEmpty then freeze .sideLog
  match k.loss with
  | some a => do
    modC fun k => { k with loss := none }
    trap 0x13 a
  | none => pure ()
/-- What has to reach its home slice before an instruction takes effect: the side log is empty before, and empty still once the writes
have been made, since a write that faults then enters it (R21, R331). -/
def throughLog (f : State → Nat → State × Bool) : M Unit := do
  slogClear
  let s ← get
  guardLog (f s s.cur)
  slogClear
/-- A release's writes (R124, R135, R147): the update-only lines merge, the write-backs on their way are performed; at `.sys` the dirty
released-mode lines go home too. -/
def State.releaseHome (s : State) (sc : Scope) (c : Nat) : State × Bool :=
  let a := s.mergeOwn c
  let b := a.1.settle c fun _ => true
  let d := if sc = .sys then b.1.cleanReleased c else (b.1, true)
  (d.1, a.2 && b.2 && d.2)
/-- A release by the core (R124, R135, R147, R152, R331): its side log is empty, its writes have been made, at `.sys` those to host
memory have been acknowledged there, and at `.pond` and wider its dirty released-mode lines are recorded. It ends the tagging of an
earlier `fence.rel`. -/
def release (sc : Scope) : M Unit := do
  throughLog fun s c => s.releaseHome sc c
  let k ← getC
  if sc = .sys then modify fun s => s.toHost k.task.part (some s.cur)
  modC fun k => { k with fenceTag := none }
  modify fun s => s.recordDirty s.cur sc

/-- The acquire a core makes at a scope by reading what a release wrote, where each one's scope covers the other (R147): the
releaser's recorded lines are written back (R151, R155), the core's own released-mode lines dropped. -/
def acquireFrom (sc : Scope) (rel : Rel) : M Unit := do
  let s ← get
  if scopeCovers sc s.cur rel.core && scopeCovers rel.scope s.cur rel.core then
    guardLog (s.flushFor rel.core (some s.cur))
    dropLines sc

/-! ## Register fields (R55) -/

/-- The oldest word of an inbound queue popped (R172); the first pop of a released packet is an acquire (R155). -/
def popQueue (q : Nat) : M (Word × Bool) :=
  sharedWord do
    let k ← getC
    match k.inq.toArray.getD q [] with
    | [] => freeze .inQueue
    | w :: rest => do
      match w.rel with
      | some r => acquireFrom r.scope r
      | none => pure ()
      let lead ← leads
      modC fun k => { k with
        inq := k.inq.setIfInBounds q rest
        group := if lead then { k.group with popped := k.group.popped ++ [(q, w)] } else k.group }
      return (w.word, w.poison)

/-- A scalar source field read: its value and poison bit. -/
def rs (r : SReg) : M (Word × Bool) := do
  if r.toNat < 60 then
    let k ← getC
    return (k.regs.scalar r.toNat, k.regs.scalarPoison r.toNat)
  else popQueue (r.toNat - 60)

/-- The number of a register if its value is poisoned. -/
def badReg (r : SReg) (v : Word × Bool) : Option Nat := if v.2 then some r.toNat else none

/-- Words of a core's closed packets of a queue that are still draining from it (R172). -/
def State.undelivered (s : State) (c q : Nat) : Nat :=
  s.packets.foldl (fun n p => if p.src = c && p.queue = q && !p.left then n + p.words.length else n) 0

/-- A word pushed into an outbound queue, opening a packet if none is open (R172, R173, R344); `who` is the register number a poisoned
word is reported with. -/
def pushQueue (q : Nat) (v : Word × Bool) (who : Nat) : M Unit := do
  if v.2 then trap 0x0E (w64 who)
  let s ← get
  let k := s.core s.cur
  let sup := k.level == .supervisor
  match k.outq.toArray.getD q none with
  | some o => do
    if sup && !o.bySup then trap 0x15 o.addr
    if o.words.length ≥ 32 then throw (.packet q o.addr)
    if s.undelivered s.cur q + o.words.length ≥ 32 then freeze .outQueue
    outside (modC fun k => { k with outq := k.outq.setIfInBounds q (some { o with words := o.words ++ [v.1] }) })
  | none => do
    if s.undelivered s.cur q ≥ 32 then freeze .outQueue
    outside (modC fun k => { k with outq := k.outq.setIfInBounds q (some { words := [v.1], addr := k.pc, count := 1, bySup := sup }) })

/-- A scalar destination field written with its poison bit; a word pushed enters a pair's fingerprint here (R314). -/
def ws (r : SReg) (v : Word) (p : Bool) : M Unit := do
  if r.toNat < 60 then modC fun k => { k with regs := k.regs.setScalar r.toNat v p }
  else do
    pushQueue (r.toNat - 60) (v, p) r.toNat
    modC fun k => if k.group.pair == .none || k.level != .user then k
      else { k with group := { k.group with print := Config.fingerprint k.group.print [r.toNat, v.toNat] } }

/-- A guard written with its poison bit. -/
def wg (h : BitVec 3) (v p : Bool) : M Unit := modC fun k => { k with regs := k.regs.setGuard h.toNat v p }

/-! ## Checks on an address (R29, R115-R117, R132) -/

/-- Some core beneath a tarn belongs to a rectangle (R29). -/
def tarnInRect (r : Nat × Nat × Nat × Nat) (p : Nat) : Bool :=
  let chip := placeChip p
  let t := (p - 2 ^ 48) / 2 ^ 21 % 32
  let x := chip % 20 * 64 + t % 8 * 8
  let y := chip / 20 * 32 + t / 8 * 8
  decide (x < r.1 + r.2.2.1) && decide (r.1 < x + 8) && decide (y < r.2.1 + r.2.2.2) && decide (r.2.1 < y + 8)

/-- The scope rule for a tarn place at a level: at user level remote-scope and then phase (R29), at supervisor level the chiplets of
the partition (R117). -/
def State.tarnFault (s : State) (c : Nat) (lv : Level) (p : Nat) : Option Nat :=
  let k := s.core c
  match lv with
  | .user =>
    if !tarnInRect k.rect p then some 0x09
    else if placeChip p != chipOf c && k.sect == .compute then some 0x08 else none
  | .supervisor => if (s.part k.task.part).chips.contains (placeChip p) then none else some 0x09

/-- Checks 3 to 5 of R117 on the first byte of an access. -/
def State.addrFault (s : State) (c : Nat) (lv : Level) (a : Nat) : Option Nat :=
  if bits a 57 7 ≠ 0 then some 0x07
  else if inWindow a then
    match windowPlace (chipOf c) a with
    | none => some 0x07
    | some p => if lv == .user && bits a 14 1 == 1 then some 0x05 else s.tarnFault c lv p
  else none

/-- Check 6 of R117: the range-lock rule (R132). -/
def lockCheck (ea : Word) (size : Nat) (write : Bool) : M Unit := do
  let s ← get
  let sp := s.spanAt s.cur ea.toNat size
  match (if write then s.storeLock s.cur sp else s.loadLock s.cur sp) with
  | .go => pure ()
  | .refuse => trap 0x0D ea
  | .wait => freeze .engine

/-- Checks 1 to 6 of R117 on an access of `size` bytes. -/
def checkAccess (bad : Option Nat) (ea : Word) (size : Nat) (write : Bool) : M Unit := do
  match bad with
  | some r => trap 0x0E (w64 r)
  | none => pure ()
  require (ea.toNat % size == 0) 0x03 ea
  let s ← get
  match s.addrFault s.cur (s.core s.cur).level ea.toNat with
  | some c => trap c ea
  | none => pure ()
  lockCheck ea size write

/-- The latency of a load or returning atomic by its target (R74). -/
def State.targetLatency (s : State) (ea : Nat) (cached home near far : Nat) : Nat :=
  if inWindow ea then
    match windowPlace (chipOf s.cur) ea with
    | some p =>
      if placeChip p != chipOf s.cur then far
      else if (p - 2 ^ 48) / 2 ^ 21 % 32 = homeTarn (xOf s.cur) (yOf s.cur) then home else near
    | none => cached
  else cached

/-! ## Faults of translation (R133, R328) -/

/-- The held page request of a page. -/
def Core.heldPage (k : Core) (page : Nat) : Option HeldPage := findFirst (fun h => h.page == page) k.pages
/-- The core without the held page request of a page. -/
def Core.dropPage (k : Core) (page : Nat) : Core := { k with pages := dropFirst (fun h => h.page == page) k.pages }

/-- A line brought into its home slice for a returning access: its class, or the freeze for a page request's answer, or a trap. -/
def fillHome (q : Req) (ea : Word) : M Nat := do
  let s ← get
  let page := ea.toNat / 4096
  let held := (s.core s.cur).heldPage page
  match held with
  | some h =>
    if !h.anew then
      if h.failed then
        modC fun k => k.dropPage page
        trap 0x04 ea
      else freeze .pageRequest
    else pure ()
  | none => pure ()
  match s.l2Fill q ea.toNat with
  | (s1, .ok _ cls) => do
    set s1
    modC fun k => k.dropPage page
    return cls
  | (s1, .fault cause lvl) => do
    set s1
    if cause = 0x04 then
      match held with
      | some h =>
        if h.failed then
          modC fun k => k.dropPage page
          trap 0x04 ea
        else
          modC fun k => { k with pages := replaceFirst (fun x => x.page == page) { h with anew := false } k.pages }
          freeze .pageRequest
      | none =>
        let k ← getC
        let r := s1.request ((s1.part q.part).homeSpring ea.toNat) q.part k.gen q.asid s1.cur 0 cause q.acc lvl ea.toNat
        set r.1
        modC fun k => { k with pages := k.pages ++ [{ req := r.2, page := page, failed := false, anew := false }] }
        freeze .pageRequest
    else
      modC fun k => k.dropPage page
      trap cause ea

/-! ## Loads -/

/-- An error in the flits that bring data to the core met: whether they come as poison (R307). -/
def flitMet (ea : Word) : M Bool := do
  let s ← get
  let r := s.meetFlit s.cur ea.toNat
  set r.1
  return r.2
/-- `n` bytes at a place with their poison, an error in storage or in a flit met on the way (R307). -/
def placeRead (p n : Nat) (ea : Word) : M (Nat × Bool) := do
  modify fun s => s.meetError p (some s.cur) ea.toNat
  let bad ← flitMet ea
  let s ← get
  return (s.bytes p n, bad || s.anyMarked p n)
/-- The same for a plain load, which a later `fence.acq` may make an acquire of what tagged the bytes (R152). -/
def plainRead (p n : Nat) (ea : Word) : M (Nat × Bool) := do
  modify fun s => s.saw s.cur (s.relsOf true 0 0 p n)
  placeRead p n ea

/-- While the side log holds an entry for the page of an address the core waits, also where a write of its own has just entered it
(R118, R330). -/
def pageClear (ea : Word) : M Unit := do
  let s ← get
  if s.slogPage s.cur ea.toNat then freeze .sideLog
/-- The core's own update-only line of a line merged (R118, R130). -/
def mergeOwnLine (line : Nat) : M Unit := do
  let s ← get
  match s.l1Get s.cur line with
  | some l => if l.updateOnly then guardLog (s.mergeLine s.cur l) else pure ()
  | none => pure ()

/-- The core's own write-backs of a line on their way performed, and every core's update-only line of it merged (R122, R130). -/
def settleLine (line : Nat) : M Unit := do
  let s ← get
  guardLog (s.settle s.cur fun w => w.covers (s.core s.cur).csrs.asid line)
  let s ← get
  let k := s.core s.cur
  guardLog (s.mergeAll k.task.part k.csrs.asid line (some s.cur))

/-- The core's own dirty bytes of a line written back by mask, the line kept. -/
def cleanLine (line : Nat) : M Unit := do
  let s ← get
  match s.l1Get s.cur line with
  | some l => if l.dirty = 0 || l.updateOnly then pure () else guardLog (s.cleanHome s.cur l)
  | none => pure ()
/-- An L1 line with nothing in it, a data line or an update-only one. -/
def L1Line.blank (asid : BitVec 16) (line : Nat) (updateOnly : Bool) : L1Line :=
  { asid := asid, line := line, valid := 0, dirty := 0, sup := 0, overtaken := 0, fenced := 0, data := 0, marks := 0, sets := 0, clears := 0,
    cls := none, recorded := false, rels := [], err := none, updateOnly := updateOnly, parts := [] }
/-- A fetched line under bytes of the core's own dirty ones (R118). -/
def L1Line.under (fresh old : L1Line) (mine : BitVec 64) : L1Line :=
  let words := BitVec.ofNat 16 (touchedWords mine.toNat)
  { fresh with
    data := mergeData fresh.data old.data mine, marks := sentMarks fresh.marks (old.sets &&& words) (old.clears &&& words),
    dirty := old.dirty, sup := old.sup, overtaken := old.overtaken, fenced := old.fenced, sets := old.sets, clears := old.clears,
    recorded := old.recorded, err := old.err }

/-- The line of an address fetched into the L1, its own dirty bytes kept (R118). -/
def fillL1 (ea : Word) : M L1Line := do
  let line := ea.toNat / 64
  settleLine line
  pageClear ea
  let s ← get
  let c := s.cur
  let q := s.reqOf c true false false
  let cls ← fillHome q ea
  let bad ← flitMet ea
  let s ← get
  let k := s.core c
  let blank := L1Line.blank k.csrs.asid line false
  let fresh : L1Line :=
    match s.l2Get k.task.part k.csrs.asid line with
    | some x => { blank with valid := BitVec.allOnes 64, data := x.data, marks := if bad then BitVec.allOnes 16 else x.marks, cls := some x.cls,
                             rels := s.relsOf false k.task.part k.csrs.asid (64 * line) 64 }
    | none => { blank with valid := BitVec.allOnes 64, cls := some (BitVec.ofNat 2 cls) }
  let l := match s.l1Get c line with
    | some old => fresh.under old old.dirty
    | none => fresh
  guardLog (s.l1Insert c l)
  return l

/-- An error in the storage of a line of the core's L1 met (R140, R307). -/
def meetL1 (l : L1Line) (ea : Word) : M L1Line := do
  match l.err with
  | none => return l
  | some bad =>
    let x := l.disturbed bad
    modify fun s => (s.l1Set s.cur l (some x)).countMet (some s.cur) bad ea.toNat
    return x
/-- A cached load through the L1 (R118, R330). -/
def cachedRead (ea : Word) (n : Nat) : M (Nat × Bool) := do
  let s ← get
  let c := s.cur
  let line := ea.toNat / 64
  let off := ea.toNat % 64
  pageClear ea
  mergeOwnLine line
  pageClear ea
  let s ← get
  let l ← match s.l1Get c line with
    | some l => do
      let x ← meetL1 l ea
      if (x.valid &&& byteMask off n) == byteMask off n then
        modify fun s => s.setL1 c (x :: dropFirst (fun y => y.asid == l.asid && y.line == l.line) (s.l1Of c))
        pure x
      else fillL1 ea
    | none => fillL1 ea
  modify fun s => s.saw c l.rels
  return (lineBytes l.data off n, (l.marks &&& wordMask off n) != 0)

/-- Bytes of a line of the core's L1 that it keeps clean renewed by what a load has read at the home slice. Whether they are turns on the
order of the writes (R149), which the state does not record: it is free (log entry 74). -/
def L1Line.reread (l : L1Line) (off n v : Nat) (marked : Bool) : L1Line :=
  let m := byteMask off n &&& l.valid &&& ~~~l.dirty
  let covered := BitVec.ofNat 16 (coveredWords m.toNat)
  { l with
    data := mergeData l.data (BitVec.ofNat 512 (v * 2 ^ (8 * off))) m
    marks := if marked then l.marks ||| BitVec.ofNat 16 (touchedWords m.toNat) else l.marks &&& ~~~covered }
/-- A line of the core's L1 once an `stl` of its own has written bytes of it at the home slice (R122): its copy holds them clean. What
the words touched still owe goes with the bytes that are left (R120). -/
def L1Line.passed (l : L1Line) (off n v : Nat) (poison : Bool) : L1Line :=
  let m := byteMask off n
  let t := wordMask off n
  let left := l.dirty &&& ~~~m
  let words := BitVec.ofNat 16 (touchedWords left.toNat)
  let covered := BitVec.ofNat 16 (coveredWords m.toNat)
  { l with
    data := mergeData l.data (BitVec.ofNat 512 (v * 2 ^ (8 * off))) m, valid := l.valid ||| m, dirty := left
    sup := l.sup &&& left, overtaken := l.overtaken &&& left, fenced := l.fenced &&& left
    sets := l.sets &&& words, clears := if poison then l.clears &&& words &&& ~~~t else l.clears &&& words
    marks := if poison then l.marks ||| t else l.marks &&& ~~~covered }
/-- The words an `stl` marks and those it clears of their marks (R120): of a word it touches in part, with what the core's earlier stores
to that word have made of its mark, a mark at once and a clearing with the last of their bytes. -/
def L1Line.stlMarks (l : L1Line) (off n : Nat) (poison : Bool) : BitVec 16 × BitVec 16 :=
  let t := wordMask off n
  let covered := BitVec.ofNat 16 (coveredWords (byteMask off n).toNat)
  let words := BitVec.ofNat 16 (touchedWords (l.dirty &&& ~~~byteMask off n).toNat)
  if poison then (t, 0) else (l.sets &&& t &&& ~~~covered, covered ||| (l.clears &&& t &&& ~~~words))

/-- A load performed at the home slice (R123): the releasers' lines are flushed first (R151), and no line is written back for it (R135).
The core's own dirty bytes of the line stand over what the slice holds, but for those that another agent has written there since (R122,
R149). -/
def homeRead (ea : Word) (n : Nat) : M (Nat × Bool) := do
  let s ← get
  let c := s.cur
  let k := s.core c
  let line := ea.toNat / 64
  let off := ea.toNat % 64
  pageClear ea
  mergeOwnLine line
  settleLine line
  pageClear ea
  let s ← get
  guardLog (s.flushTags false k.task.part k.csrs.asid ea.toNat n (some c))
  let s ← get
  let _ ← fillHome (s.reqOf c true false false) ea
  let bad ← flitMet ea
  let s ← get
  match s.l2Get k.task.part k.csrs.asid line with
  | some x => do
    let blank := L1Line.blank k.csrs.asid line false
    let seen := { blank with data := x.data, marks := x.marks }
    match s.l1Get c line with
    | some own => do
      let own ← if own.updateOnly || (own.dirty &&& byteMask off n) = 0 then pure own else meetL1 own ea
      let l := seen.under own (own.dirty &&& ~~~own.overtaken)
      if !own.updateOnly && Config.renews s.stepNo then
        modify fun s => s.l1Set c own (some (own.reread off n (lineBytes x.data off n) ((x.marks &&& wordMask off n) != 0)))
      return (lineBytes l.data off n, bad || (l.marks &&& wordMask off n) != 0)
    | none => return (lineBytes seen.data off n, bad || (seen.marks &&& wordMask off n) != 0)
  | none => return (0, bad)

/-- The place of an address that is not cached: a tarn's (R115). -/
def State.uncached (s : State) (ea : Nat) : Option Nat := if inWindow ea then windowPlace (chipOf s.cur) ea else none

/-- An effect whose traps report the address of the whole access (R133, R212). -/
def reporting (ea : Word) (m : M α) : M α := fun s =>
  match m s with
  | .error (.trap c _) s1 => .error (.trap c ea) s1
  | r => r
/-- A load of checked bytes, at its tarn or through the L1; bytes of a scaled element may lie in two lines (R196). -/
def rawRead (ea : Word) (n : Nat) : M (Nat × Bool) := do
  match (← get).uncached ea.toNat with
  | some p => plainRead p n ea
  | none =>
    let k := 64 - ea.toNat % 64
    if n ≤ k then cachedRead ea n
    else do
      let x ← cachedRead ea k
      let y ← reporting ea (cachedRead (ea + w64 k) (n - k))
      return (x.1 + 2 ^ (8 * k) * y.1, x.2 || y.2)

/-! ## Stores -/

/-- Bytes written at a place for a core, as clean or poisoned data; the tags they meet are cleared or set (R151, R152). -/
def placeWrite (p n v : Nat) (poison : Bool) : M Unit := do
  modify fun s => (s.writePlace p n v poison).wrote s.cur true p n

/-- The class of a line a poisoned store or atomic needs (R121, R128), which a fill brings with the line. The core is held for it, so a
fault of its translation is met as a load meets one, and a page with an entry in the side log is waited for as by a load (R328, R330;
DEDUCED: log entry 75). -/
def classOf (ea : Word) : M Nat := do
  let s ← get
  let fill : M Nat := do
    if s.slogPage s.cur ea.toNat then freeze .sideLog
    fillHome (s.reqOf s.cur true false false) ea
  match s.l1Get s.cur (ea.toNat / 64) with
  | some l =>
    match l.cls with
    | some c => return c.toNat
    | none => fill
  | none => fill

/-- Check 7 of R117 on data: poisoned integer data into memory of class none. -/
def poisonCheck (ea : Word) (poison : Bool) : M Unit := do
  if !poison then pure ()
  else
    match (← get).uncached ea.toNat with
    | some _ => pure ()
    | none =>
      let c ← classOf ea
      if c = 2 then trap 0x0E ea else pure ()

/-- A line's bytes written in the L1 (R121): the words a poisoned store touches are marked, those a clean one covers lose their mark
(R120). -/
def L1Line.write (l : L1Line) (off n v : Nat) (poison sup fenced : Bool) : L1Line :=
  let m := byteMask off n
  let t := wordMask off n
  let covered := BitVec.ofNat 16 (coveredWords m.toNat)
  { l with
    data := mergeData l.data (BitVec.ofNat 512 (v * 2 ^ (8 * off))) m
    valid := l.valid ||| m
    dirty := l.dirty ||| m
    sup := if sup then l.sup ||| m else l.sup &&& ~~~m
    overtaken := l.overtaken &&& ~~~m
    fenced := if fenced then l.fenced ||| m else l.fenced &&& ~~~m
    marks := if poison then l.marks ||| t else l.marks &&& ~~~covered
    sets := if poison then l.sets ||| t else l.sets &&& ~~~covered
    clears := if poison then l.clears &&& ~~~t else l.clears ||| covered }

/-- A cached store (R121): into the L1 with a dirty bit per byte, without a fetch of a line it does not hold. Memory of class none has
no marks (R120, R211). -/
def cachedWrite (ea : Word) (n v : Nat) (poison : Bool) : M Unit := do
  let line := ea.toNat / 64
  mergeOwnLine line
  let l ← if poison then
      match (← get).l1Get (← me) line with
      | some l => if l.cls.isSome then pure l else fillL1 ea
      | none => fillL1 ea
    else do
      let s ← get
      match s.l1Get s.cur line with
      | some l => pure l
      | none => pure (L1Line.blank (s.core s.cur).csrs.asid line false)
  let s ← get
  let k := s.core s.cur
  guardLog (s.l1Insert s.cur (l.write (ea.toNat % 64) n v (poison && l.cls != some 2) (k.level == .supervisor) k.fenceTag.isSome))

/-- A store of checked bytes; those of a scaled element may lie in two lines (R196). -/
def rawWrite (ea : Word) (n v : Nat) (poison : Bool) : M Unit := do
  match (← get).uncached ea.toNat with
  | some p => placeWrite p n v poison
  | none =>
    let k := 64 - ea.toNat % 64
    if n ≤ k then cachedWrite ea n v poison
    else do
      cachedWrite ea k (v % 2 ^ (8 * k)) poison
      cachedWrite (ea + w64 k) (n - k) (v / 2 ^ (8 * k)) poison

/-- The logged stores of a pair's leader performed in program order (R315). -/
def drainLog (l : List Logged) : M Unit :=
  match l with
  | [] => pure ()
  | e :: rest => do
    rawWrite e.ea e.size e.data.toNat e.poison
    drainLog rest

/-- A load of checked bytes by some path; a pair's leader sees its logged stores (R315). -/
def seeLog (m : M (Nat × Bool)) : M (Nat × Bool) := do
  let r ← m
  let k ← getC
  if k.group.pair == .leader && !k.group.storeLog.isEmpty then
    match (do drainLog k.group.storeLog; m : M (Nat × Bool)) (← get) with
    | .ok v _ => return v
    | .error _ _ => return r
  else return r
/-- A value read outside the core, shared with a pair's follower (R313). -/
def sharedRead (m : M (Nat × Bool)) : M (Nat × Bool) := do
  let r ← shared do
    let v ← seeLog m
    return (v.1, v.2.toNat)
  return (r.1, r.2 != 0)

/-- The address and data of a store go into a pair's fingerprint (R314). -/
def recordStore (ea : Word) (v : Nat) : M Unit :=
  modC fun k => { k with group := { k.group with print := Config.fingerprint k.group.print [ea.toNat, v] } }
/-- A plain store of checked bytes; a pair's leader logs it, its follower performs nothing (R315). -/
def storeMem (ea : Word) (n v : Nat) (poison : Bool) : M Unit := do
  if ← follows then recordStore ea v
  else if ← leads then do
    let k ← getC
    if k.group.storeLog.length ≥ 256 then freeze .checkpoint
    recordStore ea v
    modC fun k => { k with group := { k.group with
      storeLog := k.group.storeLog ++ [{ ea := ea, size := n, data := w64 v, poison := poison }] } }
    -- the entry's 16 bytes in the follower's area 1 (log entry 83)
    let p := sharePlace k.group.partner (0x7000 + 16 * k.group.storeLog.length)
    let head := ea.toNat % 2 ^ 57 + 2 ^ 57 * n.log2 + (if poison then 2 ^ 63 else 0)
    modify fun s => (s.writeClean p 8 head).writeClean (p + 8) 8 v
  else rawWrite ea n v poison

/-- A command that an `stl.d.sys` of a core to a command word starts (R142, R278, R305, R320, R333): it is handled in a turn of its own. -/
def State.startCmd (s : State) (part word c : Nat) (i : Instr) : State :=
  let s1 := s.modPart part fun q => { q with pendingCmds := q.pendingCmds ++ [(word, c)] }
  { s1 with turns := s1.turns ++ [.unit i] }
/-- A command word's command handled, with an acquire at `.sys` of the release that started it (R151, R320): nothing where no `stl.d.sys`
has started one. -/
def State.takeCmd (s : State) (part word : Nat) (f : State → State) : State :=
  match findFirst (fun e => e.1 == word) (s.part part).pendingCmds with
  | none => s
  | some e =>
    f ((s.flushRecorded e.2).1.modPart part fun q => { q with pendingCmds := dropFirst (fun x => x == e) q.pendingCmds })

/-- The command that a supervisor's `stl.d.sys` of a value to a command word of a partition starts, with its word: of the control pages
(R142, R305, R320, R333), or doubleword 0 of the handle table (R278). -/
def State.commandAt (s : State) (part : Nat) (asid : BitVec 16) (ea v : Nat) : Option (Nat × Instr) :=
  let cmd := v / 2 ^ 60
  let htab := s.bytes (ctlPlace part 0x1208) 8
  if inControl ea then
    match ea % 8192 with
    | 0x800 => if v = 0 then none else some (0x800, .rangeTableCommit part)
    | 0x810 => some (0x810, .setClass part)
    | 0x840 => some (0x840, if cmd = 2 then .edit part else .probe part)
    | 0x880 => some (0x880, match cmd with
      | 2 => .invalidate part
      | 3 => .clean part
      | 4 => .migrate part
      | 5 => .answer part
      | _ => .setRoot part)
    | _ => none
  else if htab != 0 && ea == htab % 2 ^ 57 then
    some (0x1208, match cmd with
      | 2 => .revoke part asid
      | 3 => .forcedRevoke part asid
      | _ => .register part asid)
  else none

/-- A release store performed at its home slice or tarn, tagged with its releaser (R124); one to a command word starts its command. -/
def releaseStore (ea : Word) (n v : Nat) (poison : Bool) (sc : Scope) : M Unit := do
  let s ← get
  let c := s.cur
  let k := s.core c
  match s.uncached ea.toNat with
  | some p => modify fun s => (s.writePlace p n v poison).tag true 0 0 p n { core := c, scope := sc }
  | none => do
    let line := ea.toNat / 64
    let off := ea.toNat % 64
    mergeOwnLine line
    let s ← get
    let rel : Rel := { core := c, scope := sc }
    let own := (s.l1Get c line).getD (L1Line.blank k.csrs.asid line false)
    let marks := own.stlMarks off n poison
    let w : WriteBack := { core := c, part := k.task.part, asid := k.csrs.asid, line := line, mask := byteMask off n,
                           data := BitVec.ofNat 512 (v * 2 ^ (8 * off)), marks := marks.1, clears := marks.2, level := k.level,
                           recorded := false, tagged := byteMask off n, rel := some rel, drop := 0 }
    guardLog (s.sendHome w)
    modify fun s => s.modLine c k.csrs.asid line fun l => if l.updateOnly then l else l.passed off n v poison
    if sc == .sys && n == 8 && k.level == .supervisor then
      match s.commandAt k.task.part k.csrs.asid ea.toNat v with
      | some x => modify fun s => s.startCmd k.task.part x.1 c x.2
      | none => pure ()

/-! ## Atomics (R126-R129) -/

/-- An atomic performed at a place: old value and poison. -/
def placeAtomic (p op f b : Nat) (bp : Bool) (d : Nat) (ea : Word) : M (Nat × Bool) := do
  let n := atomicSize f
  let s ← get
  guardLog (s.flushTags true 0 0 p n (some s.cur))
  let c ← placeRead p n ea
  let r := atomicResult op f c.1 c.2 b bp d
  match r.1 with
  | some (v, q) => placeWrite p n v q
  | none => pure ()
  return (c.1, r.2)

/-- The core's own copy of a line given up before an atomic leaves for the home slice (R128), in program order (R122). -/
def giveUpLine (line : Nat) : M Unit := do
  mergeOwnLine line
  cleanLine line
  let s ← get
  match s.l1Get s.cur line with
  | some l => set (s.l1Set s.cur l none)
  | none => pure ()
  settleLine line

/-- A returning atomic (R128): old value and poison. -/
def atomicReturn (ea : Word) (op f b : Nat) (bp : Bool) (d : Nat) : M (Nat × Bool) := do
  let s ← get
  let c := s.cur
  match s.uncached ea.toNat with
  | some p => placeAtomic p op f b bp d ea
  | none => do
    pageClear ea
    let line := ea.toNat / 64
    giveUpLine line
    pageClear ea
    let s ← get
    let k := s.core c
    guardLog (s.flushTags false k.task.part k.csrs.asid ea.toNat (atomicSize f) (some c))
    let s ← get
    let cls ← fillHome (s.reqOf c true true false) ea
    if bp && !atomicFloat op && cls = 2 then trap 0x0E ea
    let s ← get
    match s.l2Get k.task.part k.csrs.asid line with
    | some x => do
      let r := s.atomicLine x (ea.toNat % 64) op f b bp d
      set (r.1.atomicDone c k.csrs.asid ea.toNat (atomicSize f) (s.fenceRel c))
      return r.2
    | none => return (0, false)

/-- A no-return atomic performed at its home place (R128, R129). -/
def atomicAway (ea : Word) (op f b : Nat) (bp : Bool) (d : Nat) : M Unit := do
  let s ← get
  let c := s.cur
  match s.uncached ea.toNat with
  | some p => do
    let _ ← placeAtomic p op f b bp d ea
  | none => do
    let line := ea.toNat / 64
    giveUpLine line
    if bp || atomicPattern op b then
      -- check 7 of R117: a poisoned operand holds the core until its atomic is performed (R129), as a returning one does (log entry 75)
      pageClear ea
      let cls ← fillHome (s.reqOf c true true false) ea
      if bp && cls = 2 && !atomicFloat op then trap 0x0E ea
    let s ← get
    let k := s.core c
    if s.slogPage c ea.toNat then pure ()
    else guardLog (s.flushTags false k.task.part k.csrs.asid ea.toNat (atomicSize f) (some c))
    let s ← get
    guardLog (s.atomicHome c k.level k.csrs.asid ea.toNat op f b bp d (s.fenceRel c))

/-- A reduction folded into an update-only line (R129): with the partial of the same operation and width, or as a new partial.
Nothing where another operation or width holds a byte of the element, which makes the line merge first. -/
def foldPart (off size op fn : Nat) (b : Word) (user : Bool) : List Partial → Option (List Partial)
  | [] => some [{ off := off, size := size, op := op, fn := fn, value := b, user := user }]
  | p :: rest =>
    if p.off = off && p.size = size && p.op = op && p.fn = fn then
      some ({ p with value := w64 ((atomicNew op fn p.value.toNat b.toNat 0).getD 0), user := p.user || user } :: rest)
    else if p.off < off + size && off < p.off + p.size then none
    else (foldPart off size op fn b user rest).map (p :: ·)

/-- A no-return reduction (R129): into an update-only line of the core's L1, or where a returning atomic is performed. -/
def reduce (ea : Word) (op f : Nat) (b : Word) (bp : Bool) : M Unit := do
  let s ← get
  let c := s.cur
  let line := ea.toNat / 64
  let off := ea.toNat % 64
  let size := atomicSize f
  let away := (s.uncached ea.toNat).isSome || bp || atomicPattern op b.toNat ||
    match s.l1Get c line with
    | some l => !l.updateOnly
    | none => false
  if away then atomicAway ea op f b.toNat bp 0
  else
    let v : Word := w64 (b.toNat % 2 ^ (8 * size))
    let blank := L1Line.blank (s.core c).csrs.asid line true
    let l := (s.l1Get c line).getD blank
    let user := (s.core c).level == .user
    match foldPart off size op f v user l.parts with
    | some ps => guardLog (s.l1Insert c { l with parts := ps, valid := l.valid ||| byteMask off size })
    | none => do
      guardLog (s.mergeLine c l)
      let s ← get
      guardLog (s.l1Insert c { blank with
        valid := byteMask off size, parts := [{ off := off, size := size, op := op, fn := f, value := v, user := user }] })

/-! ## Landing rings (R38-R40, R258) -/

/-- A ring registered in the tarn of a place for the core's launch, whose data range holds it: the ring and the slot. -/
def State.ringSlot (s : State) (t : Task) (p : Nat) : Option (Ring × Nat) :=
  match findFirst (fun r => r.part == t.part && r.queue == t.queue && r.seq == t.seq &&
      decide (r.base + 8 * r.slots ≤ p) && decide (p < r.base + 8 * r.slots + r.slots * r.size)) s.rings with
  | some r => some (r, (p - r.base - 8 * r.slots) / r.size)
  | none => none

/-- The tag check of a tag-checking load (R40, R119): `seq` is the expected sequence number. Data under a released packet's tag makes
the load an acquire (R174). A marked tag decides nothing: the load traps, with its own address (R310; DEDUCED: log entry 76). -/
def tagCheck (ea seq : Word) : M Unit := do
  let s ← get
  let k := s.core s.cur
  let none_ : M Unit := trap 0x0C (BitVec.allOnes 64)
  if !inWindow ea.toNat then none_
  else match windowPlace (chipOf s.cur) ea.toNat with
    | none => none_
    | some p =>
      match s.ringSlot k.task p with
      | none => none_
      | some (r, i) => do
        let tag := s.bytes (r.base + 8 * i) 8
        require (!s.anyMarked (r.base + 8 * i) 8) 0x0E ea
        if tag = seq.toNat then
          (s.relsOf true 0 0 (r.base + 8 * i) 8).forM fun rel => acquireFrom rel.scope rel
        else if s.landings.any (fun l => l.2.1 == r.base + 8 * i && l.2.2 == seq) then freeze .engine
        else trap 0x0C (w64 tag)

end Sys2Proof.Machine
end

