-- ==== Sys2Proof/Machine/Issue.lean ====
section
/-!
DEFINITION. What is around the meaning of an instruction when it issues on the core that moves: the interlocks (R33, R76), the checks
before issue in their order (R78), the charge (R32), the guard (R54), the effect, and then the next address with the loop's end
check (R99) and the repeat frame (R100), the clocks (R30, R75), and the forwarded stream (R41, R313).
-/
namespace Sys2Proof.Machine

/-- Where control goes after an instruction: to the next word; to a target of a taken transfer (R75, R99); to another address without
one; nowhere yet (the core waits at the instruction); already set; already set by an `eret` (R75); or into the handler after the
instruction (R104). -/
inductive Flow where
  | seq
  | taken (t : Word)
  | skip (t : Word)
  | hold
  | left
  | back
  | after (cause : Nat) (xval : Word)
  deriving DecidableEq, Repr

/-- What an instruction's meaning answers: where control goes, and the latency of its target where that depends on it (R74). -/
structure Done where
  flow : Flow
  lat : Nat
  deriving DecidableEq, Repr

/-- A meaning that goes on with the next word. -/
def next : Done := { flow := .seq, lat := 1 }
/-- The same with a latency of its own. -/
def nextIn (l : Nat) : Done := { flow := .seq, lat := l }

/-! ## Followers (R41, R43) -/

/-- The core executes a forwarded stream in place of fetching. -/
def Core.streams (k : Core) : Bool :=
  k.level == .user && (k.group.fwd == .follower || k.group.pair == .follower)
/-- The core has an instruction to issue: its task runs, it waits for nothing, and a follower's stream is not empty. -/
def Core.runs (k : Core) : Bool :=
  k.run == .running && k.wait == .none && (!k.streams || !k.group.stream.isEmpty)
/-- A follower at its next forwarded instruction: its address and the values its leader read. -/
def Core.atStream (k : Core) : Core :=
  if k.streams then
    match k.group.stream with
    | e :: _ => { k with pc := e.pc, group := { k.group with fed := e.fed } }
    | [] => k
  else k
/-- The guard an instruction issues under (R43, R54): value and whether it is poisoned. -/
def Core.guardFor (k : Core) (i : Instr) : Bool × Bool :=
  let own := (k.regs.guard (guardOf i), k.regs.guardPoison (guardOf i))
  if k.streams && leaderGuarded i then
    match k.group.stream with
    | e :: _ => (e.guard, false)
    | [] => own
  else own

/-! ## Interlocks and clocks (R30, R33, R76) -/

/-- Core cycles pass at the core's level: at user level they count in `TASKCLK` (R30). -/
def Core.tick (k : Core) (n : Nat) : Core :=
  { k with
    cyc := k.cyc + n
    csrs := if k.level == .user then { k.csrs with taskclk := k.csrs.taskclk + w64 n } else k.csrs }
/-- The cycle a scoreboard entry is ready. -/
def Core.readyAt (k : Core) (r : Nat) : Nat := (find k.ready r).getD 0
/-- The vector registers that an `mmst.v` of the core still has to deliver, those issued at a level that the core's present one waits
for: at user level all, at supervisor level those issued there (DESIGN CHOICE: log entry 90). -/
def Core.awaited (k : Core) : List VReg :=
  let sees (sup : Bool) : Bool := k.level == .user || sup
  (k.matq.filterMap fun x => match x.work with
    | .tile d => if d.store && sees (x.issuer.level == .supervisor) then d.vreg else none
    | _ => none) ++
  match k.late with
  | some r => if sees r.sup then [r.reg] else []
  | none => []
/-- The cycle from which the freeze line stands for a late result: the nominal latency of its `mmst.v` has run out (R33, R246). -/
def Core.lateFrom (k : Core) : Option Nat :=
  (k.awaited.map fun v => k.readyAt (rV v)).foldl (fun m n => match m with
    | some x => some (Nat.min x n)
    | none => some n) none
/-- The interlock: the core waits for every register the instruction reads (R33), but no longer than up to the freeze for a late
result. -/
def Core.interlock (k : Core) (i : Instr) : Core :=
  let g := guardOf i
  let need := (if g = 0 then sources i else rG g :: sources i).foldl (fun m r => Nat.max m (k.readyAt r)) 0
  let need := match k.lateFrom with
    | some n => Nat.min need n
    | none => need
  if need > k.cyc then k.tick (need - k.cyc) else k
/-- The freeze line stands for a late vector result (R33, R246). -/
def Core.lateNow (k : Core) : Bool :=
  match k.lateFrom with
  | some n => decide (n ≤ k.cyc)
  | none => false
/-- The core after an instruction that has written vector registers: of those that an earlier `mmst.v` still has to deliver, the later
value stays (R33). A later `mmst.v` delivers after it anyway. -/
def Core.overwrite (k : Core) (i : Instr) : Core :=
  let hit (v : VReg) : Bool := (targets i).contains (rV v)
  let late := match i with
    | .mmstV .. => true
    | _ => false
  if late then k
  else { k with
    matq := k.matq.map fun x => match x.work with
      | .tile d => match d.vreg with
        | some v => if d.store && hit v then { x with work := .tile { d with void := true } } else x
        | none => x
      | _ => x
    late := k.late.map fun r => if hit r.reg then { r with void := true } else r }
/-- The results of an instruction issued in this cycle are ready after its latency, and not before those of an earlier instruction that
still writes the same register or flags (R33, R106); the vector datapath is held (R76). -/
def Core.book (k : Core) (i : Instr) (lat : Nat) : Core :=
  let l := latencyOf i lat
  let r1 := (targets i).foldl (fun m r => put m r (Nat.max (k.readyAt r) (k.cyc + l))) k.ready
  { k with ready := if pathCycles i = 0 then r1 else put r1 rPath (k.cyc + pathCycles i) }

/-! ## The repeat frame (R100, R101, R108) -/

/-- `FRM.ACT`. -/
def frmAct (f : Word) : Bool := f.getLsbD 63
/-- `FRM.POS`. -/
def frmPos (f : Word) : Nat := bits f.toNat 44 4
/-- `FRM.RUN`. -/
def frmRun (f : Word) : Nat := bits f.toNat 32 6
/-- The number of executions, 0 in N standing for 64. -/
def frmCount (f : Word) : Nat := if bits f.toNat 16 6 = 0 then 64 else bits f.toNat 16 6
/-- Instructions of the block. -/
def frmLen (f : Word) : Nat := bits f.toNat 12 4 + 1
/-- `FRM` with POS and RUN set. -/
def frmSet (f : Word) (pos run : Nat) : Word :=
  (f &&& 0x80000000003FFFFF) ||| w64 (pos * 2 ^ 44 + run * 2 ^ 32)
/-- A frame is open at the core's level. -/
def Core.inFrame (k : Core) : Bool := k.frameOn && frmAct k.csrs.frm
/-- A loop is active at the core's level. -/
def Core.inLoop (k : Core) : Bool := k.loopOn && k.csrs.lcnt != 0
/-- The frame closed. -/
def Core.closeFrame (k : Core) : Core := { k with csrs := { k.csrs with frm := 0 } }
/-- Bytes of the block in memory. -/
def Core.blockSize (k : Core) : Nat :=
  (List.range (frmLen k.csrs.frm)).foldl (fun n i =>
    n + if (k.frame.toArray.getD i { word := 0, pfx := none }).pfx.isSome then 8 else 4) 0
/-- The prefix word of an instruction. -/
def prefixOf (i : Instr) : Option Word32 :=
  match i with
  | .vectorPrefix .. => some i.word
  | _ => none

/-! ## Sequential flow (R99, R100) -/

/-- The loop's end check at a next sequential address (R99). -/
def Core.endCheck (k : Core) (nxt : Word) : Core :=
  if k.inLoop && nxt == k.csrs.lend then
    if BitVec.ult 1 k.csrs.lcnt then { k with csrs := { k.csrs with lcnt := k.csrs.lcnt - 1 }, pc := k.csrs.lbeg }
    else { k with csrs := { k.csrs with lcnt := 0 }, pc := nxt }
  else { k with pc := nxt }

/-- The core past an instruction in sequence: capture and replay of an open frame (R100), else the loop's end check, which an open
frame suspends (R101). -/
def Core.advance (k : Core) (i : Instr) : Core :=
  let nxt := k.pc + w64 (4 * wordsIn i)
  let f := k.csrs.frm
  if k.inFrame then
    let k1 := if frmRun f = 0 then { k with frame := k.frame.setIfInBounds (frmPos f) { word := mainWord i, pfx := prefixOf i } } else k
    if frmPos f + 1 < frmLen f then { k1 with csrs := { k1.csrs with frm := frmSet f (frmPos f + 1) (frmRun f) }, pc := nxt }
    else if frmRun f + 1 < frmCount f then
      { k1 with csrs := { k1.csrs with frm := frmSet f 0 (frmRun f + 1) }, pc := nxt - w64 k1.blockSize }
    else k1.closeFrame.endCheck nxt
  else k.endCheck nxt

/-- A taken transfer: a target outside the loop's body ends the loop (R99). -/
def Core.transfer (k : Core) (t : Word) : Core :=
  let k1 := if k.inLoop && (t.ult k.csrs.lbeg || !t.ult k.csrs.lend) then { k with csrs := { k.csrs with lcnt := 0 } } else k
  { k1 with pc := t }

/-! ## Checks before issue (R78) -/

/-- A captured word that cannot be captured, or that stands at or beyond the loop's end: the fault closes the frame (R101, R347). -/
def Core.captureFault (k : Core) (i : Instr) : Bool :=
  !k.streams && k.inFrame && (!captured i || (k.inLoop && !k.pc.ult k.csrs.lend))
/-- An instruction that runs from a word inside the loop's body past its end (R99). -/
def Core.overrun (k : Core) (i : Instr) : Bool :=
  !k.streams && k.inLoop && !k.pc.ult k.csrs.lbeg && k.pc.ult k.csrs.lend && k.csrs.lend.ult (k.pc + w64 (4 * wordsIn i))

/-- The user's open packet that holds 64 issued instructions (R48). -/
def Core.longPacket (k : Core) : Option (Nat × Word) :=
  (List.range 4).foldl (fun r q =>
    match r, k.outq.toArray.getD q none with
    | none, some o => if !o.bySup && o.count ≥ 64 then some (q, o.addr) else none
    | r, _ => r) none

/-- The core without the open packet of a queue. -/
def Core.dropPacket (k : Core) (q : Nat) : Core := { k with outq := k.outq.setIfInBounds q none }

/-- What stops an instruction before it issues: checks 2 to 6 of R78, and the frame faults, one of which closes the frame. -/
inductive Before where
  | go
  | trap (cause : Nat) (xval : Word)
  | packet (q : Nat) (xval : Word)
  | frame (cause : Nat) (xval : Word)
  deriving DecidableEq, Repr

/-- The checks before issue, in their order (R78). The frame faults of R99 and R101, whose place R78 does not give, come after check 6,
whatever the guard's value, and charge nothing (DESIGN CHOICE: log entry 72). -/
def Core.before (k : Core) (i : Instr) : Before :=
  let user := k.level == .user
  if user && k.csrs.budget = 0 then .trap 0x0A 0
  else match (if user then k.longPacket else none) with
  | some (q, a) => .packet q a
  | none =>
    match i, illegalNow i k with
    | .illegalWord w, _ => .trap 0x01 (w.setWidth 64)
    | _, some (c, v) => .trap c v
    | _, none =>
      if privilegeNow i k.level then .trap 0x02 (i.word.setWidth 64)
      else if (k.guardFor i).2 then .trap 0x0E (w64 (guardOf i))
      else if k.captureFault i then .frame 0x14 ((mainWord i).setWidth 64)
      else if k.overrun i then .trap 0x14 0
      else .go

/-! ## The charge (R32, R48, R363, R371) -/

/-- An instruction charged at user level: `BUDGET`, the time slice, the open packets' count, the pair's checkpoint count, energy. -/
def Core.charge (k : Core) (i : Instr) : Core :=
  if k.level == .user then
    let op := opNum i
    { k with
      csrs := { k.csrs with budget := k.csrs.budget - 1 }
      slice := k.slice + 1
      outq := k.outq.map fun o => o.map fun p => if p.bySup then p else { p with count := p.count + 1 }
      group := { k.group with sinceCheck := k.group.sinceCheck + 1 }
      energy := k.energy + 15 + if 0x5C ≤ op && op ≤ 0x70 then 120 else 0 }
  else k

/-! ## Stops -/

/-- The core as an instruction that stopped found it, with what stays of the attempt: errors counted, pending causes, page requests,
the side log, elements accessed (R214). -/
def Core.rewind (old new : Core) : Core :=
  { old with
    csrs := { old.csrs with ebud := new.csrs.ebud }
    pend := new.pend, pages := new.pages, slog := new.slog, loss := new.loss, energy := new.energy
    matq := new.matq, thrq := new.thrq, chan := new.chan, partway := new.partway }

/-- A core without the energy its instruction was charged: a freeze charges nothing (R32, R371). -/
def Core.refund (new before charged : Core) : Core := { new with energy := new.energy - (charged.energy - before.energy) }

/-- The core that moves put into a freeze at its instruction; the cycle it began stays (R34). -/
def State.frozen (s : State) (old : Core) (kind : FreezeKind) : State :=
  let since := match old.freeze with
    | some f => if f.kind = kind && f.pc = old.pc then f.since else s.fabric
    | none => s.fabric
  let fz : Freeze := { kind := kind, pc := old.pc, since := since }
  s.modCore s.cur fun new => { (old.rewind new) with freeze := some fz }

/-- A pair's leader has something its next checkpoint would compare or drain (R314, R315). -/
def Core.unchecked (k : Core) (partner : Core) : Bool :=
  decide (k.group.sinceCheck > 0) || !k.group.storeLog.isEmpty || !partner.group.stream.isEmpty
/-- A pair's leader must take a checkpoint before this instruction (R314). -/
def State.needsCheck (s : State) (i : Instr) (on : Bool) : Bool :=
  let k := s.core s.cur
  k.group.pair == .leader && k.level == .user &&
    (decide (k.group.sinceCheck ≥ 1024) || decide (k.group.storeLog.length ≥ 256) ||
     (k.group.sinceCheck == 0 && !k.group.storeLog.isEmpty) ||
     (on && leavesPair i && k.unchecked (s.core k.group.partner)))

/-! ## The forwarded stream (R41, R43, R313) -/

/-- The instruction as it stands in the forwarded stream. -/
def forwarded (k : Core) (i : Instr) (pc : Word) (on : Bool) (fed : List (Nat × Nat)) : Forwarded :=
  { word := i.word, next := i.second?.getD 0, pc := pc, guard := on, fed := fed,
    lcnt := k.csrs.lcnt, lbeg := k.csrs.lbeg, lend := k.csrs.lend, frm := k.csrs.frm }
/-- The stream already holds the `fwd.rel` that releases the follower (R44). -/
def Core.releasing (k : Core) : Bool :=
  k.group.stream.any fun e => match decodePair e.word e.next with
    | some (.fwdRel _) => e.guard
    | _ => false

/-- An instruction a leader issued put into its followers' streams. -/
def State.forward (s : State) (old : Core) (e : Forwarded) : State :=
  let s1 := if old.group.fwd == .leader then
      (old.rowFollowers s.cur).foldl (fun st f =>
        st.modCore f fun q => if q.group.fwd == .follower && !q.releasing
          then { q with group := { q.group with stream := q.group.stream ++ [e] } } else q) s
    else s
  if old.group.pair == .leader then
    s1.modCore old.group.partner fun q => if q.group.pair == .follower
      then { q with group := { q.group with stream := q.group.stream ++ [e] } } else q
  else s1

/-- A follower past the first entry of its stream, with its leader's loop and frame registers; where its leader's task has ended and the
stream is at its end, it fetches for itself (R46). -/
def Core.pastEntry (k : Core) (e : Forwarded) (rest : List Forwarded) : Core :=
  let k1 : Core := { k with
    csrs := { k.csrs with lcnt := e.lcnt, lbeg := e.lbeg, lend := e.lend, frm := e.frm }
    group := { k.group with stream := if k.streams then rest else [], fed := [] } }
  match k1.group.leaveAt with
  | some pc => if k1.group.stream.isEmpty then k1.released pc else k1
  | none => k1
/-- The end of an instruction on the core that moves: a user-level leader forwards it, a follower takes it from its stream; one that
leads a pair forwards what it executes in its row, too. -/
def State.passOn (s : State) (i : Instr) (old : Core) (on : Bool) : State :=
  let k := s.core s.cur
  let s1 := if old.streams then
      s.modCore s.cur fun k =>
        match old.group.stream with
        | e :: rest => k.pastEntry e rest
        | [] => k
    else s
  if old.level == .user && ((old.group.fwd == .leader && !old.streams) || old.group.pair == .leader) then
    (s1.forward old (forwarded k i old.pc on k.group.fed)).modCore s.cur fun k => { k with group := { k.group with fed := [] } }
  else s1

/-- A pair's follower charged an instruction that both cores of the pair issue and its leader performs: `BUDGET` and the issue cycle. -/
def State.chargeFollower (s : State) (c : Nat) (i : Instr) : State :=
  s.modCore c fun q => { (q.charge i).tick 1 with group := q.group }
/-- Both cores of a pair issue the instruction its leader traps on (R322): `BUDGET` and the issue cycle are charged on the follower as
well. The checkpoint before the trap is the last one (R314). -/
def State.chargePair (s : State) (i : Instr) (old : Core) : State :=
  if old.group.pair == .leader && old.level == .user && (s.core s.cur).csrs.budget != old.csrs.budget then
    (s.chargeFollower old.group.partner i).modCore s.cur fun k =>
      { k with group := { k.group with sinceCheck := old.group.sinceCheck } }
  else s
/-- A synchronous trap at the instruction of the core that moves. A pair's leader takes a checkpoint before it (R314); its follower
runs no handler (R316), so what it alone would trap on passes it. -/
def State.trapAt (s : State) (i : Instr) (old : Core) (cause : Nat) (xval : Word) : State :=
  let k := s.core s.cur
  if k.group.pair == .leader && k.level == .user && cause != 0x18 && old.unchecked (s.core k.group.partner)
  then s.frozen old .checkpoint
  else if old.streams && k.group.pair == .follower then s.passOn i old false
  else (s.chargePair i old).enterTrap s.cur cause xval k.pc

/-! ## Fingerprints (R314) -/

/-- The value of a register by its number on the scoreboard. -/
def Regs.byNumber (r : Regs) (n : Nat) : Nat :=
  if n < 64 then (r.scalar n).toNat
  else if n < 72 then (r.guard (n - 64)).toNat
  else if n < 88 then (r.vec (BitVec.ofNat 4 (n - 72))).toNat
  else (r.mask (BitVec.ofNat 3 (n - 88))).toNat
/-- The control registers an instruction writes, by address. -/
def csrTargets (i : Instr) : List Nat :=
  match i with
  | .csrw _ _ n | .csrx _ _ _ n => [n.toNat]
  | .loop _ _ _ => [0x018, 0x019, 0x01A]
  | .rpt _ _ _ _ _ _ => [0x01B]
  | .rng _ _ _ | .rngJump _ _ => [0x00A, 0x00B]
  | _ => if (targets i).contains rFlags then [0x004] else []
/-- The value of a control register that a user-level instruction can write. -/
def Csrs.byAddress (x : Csrs) (n : Nat) : Nat :=
  match n with
  | 0x002 => x.shape.toNat
  | 0x003 => x.fpctl.toNat
  | 0x004 => x.fpflags.toNat
  | 0x005 => x.b8fmt.toNat
  | 0x00A => x.rngs0.toNat
  | 0x00B => x.rngs1.toNat
  | 0x018 => x.lcnt.toNat
  | 0x019 => x.lbeg.toNat
  | 0x01A => x.lend.toNat
  | 0x01B => x.frm.toNat
  | _ => 0
/-- A pair's core has retired an instruction: the number and new value of every register it wrote enter its fingerprint, control
registers after the others. -/
def Core.retire (k : Core) (i : Instr) : Core :=
  if k.group.pair == .none then k
  else
    let l := (((targets i).filter fun n => decide (n < 96)).map fun n => [n, k.regs.byNumber n]) ++
      (csrTargets i).map fun n => [96 + n, k.csrs.byAddress n]
    { k with group := { k.group with print := Config.fingerprint k.group.print l.flatten } }

/-- After an instruction whose effect leaves the pair, the core's registers are the new checkpoint (R315 step 3). -/
def Core.recordAfter (k old : Core) : Core :=
  if k.group.pair == .none || k.group.pair != old.group.pair then k
  else
    let g := { k.group with sinceCheck := 0, print := 0, popped := [], woke := false }
    { k with group := { g with saved := some k.checkpoint } }

/-! ## Issue -/

/-- The end of an instruction that took effect (or was guarded off): results booked, the clocks, the next address, the stream. A `trap`
that is the last word of a loop body leaves the body before its end check: `LCNT` stays and `XPC` is the address behind it (R99, R104;
DESIGN CHOICE: log entry 87). -/
def State.finish (s : State) (i : Instr) (old : Core) (on : Bool) (d : Done) : State :=
  let c := s.cur
  let user := old.level == .user
  let tick1 (k : Core) : Core :=
    { k with cyc := k.cyc + 1, csrs := if user then { k.csrs with taskclk := k.csrs.taskclk + 1 } else k.csrs }
  let s1 := s.modCore c fun k0 =>
    let k := if user && on then k0.retire i else k0
    let k := if on && !old.awaited.isEmpty then k.overwrite i else k
    let k1 := tick1 (if on then { k with cyc := old.cyc }.book i d.lat else k)
    match d.flow with
    | .seq => { k1.advance i with freeze := none }
    | .taken t => { (k1.transfer t).tick 2 with freeze := none }
    | .skip t => { k1 with pc := t, freeze := none }
    | .hold => { k1 with freeze := none }
    | .left => { k1 with freeze := none }
    | .back => { (k1.tick 3) with freeze := none }
    | .after _ _ => { k1 with freeze := none }
  let s2 := (s1.passOn i old on).modCore c fun k => if user && on && leavesPair i then k.recordAfter old else k
  match d.flow with
  | .after cause xval => s2.enterTrap c cause xval (old.pc + 4)
  | _ => s2

/-- One instruction on the core that moves, `body` being its effect when its guard is 1. A core without an instruction to issue
stays as it is. -/
def State.issueAt (s : State) (i : Instr) (body : M Done) : State :=
  let c := s.cur
  let k := s.core c
  if !k.runs then s
  else
    let k1 := (k.atStream).interlock i
    let s1 := s.setCore c k1
    if k1.lateNow then s.frozen k1 .engine
    else match k1.before i with
    | .trap cause xval => s1.trapAt i k1 cause xval
    | .frame cause xval => (s1.modCore c Core.closeFrame).trapAt i k1 cause xval
    | .packet q xval => (s1.modCore c fun k => k.dropPacket q).trapAt i k1 0x15 xval
    | .go =>
      let on := (k1.guardFor i).1
      if s1.needsCheck i on then s1.frozen k1 .checkpoint
      else
        let k2 := k1.charge i
        let s2 := s1.setCore c k2
        if !on then s2.finish i k1 false next
        else match body s2 with
          | .ok d s3 => s3.finish i k1 true d
          | .error (.freeze kind) s3 => (s3.modCore c fun new => new.refund k1 k2).frozen k1 kind
          | .error (.trap cause xval) s3 => (s3.modCore c fun new => (k2.rewind new).tick 1).trapAt i k1 cause xval
          | .error (.packet q xval) s3 => (s3.modCore c fun new => ((k2.rewind new).dropPacket q).tick 1).trapAt i k1 0x15 xval

/-- The meaning of an instruction with a given effect: it always answers a next state. -/
def issue (i : Instr) (body : M Done) (s : State) : Host.Outcome State Fault Refusal := .next (s.issueAt i body)

end Sys2Proof.Machine
end

