-- ==== Sys2Proof/Machine/Fetch.lean ====
section
/-!
DEFINITION. Fetching the next instruction of the core that moves: from cached memory through the L2 level (R98, R328), from the
frame buffer with its staggers (R68, R100, R210, R347), or from the forwarded stream (R41); and what a row or pair that is held
together lets a core do (R45, R314).
-/
namespace Sys2Proof.Machine

/-! ## Staggers (R68, R100, R210) -/

/-- A vector register field stepped. -/
def stepV (v : VReg) (n : Nat) : VReg := BitVec.ofNat 4 (v.toNat + n)

/-- An unprefixed instruction with its vector fields stepped: VD where it names a vector register, VA and VB likewise. -/
def staggerOne (i : Instr) (nd na nb : Nat) : Instr :=
  match i with
  | .vadd g d a b t => .vadd g (stepV d nd) (stepV a na) (stepV b nb) t
  | .vsub g d a b t => .vsub g (stepV d nd) (stepV a na) (stepV b nb) t
  | .vmul g d a b t h => .vmul g (stepV d nd) (stepV a na) (stepV b nb) t h
  | .vfma g d a b t f => .vfma g (stepV d nd) (stepV a na) (stepV b nb) t f
  | .vmin g d a b t => .vmin g (stepV d nd) (stepV a na) (stepV b nb) t
  | .vmax g d a b t => .vmax g (stepV d nd) (stepV a na) (stepV b nb) t
  | .vdiv g d a b t => .vdiv g (stepV d nd) (stepV a na) (stepV b nb) t
  | .vsqr g d a t => .vsqr g (stepV d nd) (stepV a na) t
  | .vsfn g d a t f => .vsfn g (stepV d nd) (stepV a na) t f
  | .vcvt g d a t s => .vcvt g (stepV d nd) (stepV a na) t s
  | .vcmp g m a b t c => .vcmp g m (stepV a na) (stepV b nb) t c
  | .vsel g d a b t m => .vsel g (stepV d nd) (stepV a na) (stepV b nb) t m
  | .vred g d a t x o => .vred g (stepV d nd) (stepV a na) t x o
  | .vint g d a b t f => if f.ult 7 then .vint g (stepV d nd) (stepV a na) (stepV b nb) t f else .vint g (stepV d nd) (stepV a na) b t f
  | .vmov g d a t => .vmov g (stepV d nd) (stepV a na) t
  | .vmovBc g d s t => .vmovBc g (stepV d nd) s t
  | .vpermTr g d a t => .vpermTr g (stepV d nd) (stepV a na) t
  | .vpermIdx g d a b t => .vpermIdx g (stepV d nd) (stepV a na) (stepV b nb) t
  | i => i

/-- An instruction as execution j of a frame issues it. -/
def stagger (i : Instr) (f : Word) (j : Nat) : Instr :=
  let nd := j * bits f.toNat 8 4
  let na := j * bits f.toNat 4 4
  let nb := j * bits f.toNat 0 4
  match i with
  | .vectorPrefix m z r v w =>
    match prefixed w with
    | some x => .vectorPrefix m z r v (staggerOne x nd na nb).word
    | none => i
  | i => staggerOne i nd na nb

/-! ## Words from memory (R98) -/

/-- A word fetched from cached memory at its home slice, where update-only lines of it merge first (R130); a marked word is poison
consumed. -/
def fetchWord (a : Word) : M Word32 := do
  let s ← get
  if bits a.toNat 57 7 ≠ 0 then trap 0x07 a
  if inWindow a.toNat then trap 0x05 a
  let k := s.core s.cur
  guardLog (s.mergeAll k.task.part k.csrs.asid (a.toNat / 64) (some s.cur))
  let s ← get
  let _ ← fillHome (s.reqOf s.cur false false true) a
  let s ← get
  match s.l2Get k.task.part k.csrs.asid (a.toNat / 64) with
  | some x => do
    if (x.marks &&& wordMask (a.toNat % 64) 4) != 0 then trap 0x0E a
    return BitVec.ofNat 32 (lineBytes x.data (a.toNat % 64) 4)
  | none => return 0

/-- The instruction at the pc; a word that is not an instruction is the row ILLEGAL_WORD (R77). -/
def fetchMemory : M Instr := do
  let pc := (← getC).pc
  let w ← fetchWord pc
  let w2 ← if takesSecond w then fetchWord (pc + 4) else pure 0
  return (decodePair w w2).getD (.illegalWord w)

/-- An entry of the frame buffer under the checks of R347, staggered for its execution. -/
def fetchFrame : M Instr := do
  let k ← getC
  let f := k.csrs.frm
  let e := k.frame.toArray.getD (frmPos f) { word := 0, pfx := none }
  let op := (opOf e.word).toNat
  let closed : M Instr := do
    modC Core.closeFrame
    trap 0x14 (e.word.setWidth 64)
  if !((1 ≤ op && op ≤ 0x1E) || (0x60 ≤ op && op ≤ 0x70)) then closed
  else match e.pfx with
    | none => return (match decodePair e.word 0 with
      | some i => stagger i f (frmRun f)
      | none => .illegalWord e.word)
    | some p =>
      match decodePair p e.word, prefixed e.word with
      | some (.vectorPrefix m z r v w), some j =>
        if prefixFits j r v then return stagger (.vectorPrefix m z r v w) f (frmRun f) else closed
      | some (.vectorPrefix _ _ _ _ _), none => return .illegalWord e.word
      | _, _ => closed

/-- The next instruction of the core that moves. -/
def fetch : M Instr := do
  let k ← getC
  if k.streams then
    match k.group.stream with
    | e :: _ => return (decodePair e.word e.next).getD (.illegalWord e.word)
    | [] => return .nop
  else if k.inFrame && frmRun k.csrs.frm ≠ 0 then fetchFrame
  else fetchMemory

/-! ## Rows and pairs held together (R41, R45, R314, R316) -/

/-- The other members of a leader's row that are in the chain, and of its pair. -/
def State.members (s : State) (c : Nat) : List Nat :=
  let k := s.core c
  (if k.group.fwd == .leader then (k.rowFollowers c).filter fun f => (s.core f).group.fwd == .follower else []) ++
  (if k.group.pair == .leader then [k.group.partner] else [])
/-- A follower is in a handler or frozen, so that its leader issues nothing (R45). -/
def Core.holdsRow (k : Core) : Bool := k.run == .running && (k.level == .supervisor || k.freeze.isSome)
/-- A follower of the core's row or pair holds it; instructions already on their way reach their followers all the same. -/
def State.rowHeld (s : State) (c : Nat) : Bool := (s.members c).any fun f => (s.core f).holdsRow
/-- `BARTMO` in fabric cycles (R51). -/
def Core.limit (k : Core) : Nat := if k.csrs.bartmo = 0 then 2 ^ 32 else k.csrs.bartmo.toNat
/-- A wait that has a deadline (R113, R167, R177, R385). -/
def FreezeKind.timed (z : FreezeKind) : Bool :=
  match z with
  | .awaitCounter | .sleep | .engine | .haltWork | .barrierRoot _ => true
  | .inQueue | .outQueue | .pageRequest | .sideLog | .checkpoint | .element => false
/-- The core's freeze has lasted `BARTMO` fabric cycles, where its wait has a deadline. -/
def Core.overdue (k : Core) (now : Nat) : Bool :=
  match k.freeze with
  | some z => z.kind.timed && decide (now ≥ z.since + k.limit)
  | none => false
/-- A pair's leader waits for a checkpoint: at the instruction it is held at, or before a deadline fault (R314). -/
def State.checkHeld (s : State) (c : Nat) : Bool :=
  let k := s.core c
  (k.freeze.any fun z => z.kind == .checkpoint) || k.overdue s.fabric
/-- A follower that is as far behind as its distance allows and has to execute before its leader issues again (R41, R313); a pair's
leader that waits for a checkpoint lets its follower reach it (R314). -/
def State.lagging (s : State) (c : Nat) : Option Nat :=
  let k := s.core c
  findFirst (fun f =>
    let n := (s.core f).group.stream.length
    if f = k.group.partner && k.group.pair == .leader then decide (n ≥ 8) || (decide (n > 0) && s.checkHeld c)
    else decide (n ≥ f - c)) (s.members c)

end Sys2Proof.Machine
end

