-- ==== Sys2Proof/Machine/Control.lean ====
section
/-!
DEFINITION. Control transfers, loops, frames, the end of a task, traps and returns, control registers, supersteps, forwarding groups
and redundancy pairs (R96-R111), the illegal word (R77) and the boundary events (R340), with the steps that end their waits.
-/
namespace Sys2Proof.Machine

/-- A meaning whose flow is given. -/
def flow (f : Flow) : Done := { flow := f, lat := 1 }

/-! ## Transfers (R96, R97) -/

/-- The target of a B-format transfer (R96). -/
def branchTarget (pc : Word) (o : BitVec 22) : Word := pc + (o.signExtend 64 <<< 2)

/-- `br` (R96). -/
def execBr (g : Sel) (o : BitVec 22) (s : State) : Host.Outcome State Fault Refusal :=
  issue (.br g o) (do
    let pc := (← getC).pc
    return flow (.taken (branchTarget pc o))) s
/-- `call` (R96): the link goes to `lr` with a clear poison bit. -/
def execCall (g : Sel) (o : BitVec 22) (s : State) : Host.Outcome State Fault Refusal :=
  issue (.call g o) (do
    let pc := (← getC).pc
    ws 58 (pc + 4) false
    return flow (.taken (branchTarget pc o))) s
/-- `jr` (R97). -/
def execJr (g : Sel) (d a : SReg) (s : State) : Host.Outcome State Fault Refusal :=
  issue (.jr g d a) (do
    let x ← rs a
    let pc := (← getC).pc
    require (!x.2) 0x0E (w64 a.toNat)
    require (x.1.toNat % 4 == 0) 0x03 x.1
    require (bits x.1.toNat 57 7 == 0) 0x07 x.1
    ws d (pc + 4) false
    return flow (.taken x.1)) s

/-! ## Loops and frames (R99, R100) -/

/-- `loop` (R99). -/
def execLoop (g : Sel) (a : SReg) (l : BitVec 10) (s : State) : Host.Outcome State Fault Refusal :=
  issue (.loop g a l) (do
    let x ← rs a
    require (!x.2) 0x0E (w64 a.toNat)
    let k ← getC
    require (k.csrs.lcnt == 0) 0x14 0
    let after := k.pc + 4 + w64 (4 * l.toNat)
    if x.1 = 0 then return flow (.skip after)
    else
      modC fun k => { k with csrs := { k.csrs with lcnt := x.1, lbeg := k.pc + 4, lend := after }, loopOn := true }
      return next) s
/-- `rpt` (R100): the frame state takes the word's fields. -/
def execRpt (g : Sel) (n : BitVec 6) (k x y z : BitVec 4) (s : State) : Host.Outcome State Fault Refusal :=
  issue (.rpt g n k x y z) (do
    let pc := (← getC).pc
    let f : Word := (Instr.rpt g n k x y z).word.setWidth 64 &&& 0x3FFFFF
    modC fun c => { c with csrs := { c.csrs with frm := 0x8000000000000000 ||| f }, frameOn := true }
    return flow (.skip (pc + 4))) s

/-! ## Ending a task (R27, R102, R343) -/

/-- A core's engine commands and earlier writes complete before its task ends: it waits for both (R27, R331). -/
def endWait : M Unit := do
  let s ← get
  if s.engineWork s.cur then freeze .haltWork
  throughLog State.arriveHome

/-- The first open packet of the core: with several, the `halt` that meets them reports and discards the one of the lowest queue, and
the next issue of it the next (R102; DESIGN CHOICE: log entry 77). -/
def Core.openPacket (k : Core) : Option (Nat × Word) :=
  (List.range 4).foldl (fun r q =>
    match r, k.outq.toArray.getD q none with
    | none, some o => some (q, o.addr)
    | r, _ => r) none

/-- A supervisor's `halt` (R343), also what ends a task at an `eret` that may not return (R312, R342). -/
def superHalt (failed : Bool) : M Done := do
  modify fun s => s.haltCancel s.cur
  endWait
  modify fun s => s.endTask s.cur failed
  return flow .left

/-- `halt` (R27, R102, R343). In a prot launch it ends the pair's one task, and both cores are charged for it (R32, R313, R323). That of
a handler ends the task as failed unless `XCAUSE` is 0x16 or 0, a killed one too (R46, R343). -/
def execHalt (g : Sel) (s : State) : Host.Outcome State Fault Refusal :=
  issue (.halt g) (do
    let k ← getC
    match k.level with
    | .user => do
      match k.openPacket with
      | some (q, a) => throw (.packet q a)
      | none => pure ()
      endWait
      modify fun s => if k.group.pair == .leader && k.task.cls == .prot
        then (s.chargeFollower k.group.partner (.halt g)).endTask s.cur false
        else (s.endQuiet s.cur).endOne s.cur false
      return flow .left
    | .supervisor =>
      superHalt (!(k.csrs.xcause == 0x16 || k.csrs.xcause == 0))) s

/-! ## Traps and returns (R103-R105, R342) -/

/-- `trap` (R104): `XPC` receives the address after it. -/
def execTrap (g : Sel) (n : BitVec 10) (s : State) : Host.Outcome State Fault Refusal :=
  issue (.trap g n) (do
    if ← follows then return next
    return flow (.after 0x16 (n.setWidth 64))) s

/-- A word that is not an instruction (R77): the check of R78 on it always traps or is preceded by one that does. -/
def execIllegalWord (w : Word32) (s : State) : Host.Outcome State Fault Refusal := issue (.illegalWord w) (pure next) s

/-- `eret` (R105, R312, R342). -/
def execEret (g : Sel) (s : State) : Host.Outcome State Fault Refusal :=
  issue (.eret g) (do
    let k ← getC
    let toUser := !k.csrs.xstat.getLsbD 0
    if k.killed && toUser then
      if k.task.restart then
        modify fun s => s.restart s.cur
        return flow .left
      else superHalt true
    else if k.csrs.xstat.getLsbD 1 && !k.busy then superHalt true
    else
      modify fun s => s.eretTo s.cur
      -- a pair with nothing to compare goes on from here (R315, R316)
      let q := (← get).core k.group.partner
      if toUser && k.group.pair == .leader && !k.unchecked q then
        modC fun k => { k with group := { k.group with saved := some k.checkpoint } }
        modify fun s => s.modCore k.group.partner fun f => { f with group := { f.group with saved := some f.checkpoint } }
      -- a follower whose leader's task has ended meanwhile fetches for itself (R46)
      modC fun k => match k.group.leaveAt with
        | some pc => if (k.group.fwd == .follower || k.group.pair == .follower) && k.level == .user && k.group.stream.isEmpty
          then k.released pc else k
        | none => k
      return flow .back) s

/-- `TASK_END`: the `halt` (or the `eret` that ends its task) a core waits at is tried again and ends the task once nothing holds it
(R27). -/
def execTaskEnd (c : Nat) (s : State) : Host.Outcome State Fault Refusal :=
  let k := s.core c
  match k.freeze with
  | some z =>
    if z.kind == .haltWork && k.run == .running then
      match fetch { s with cur := c } with
      | .ok (.halt g) s1 => execHalt g s1
      | .ok (.eret g) s1 => execEret g s1
      | _ => .next s
    else .next s
  | none => .next s

/-- The pending cause of highest priority with its `XVAL`; that of the energy quota is `EQUOTA` at entry (R349). -/
def Core.topCause (k : Core) : Option (Nat × Word) :=
  match findFirst (fun c => k.pend.any fun e => e.1 == c) boundaryOrder with
  | some c =>
    if c = 0x10 then some (c, k.csrs.equota.signExtend 64)
    else match findFirst (fun e => e.1 == c) k.pend with
      | some e => some e
      | none => none
  | none => none

/-- `BOUNDARY_EVENT` (R340): at a user-level boundary of the core that moves the pending cause of highest priority is taken. A pair
takes it on its leader, after a checkpoint (R316). -/
def execBoundaryEvent (s : State) : Host.Outcome State Fault Refusal :=
  let k := (s.core s.cur).atStream
  if k.level == .user && k.runs && k.group.pair != .follower && !k.storing then
    match k.topCause with
    | some (cause, xval) =>
      if k.group.pair == .leader && k.unchecked (s.core k.group.partner) then .next (s.frozen k .checkpoint)
      else .next ((s.modCore s.cur fun k => { k with pend := dropFirst (fun e => e.1 == cause) k.pend }).enterTrap s.cur cause xval k.pc)
    | none => .next s
  else .next s

/-! ## Control registers (R106, R377) -/

/-- A control register read; a read of `NSEL` advances its window index (R377). -/
def csrRead (n : Nat) : M Word := do
  let r ← shared do
    let s ← get
    return ((s.csrValue s.cur n).toNat, 0)
  if n = 0x300 then modC fun k => { k with csrs := { k.csrs with nselIx := (k.csrs.nselIx + 1) % 20 } }
  return w64 r.1
/-- Steps 3 and 4 of R106 on a value to write. -/
def csrCheck (a : SReg) (n : Nat) : M Word := do
  let x ← rs a
  require (!x.2) 0x0E (w64 a.toNat)
  require (csrValueOk (← me) n x.1) 0x01 x.1
  return x.1

/-- `csrr` (R106). -/
def execCsrr (g : Sel) (d : SReg) (c : BitVec 10) (s : State) : Host.Outcome State Fault Refusal :=
  issue (.csrr g d c) (do
    let v ← csrRead c.toNat
    ws d v false
    return next) s
/-- `csrw` (R106). -/
def execCsrw (g : Sel) (a : SReg) (c : BitVec 10) (s : State) : Host.Outcome State Fault Refusal :=
  issue (.csrw g a c) (do
    let v ← csrCheck a c.toNat
    modC fun k => k.csrSet c.toNat v
    return next) s
/-- `csrx` (R106). -/
def execCsrx (g : Sel) (d a : SReg) (c : BitVec 10) (s : State) : Host.Outcome State Fault Refusal :=
  issue (.csrx g d a c) (do
    let v ← csrCheck a c.toNat
    let old ← csrRead c.toNat
    ws d old false
    modC fun k => k.csrSet c.toNat v
    return next) s
/-- `NSEL_READ` (R377): the read of `NSEL` by `csrr`. -/
def execNselRead (g : Sel) (d : SReg) (s : State) : Host.Outcome State Fault Refusal :=
  issue (.csrr g d 0x300) (do
    let v ← csrRead 0x300
    ws d v false
    return next) s

/-! ## Supersteps (R28, R109) -/

/-- `step` (R109), at either level: at supervisor level, too, it reloads `BUDGET` and opens a compute section (DESIGN CHOICE: log entry
78). -/
def execStep (g : Sel) (s : State) : Host.Outcome State Fault Refusal :=
  issue (.step g) (do
    modC fun k => { k with sect := .compute, csrs := { k.csrs with budget := k.task.budget } }
    return next) s

/-! ## Forwarding groups (R41-R44, R110) -/

/-- A sub-rectangle descriptor read from a register under R26: its value and the rectangle, which holds the core. -/
def readRect (a : SReg) : M (Word × (Nat × Nat × Nat × Nat)) := do
  let x ← rs a
  require (!x.2) 0x0E (w64 a.toNat)
  let s ← get
  match subRect (s.core s.cur).csrs.rect x.1 with
  | none => trap 0x01 x.1
  | some r => do
    require (inRect r s.cur) 0x01 x.1
    return (x.1, r)

/-- `fwd` (R42, R110): the west core of a row leads it. -/
def execFwd (g : Sel) (a : SReg) (s : State) : Host.Outcome State Fault Refusal :=
  issue (.fwd g a) (do
    let d ← readRect a
    let s ← get
    let k := s.core s.cur
    require (decide (d.2.2.2.1 ≤ 64) && k.group.fwd == .none && k.group.pair == .none) 0x01 d.1
    let role : FwdRole := if xOf s.cur = d.2.1 then .leader else .follower
    modC fun k => { k with
      group := { k.group with fwd := role, fwdDesc := d.1.setWidth 32, stream := [] }
      wait := .fwd (d.1.setWidth 32)
      waitSince := s.fabric }
    return flow .hold) s

/-- `fwd.rel` (R44, R110): a follower that executes it in its row's stream fetches for itself from the next address on. -/
def execFwdRel (g : Sel) (s : State) : Host.Outcome State Fault Refusal :=
  issue (.fwdRel g) (do
    let k ← getC
    require (k.group.fwd != .none || k.streams) 0x01 0
    if k.group.fwd == .follower then modC fun k => { k with group := { k.group with fwd := .released } }
    return next) s

/-- `fwd.join` (R44, R110): a released follower waits for its leader, the leader for its released followers; as part of a forwarded
stream it does nothing. -/
def execFwdJoin (g : Sel) (s : State) : Host.Outcome State Fault Refusal :=
  issue (.fwdJoin g) (do
    let s ← get
    let k := s.core s.cur
    require (k.group.fwd != .none || k.streams) 0x01 0
    if k.streams then return next
    modC fun k => { k with wait := .join, waitSince := s.fabric }
    return flow .hold) s

/-- `echo` (R111). -/
def execEcho (g : Sel) (a : SReg) (s : State) : Host.Outcome State Fault Refusal :=
  issue (.echo g a) (do
    let d ← readRect a
    let s ← get
    let k := s.core s.cur
    require (d.2.2.2.1 == 2 && d.2.2.2.2 == 1 && k.task.cls != .prot && (k.group.fwd == .none || k.group.fwd == .released) &&
      k.group.pair == .none) 0x01 d.1
    modC fun k => { k with wait := .echo (d.1.setWidth 32), waitSince := s.fabric }
    return flow .hold) s

/-- `echo.end` (R111): the final comparison is the checkpoint that precedes it (R314). -/
def execEchoEnd (g : Sel) (s : State) : Host.Outcome State Fault Refusal :=
  issue (.echoEnd g) (do
    let k ← getC
    require (k.task.cls != .prot && k.group.pair != .none) 0x01 0
    modC fun k => { k with group := { k.group with pair := .none, pairDesc := 0, partner := 0, fed := [], storeLog := [], sinceCheck := 0, popped := [], saved := none, print := 0, woke := false } }
    return next) s

/-- A waiting core goes on with the instruction after the one it waited at. -/
def Core.goOn (k : Core) (i : Instr) : Core := { (k.advance i) with wait := .none }

/-- A pair formed by `echo`: the follower takes the leader's registers (R313), and the pair's first checkpoint is recorded. -/
def State.formPair (s : State) (c : Nat) (desc : BitVec 32) : State :=
  let f := c + 1
  let s1 := s.modCore c fun k =>
    let k1 := k.goOn (.echo 0 0)
    { k1 with group := { k1.group with
        pair := .leader, pairDesc := desc, partner := f, saved := some k1.checkpoint, sinceCheck := 0, print := 0, woke := false } }
  let r := (s1.core c).regs
  s1.modCore f fun k =>
    let k1 := k.goOn (.echo 0 0)
    { k1 with regs := { r with a := k1.regs.a, ap := k1.regs.ap }, group := { k1.group with
      pair := .follower, pairDesc := desc, partner := c, sinceCheck := 0, print := 0, woke := false
      saved := some { k1.checkpoint with regs := { r with a := k1.regs.a, ap := k1.regs.ap } } } }

/-- `FORWARDING_STARTS` (R42, R111): every follower of the leader's row waits at the leader's `fwd`, or both cores of a pair at its
`echo`; they go on. -/
def execForwardingStarts (c : Nat) (s : State) : Host.Outcome State Fault Refusal :=
  let k := s.core c
  match k.wait with
  | .fwd d =>
    let l := k.rowFollowers c
    if k.group.fwd == .leader && l.all (fun f => (s.core f).wait == .fwd d) then
      .next ((l.foldl (fun st f => st.modCore f fun q => q.goOn (.fwd 0 0)) s).modCore c fun q => q.goOn (.fwd 0 0))
    else .next s
  | .echo d =>
    match subRect k.csrs.rect (d.setWidth 64) with
    | some (x, _, _, _) =>
      if xOf c = x && (s.core (c + 1)).wait == .echo d then .next (s.formPair c d) else .next s
    | none => .next s
  | _ => .next s

/-- A released follower at its `fwd.join` is a follower again, its row's stream being empty. -/
def Core.rejoin (k : Core) : Core :=
  if k.group.fwd == .released && k.wait == .join then
    let q := k.goOn (.fwdJoin 0)
    { q with group := { q.group with fwd := .follower, stream := [] } }
  else k
/-- A follower of a row has executed a `fwd.join`, has ended its task or was not released; a pair's follower executes its leader's. -/
def State.joined (s : State) (f : Nat) : Bool :=
  let q := s.core f
  q.run != .running || (q.group.fwd == .follower && !q.releasing) || (q.group.fwd == .released && q.wait == .join) ||
    (q.group.pair == .follower && (s.core q.group.partner).wait == .join)
/-- `FORWARDING_REJOIN` (R44): every released follower of the leader's row has joined or ended; the row goes on. -/
def execForwardingRejoin (c : Nat) (s : State) : Host.Outcome State Fault Refusal :=
  let k := s.core c
  let l := k.rowFollowers c
  if k.wait == .join && k.group.fwd == .leader && l.all s.joined then
    .next ((l.foldl (fun st f => st.modCore f Core.rejoin) s).modCore c fun q => q.goOn (.fwdJoin 0))
  else .next s

/-- A core's wait at `fwd`, `fwd.join` or `echo` ended by a deadline fault at that instruction (R42). -/
def State.waitFault (s : State) (c : Nat) : State :=
  let k := s.core c
  let s1 := s.modCore c fun k => { k with
    wait := .none
    group := (match k.wait with
      | .fwd _ => Group.reset
      | _ => k.group) }
  s1.enterTrap c 0x0A k.pc k.pc

/-- Nobody is missing at a core's wait: the row or pair it waits for is complete and about to go on (R42, R44, R111). -/
def State.gathered (s : State) (c : Nat) : Bool :=
  let k := s.core c
  match k.wait with
  | .fwd d => match subRect k.csrs.rect (d.setWidth 64) with
    | some (x, _, w, _) => (List.range w).all fun i => (s.core (coreAt (x + i) (yOf c))).wait == .fwd d
    | none => false
  | .echo d => match subRect k.csrs.rect (d.setWidth 64) with
    | some (x, _, _, _) => (s.core (coreAt x (yOf c))).wait == .echo d && (s.core (coreAt x (yOf c) + 1)).wait == .echo d
    | none => false
  | .join =>
    let l := if k.group.fwd == .leader then c else k.rowLeader c
    (s.core l).wait == .join && (s.core l).group.fwd == .leader && ((s.core l).rowFollowers l).all s.joined
  | _ => false
/-- `FWD_WAIT_TIMEOUT` (R42, R44, R111): the wait has lasted `BARTMO` fabric cycles and somebody is missing; every waiting member of the
row or pair takes the fault. -/
def execFwdWaitTimeout (c : Nat) (s : State) : Host.Outcome State Fault Refusal :=
  let k := s.core c
  let due := decide (s.fabric ≥ k.waitSince + k.limit) && !s.gathered c
  match k.wait with
  | .fwd d | .echo d =>
    if due then
      match subRect k.csrs.rect (d.setWidth 64) with
      | some (x, _, w, _) =>
        .next ((List.range w).foldl (fun st i =>
          let f := coreAt (x + i) (yOf c)
          if (st.core f).wait == k.wait then st.waitFault f else st) s)
      | none => .next s
    else .next s
  | .join =>
    if due then
      match subRect k.csrs.rect (k.group.fwdDesc.setWidth 64) with
      | some (x, _, w, _) =>
        .next ((List.range w).foldl (fun st i =>
          let f := coreAt (x + i) (yOf c)
          if (st.core f).wait == .join then st.waitFault f else st) s)
      | none => .next s
    else .next s
  | _ => .next s

/-- A freeze of some kind that has lasted `BARTMO` fabric cycles ends in a deadline fault at its instruction (R113, R177, R385). An
`evw` or `slp` that waits has issued and is charged (R32, R113), on both cores of a pair (R322); an instruction in an engine wait issues
again after the fault (R385). A pair's leader takes it after a checkpoint (R314). -/
def State.freezeFault (s : State) (c : Nat) (kinds : List FreezeKind) (issued : Option Instr) (xval : Core → Word) : State :=
  let k := s.core c
  let leads := k.group.pair == .leader && k.level == .user
  match k.freeze with
  | some z =>
    if kinds.contains z.kind && k.overdue s.fabric && k.run == .running && !(leads && k.unchecked (s.core k.group.partner)) then
      let s1 := match issued with
        | some i =>
          let s0 := s.modCore c fun q => { (q.charge i).tick 1 with group := q.group }
          if leads then s0.chargeFollower k.group.partner i else s0
        | none => s
      s1.enterTrap c 0x0A (xval k) z.pc
    else s
  | none => s

/-- `SLP_TIMEOUT` (R177): unless something has come that ends the sleep. -/
def execSlpTimeout (c : Nat) (s : State) : Host.Outcome State Fault Refusal :=
  .next (if (s.core c).wake || (s.core c).inq.any (fun l => !l.isEmpty) then s else s.freezeFault c [.sleep] (some (.slp 0)) fun _ => 0)
/-- `ENGINE_WAIT_TIMEOUT` (R385). -/
def execEngineWaitTimeout (c : Nat) (s : State) : Host.Outcome State Fault Refusal :=
  .next (s.freezeFault c [.engine, .haltWork] none fun k => k.pc)

/-- `ENERGY_DECREMENT` (R349, R371): a whole mJ (10^9 pJ) of the running sum lowers `EQUOTA`; at 0 or below it raises 0x10. -/
def execEnergyDecrement (c : Nat) (s : State) : Host.Outcome State Fault Refusal :=
  let k := s.core c
  if k.energy ≥ 1000000000 then
    let q := k.csrs.equota - 1
    let s1 := s.modCore c fun k => { k with energy := k.energy - 1000000000, csrs := { k.csrs with equota := q } }
    .next (if BitVec.slt 0 q then s1 else s1.raise c 0x10 (q.signExtend 64))
  else .next s

end Sys2Proof.Machine
end

