-- ==== Sys2Proof/Machine/Memory.lean ====
section
/-!
DEFINITION. Loads, stores, atomics and no-return reductions (R115-R132), opcodes 0x36 to 0x45.
-/
namespace Sys2Proof.Machine

/-! ## Shapes of instructions -/

/-- Bytes of a size code (R62). -/
def sizeOf_ (z : BitVec 2) : Nat := 2 ^ z.toNat
/-- The access address of a form with an offset (R115). -/
def offsetEa (a : Word) (o : BitVec 8) (n : Nat) : Word := a + o.signExtend 64 * w64 n
/-- A value read, extended (R118). -/
def extend (sgn : Bool) (n v : Nat) : Word := if sgn then BitVec.ofInt 64 (signed (8 * n) v) else w64 v

/-- The end of a load whose checks passed: the value read by some path goes to D. -/
def finishLoad (d : SReg) (sgn : Bool) (n lat : Nat) (read : M (Nat × Bool)) : M Done := do
  let v ← sharedRead read
  ws d (extend sgn n v.1) v.2
  return nextIn lat

/-- `ld`, `ldz` (R118). -/
def load (d a : SReg) (o : BitVec 8) (z : BitVec 2) (sgn : Bool) : M Done := do
  let x ← rs a
  let n := sizeOf_ z
  let ea := offsetEa x.1 o n
  if !(← follows) then checkAccess (badReg a x) ea n false
  finishLoad d sgn n ((← get).targetLatency ea.toNat 3 5 14 64) (rawRead ea n)

/-- `ld.tag`, `ldz.tag` (R119): D holds the expected sequence number. -/
def loadTag (d a : SReg) (z : BitVec 2) (sgn : Bool) : M Done := do
  let y ← rs d
  let x ← rs a
  let n := sizeOf_ z
  let ea := x.1
  if !(← follows) then
    checkAccess ((badReg a x).or (badReg d y)) ea n false
    tagCheck ea y.1
  finishLoad d sgn n ((← get).targetLatency ea.toNat 3 5 14 64) (rawRead ea n)

/-- The read of an acquire load: at the home slice or tarn, or through the L1 at `.core` (R123). -/
def acquireRead (ea : Word) (n : Nat) (sc : Scope) : M (Nat × Bool) := do
  let s ← get
  match s.uncached ea.toNat with
  | some p => do
    guardLog (s.flushTags true 0 0 p n (some s.cur))
    placeRead p n ea
  | none => if sc = .core then cachedRead ea n else homeRead ea n

/-- A returning atomic or a no-return one without its own mnemonic (R126-R128): `y` is D's value where it is read. -/
def atomic (d a b : SReg) (op f : Nat) (readD : Bool) : M Done := do
  let y ← if readD then rs d else pure (0, false)
  let x ← rs a
  let v ← rs b
  let n := atomicSize f
  let ea := x.1
  if !(← follows) then checkAccess ((badReg a x).or (if readD then badReg d y else none)) ea n true
  -- an expected value that is poisoned counts as a poisoned operand (R128)
  let bp := v.2 || y.2
  if d = 0 then
    outside (atomicAway ea op f v.1.toNat bp y.1.toNat)
    return next
  else
    let s0 ← get
    let r ← sharedRead (atomicReturn ea op f v.1.toNat bp y.1.toNat)
    restoring s0 (ws d (extend true n r.1) r.2)
    return nextIn (s0.targetLatency ea.toNat 24 8 20 72)

/-- A no-return reduction (R129). -/
def reduction (a b : SReg) (op f : Nat) : M Done := do
  let x ← rs a
  let v ← rs b
  let ea := x.1
  if !(← follows) then checkAccess (badReg a x) ea (atomicSize f) true
  outside (reduce ea op f v.1 v.2)
  return next

/-- F of an integer atomic (R125). -/
def atomicF (n z : Bool) : Nat := (if n then 8 else 0) + if z then 3 else 2

/-! ## Meanings -/

/-- `ld` (R118). -/
def execLd (g : Sel) (d a : SReg) (o : BitVec 8) (z : BitVec 2) (s : State) : Host.Outcome State Fault Refusal :=
  issue (.ld g d a o z) (load d a o z true) s
/-- `ldz` (R118). -/
def execLdz (g : Sel) (d a : SReg) (o : BitVec 8) (z : BitVec 2) (s : State) : Host.Outcome State Fault Refusal :=
  issue (.ldz g d a o z) (load d a o z false) s
/-- `ld.tag` (R119). -/
def execLdTag (g : Sel) (d a : SReg) (z : BitVec 2) (s : State) : Host.Outcome State Fault Refusal :=
  issue (.ldTag g d a z) (loadTag d a z true) s
/-- `ldz.tag` (R119). -/
def execLdzTag (g : Sel) (d a : SReg) (z : BitVec 2) (s : State) : Host.Outcome State Fault Refusal :=
  issue (.ldzTag g d a z) (loadTag d a z false) s
/-- `st` (R121). -/
def execSt (g : Sel) (d a : SReg) (o : BitVec 8) (z : BitVec 2) (s : State) : Host.Outcome State Fault Refusal :=
  issue (.st g d a o z) (do
    let v ← rs d
    let x ← rs a
    let n := sizeOf_ z
    let ea := offsetEa x.1 o n
    if !(← follows) then
      checkAccess (badReg a x) ea n true
      poisonCheck ea v.2
    storeMem ea n (v.1.toNat % 2 ^ (8 * n)) v.2
    return next) s
/-- `lda` (R123). -/
def execLda (g : Sel) (d a : SReg) (p : BitVec 3) (z : BitVec 2) (s : State) : Host.Outcome State Fault Refusal :=
  issue (.lda g d a p z) (do
    let x ← rs a
    let n := sizeOf_ z
    let ea := x.1
    let sc := scopeOf p
    if !(← follows) then checkAccess (badReg a x) ea n false
    let r ← finishLoad d true n ((← get).targetLatency ea.toNat (if sc = .core then 3 else 24) 5 14 64) (acquireRead ea n sc)
    outside (dropLines sc)
    return r) s
/-- `stl` (R124). -/
def execStl (g : Sel) (d a : SReg) (p : BitVec 3) (z : BitVec 2) (s : State) : Host.Outcome State Fault Refusal :=
  issue (.stl g d a p z) (do
    let v ← rs d
    let x ← rs a
    let n := sizeOf_ z
    let ea := x.1
    let sc := scopeOf p
    outside do
      checkAccess (badReg a x) ea n true
      poisonCheck ea v.2
      release sc
      if sc = .core then rawWrite ea n (v.1.toNat % 2 ^ (8 * n)) v.2
      else releaseStore ea n (v.1.toNat % 2 ^ (8 * n)) v.2 sc
    return next) s
/-- `aadd` (R126). -/
def execAadd (g : Sel) (d a b : SReg) (z : Bool) (s : State) : Host.Outcome State Fault Refusal :=
  issue (.aadd g d a b z) (atomic d a b 0x3B (atomicF false z) false) s
/-- `aand` (R126). -/
def execAand (g : Sel) (d a b : SReg) (z : Bool) (s : State) : Host.Outcome State Fault Refusal :=
  issue (.aand g d a b z) (atomic d a b 0x3C (atomicF false z) false) s
/-- `aor` (R126). -/
def execAor (g : Sel) (d a b : SReg) (z : Bool) (s : State) : Host.Outcome State Fault Refusal :=
  issue (.aor g d a b z) (atomic d a b 0x3D (atomicF false z) false) s
/-- `axor` (R126). -/
def execAxor (g : Sel) (d a b : SReg) (z : Bool) (s : State) : Host.Outcome State Fault Refusal :=
  issue (.axor g d a b z) (atomic d a b 0x3E (atomicF false z) false) s
/-- `amin`, `amin.n` (R126). -/
def execAmin (g : Sel) (d a b : SReg) (n z : Bool) (s : State) : Host.Outcome State Fault Refusal :=
  issue (.amin g d a b n z) (atomic d a b 0x3F (atomicF n z) false) s
/-- `amax`, `amax.n` (R126). -/
def execAmax (g : Sel) (d a b : SReg) (n z : Bool) (s : State) : Host.Outcome State Fault Refusal :=
  issue (.amax g d a b n z) (atomic d a b 0x40 (atomicF n z) false) s
/-- `axch` (R126). -/
def execAxch (g : Sel) (d a b : SReg) (z : Bool) (s : State) : Host.Outcome State Fault Refusal :=
  issue (.axch g d a b z) (atomic d a b 0x41 (atomicF false z) false) s
/-- `acas` (R126). -/
def execAcas (g : Sel) (d a b : SReg) (z : Bool) (s : State) : Host.Outcome State Fault Refusal :=
  issue (.acas g d a b z) (atomic d a b 0x42 (atomicF false z) true) s
/-- `fadda` (R127). -/
def execFadda (g : Sel) (d a b : SReg) (s : State) : Host.Outcome State Fault Refusal :=
  issue (.fadda g d a b) (atomic d a b 0x43 2 false) s
/-- `famax` (R127). -/
def execFamax (g : Sel) (d a b : SReg) (s : State) : Host.Outcome State Fault Refusal :=
  issue (.famax g d a b) (atomic d a b 0x44 2 false) s
/-- `famin` (R127). -/
def execFamin (g : Sel) (d a b : SReg) (s : State) : Host.Outcome State Fault Refusal :=
  issue (.famin g d a b) (atomic d a b 0x45 2 false) s
/-- `radd` (R129). -/
def execRadd (g : Sel) (a b : SReg) (z : Bool) (s : State) : Host.Outcome State Fault Refusal :=
  issue (.radd g a b z) (reduction a b 0x3B (atomicF false z)) s
/-- `rand` (R129). -/
def execRand (g : Sel) (a b : SReg) (z : Bool) (s : State) : Host.Outcome State Fault Refusal :=
  issue (.rand g a b z) (reduction a b 0x3C (atomicF false z)) s
/-- `ror` (R129). -/
def execRor (g : Sel) (a b : SReg) (z : Bool) (s : State) : Host.Outcome State Fault Refusal :=
  issue (.ror g a b z) (reduction a b 0x3D (atomicF false z)) s
/-- `rxor` (R129). -/
def execRxor (g : Sel) (a b : SReg) (z : Bool) (s : State) : Host.Outcome State Fault Refusal :=
  issue (.rxor g a b z) (reduction a b 0x3E (atomicF false z)) s
/-- `rmin`, `rmin.n` (R129). -/
def execRmin (g : Sel) (a b : SReg) (n z : Bool) (s : State) : Host.Outcome State Fault Refusal :=
  issue (.rmin g a b n z) (reduction a b 0x3F (atomicF n z)) s
/-- `rmax`, `rmax.n` (R129). -/
def execRmax (g : Sel) (a b : SReg) (n z : Bool) (s : State) : Host.Outcome State Fault Refusal :=
  issue (.rmax g a b n z) (reduction a b 0x40 (atomicF n z)) s
/-- `rfadd` (R129). -/
def execRfadd (g : Sel) (a b : SReg) (s : State) : Host.Outcome State Fault Refusal :=
  issue (.rfadd g a b) (reduction a b 0x43 2) s
/-- `rfmax` (R129). -/
def execRfmax (g : Sel) (a b : SReg) (s : State) : Host.Outcome State Fault Refusal :=
  issue (.rfmax g a b) (reduction a b 0x44 2) s
/-- `rfmin` (R129). -/
def execRfmin (g : Sel) (a b : SReg) (s : State) : Host.Outcome State Fault Refusal :=
  issue (.rfmin g a b) (reduction a b 0x45 2) s

end Sys2Proof.Machine
end

