-- ==== Sys2Proof/Machine/Sync.lean ====
section
/-!
DEFINITION. Fences, range operations, barriers, messages, sleeping and waking (R162-R177), opcodes 0x46 to 0x4E, and the steps of
the barrier roots, the caches and the message network.
-/
namespace Sys2Proof.Machine

/-! ## Fences (R152, R162) -/

/-- The releases that the core's earlier reads have met and whose scopes cover both cores write back what they recorded: those reads
become acquires (R147, R152). -/
def acquireAll (sc : Scope) : M Unit := do
  let s ← get
  let met := (s.core s.cur).seen.filter fun r => scopeCovers sc s.cur r.core && scopeCovers r.scope s.cur r.core
  guardLog (met.foldl (fun (r : State × Bool) x => if r.2 then r.1.flushFor x.core (some s.cur) else r) (s, true))
  modC fun k => { k with seen := k.seen.filter fun r => !met.contains r }

/-- The part of `fence.acq` (R152). -/
def fenceAcqPart (sc : Scope) : M Unit := do
  acquireAll sc
  dropLines sc
/-- The part of `fence.rel`: later writes at a home slice or tarn are tagged with it (R152). -/
def fenceRelPart (sc : Scope) : M Unit := do
  release sc
  if sc = .core then pure () else modC fun k => { k with fenceTag := some sc }

/-- `fence.acq` (R162). -/
def execFenceAcq (g : Sel) (p : BitVec 3) (s : State) : Host.Outcome State Fault Refusal :=
  issue (.fenceAcq g p) (do
    outside (fenceAcqPart (scopeOf p))
    return next) s
/-- `fence.rel` (R162). -/
def execFenceRel (g : Sel) (p : BitVec 3) (s : State) : Host.Outcome State Fault Refusal :=
  issue (.fenceRel g p) (do
    outside (fenceRelPart (scopeOf p))
    return next) s
/-- `fence.full` (R162): also every earlier store has been performed. -/
def execFenceFull (g : Sel) (p : BitVec 3) (s : State) : Host.Outcome State Fault Refusal :=
  issue (.fenceFull g p) (do
    outside do
      fenceRelPart (scopeOf p)
      throughLog State.cleanReleased
      fenceAcqPart (scopeOf p)
    return next) s

/-! ## Range operations (R163-R166) -/

/-- The checks of R163 on [a, a + b). -/
def rangeCheck (a b : SReg) (locks : Bool) : M (Nat × Nat) := do
  let x ← rs a
  let y ← rs b
  require (!x.2) 0x0E (w64 a.toNat)
  require (!y.2) 0x0E (w64 b.toNat)
  let lo := x.1.toNat
  let n := y.1.toNat
  require (decide (n < 2 ^ 32) && bits lo 57 7 == 0 && decide (lo + n ≤ 2 ^ 57) && (n == 0 || decide (lo + n ≤ 0xFFF * 2 ^ 45))) 0x07 x.1
  let s ← get
  let k := s.core s.cur
  if locks && (s.pond (pondOf s.cur)).locks.any (fun l => l.meets (cachedSpan k.task.part k.csrs.asid lo n)) then trap 0x0D x.1
  return (lo, n)

/-- The core's L1 lines under its ASID that hold a byte of a range. -/
def State.l1Range (s : State) (c lo n : Nat) : List L1Line :=
  (s.l1Of c).filter fun l => l.asid == (s.core c).csrs.asid && decide (n ≠ 0) && decide (l.line * 64 < lo + n) && decide (lo < l.line * 64 + 64)
/-- The bytes of a line inside a range. -/
def insideMask (line lo n : Nat) : BitVec 64 :=
  let a := Nat.max lo (line * 64)
  let e := Nat.min (lo + n) (line * 64 + 64)
  byteMask (a - line * 64) (e - a)

/-- What a range operation does to one line (R164): `keep` the line stays, `toss` its bytes inside the range are discarded. -/
def State.rangeLine (s : State) (c lo n : Nat) (keep toss : Bool) (l : L1Line) : State × Bool :=
  let ins := insideMask l.line lo n
  if l.updateOnly then
    s.mergeLineAs c (if toss then
      { l with parts := l.parts.filter fun p => (byteMask p.off p.size &&& ~~~ins) != 0 } else l) keep
  else
    let d := if toss then { l with dirty := l.dirty &&& ~~~ins } else l
    let k := s.core c
    let s1 := if d.dirty = 0 then s else { s.meetGiven l with flights := s.flights ++ d.writeBacks c k.task.part (s.fenceRel c) }
    let kept := if d.dirty = 0 then l else l.disturbed (l.err == some true)
    (s1.l1Set c l (if keep then some kept.cleaned else none), true)

/-- A range operation on the core's L1. -/
def rangeOp (lo n : Nat) (keep toss : Bool) : M Unit := do
  let s ← get
  guardLog ((s.l1Range s.cur lo n).foldl (fun r l =>
    if r.2 then r.1.rangeLine s.cur lo n keep toss l else r) (s, true))

/-- `wb` (R164). -/
def execWb (g : Sel) (a b : SReg) (s : State) : Host.Outcome State Fault Refusal :=
  issue (.wb g a b) (do
    let r ← rangeCheck a b false
    outside (rangeOp r.1 r.2 true false)
    return next) s
/-- `inv` (R164). -/
def execInv (g : Sel) (a b : SReg) (s : State) : Host.Outcome State Fault Refusal :=
  issue (.inv g a b) (do
    let r ← rangeCheck a b (!(← follows))
    outside (rangeOp r.1 r.2 false false)
    return next) s
/-- A `dsc` sent to the home slices of the lines that lie wholly inside a range, after the write-backs before it (R164, R165). -/
def State.sendDrop (s : State) (c lo n : Nat) : State :=
  let k := s.core c
  let first := (lo + 63) / 64
  let lines := (lo + n) / 64 - first
  if lines = 0 then s
  else { s with flights := s.flights ++
    [{ core := c, part := k.task.part, asid := k.csrs.asid, line := first, mask := 0, data := 0, marks := 0, clears := 0, level := k.level,
       recorded := false, tagged := 0, rel := none, drop := lines }] }
/-- `dsc` (R164): the home slices drop the lines that lie wholly inside the range. -/
def execDsc (g : Sel) (a b : SReg) (s : State) : Host.Outcome State Fault Refusal :=
  issue (.dsc g a b) (do
    let r ← rangeCheck a b (!(← follows))
    outside do
      rangeOp r.1 r.2 false true
      modify fun s => s.sendDrop s.cur r.1 r.2
    return next) s

/-! ## Barriers (R167-R171, R51) -/

/-- A pair arrives at a barrier through its leader, and its follower is a member, too (R313): what that has stored before the pair was
formed goes home first, as its own arrival would do it (R21, R331). -/
def pairHome (f : Nat) : M Unit := do
  let s ← get
  guardLog (s.arriveHome f)
  let s ← get
  if !(s.logged f).isEmpty then freeze .sideLog
  match (s.core f).loss with
  | some a => do
    modify fun s => s.modCore f fun k => { k with loss := none }
    trap 0x13 a
  | none => pure ()
/-- `bar` (R167): arrival once R21 is met; the core then waits, stopped after its `bar` (R47). -/
def execBar (g : Sel) (n : BitVec 4) (a : SReg) (s : State) : Host.Outcome State Fault Refusal :=
  issue (.bar g n a) (do
    let d ← readRect a
    modC fun k => { k with bind := k.bind.setIfInBounds n.toNat (d.1.setWidth 32) }
    outside do
      let s ← get
      let k := s.core s.cur
      let name := k.instanceOf n.toNat
      if s.rootBusy name then freeze (.barrierRoot n.toNat)
      if k.group.pair == .leader then pairHome k.group.partner
      throughLog State.arriveHome
      modify fun s => s.toRoot name (evArrive, s.cur, 0, k.limit)
      modC fun k => { k with wait := .barrier n.toNat false, waitSince := s.fabric }
    return next) s

/-- `bexp` (R171). -/
def execBexp (g : Sel) (n : BitVec 4) (a : SReg) (s : State) : Host.Outcome State Fault Refusal :=
  issue (.bexp g n a) (do
    let x ← rs a
    require (!x.2) 0x0E (w64 a.toNat)
    require (decide (x.1.toNat < 2 ^ 47)) 0x01 x.1
    outside do
      let s ← get
      let name := (s.core s.cur).instanceOf n.toNat
      if s.rootBusy name then freeze (.barrierRoot n.toNat)
      modify fun s => s.toRoot name (evExpect, s.cur, 0, x.1.toNat)
    return next) s

/-- The mark of a post whose phase was abandoned (R51). -/
def abandoned : Nat := 2 ^ 64
/-- A landing or cancellation at a root: subtracted under its transfer's post, discarded for an abandoned phase, held while its post is
still on its way (R169, R51). -/
def Barrier.landed (b : Barrier) (xfer n : Nat) : Barrier :=
  if xfer = 0 then { b with counter := b.counter - BitVec.ofNat 48 n }
  else match find b.posts xfer with
    | some ph => if ph = abandoned then b else { b with counter := b.counter - BitVec.ofNat 48 n }
    | none => { b with early := b.early ++ [(xfer, n)] }
/-- An arrival at a root; the first sets the phase's timeout, the lowest core number of a cycle's (R51). -/
def Barrier.arrive (b : Barrier) (now c limit : Nat) : Barrier :=
  { b with
    arrived := insertNat b.arrived c
    first := match b.first with
      | some f => if f.1 = now && b.arrived.all (fun x => decide (c < x)) then some (now, limit) else some f
      | none => some (now, limit) }

/-- An event of a root. -/
abbrev RootEvent : Type := Nat × Nat × Nat × Nat
/-- A post or an expectation that stands before an arrival of the same core, with which it travels in order (R170). -/
def ahead (e : RootEvent) (later : List RootEvent) : Bool := later.any fun x => x.1 == evArrive && x.2.1 == e.2.1
/-- The events of an inbox that are or are not applied before the arrivals of the same cycle. -/
def aheads (first : Bool) : List RootEvent → List RootEvent
  | [] => []
  | e :: rest => if ahead e rest == first then e :: aheads first rest else aheads first rest
/-- A post or expectation applied to the phase that is open. -/
def Barrier.count (b : Barrier) (e : RootEvent) : Barrier :=
  if e.1 = evPost then { b with counter := b.counter + BitVec.ofNat 48 e.2.2.2, posts := put b.posts e.2.2.1 b.phase }
  else if e.1 = evExpect then { b with counter := b.counter + BitVec.ofNat 48 e.2.2.2 }
  else b
/-- Step 1 of a root's cycle (R170): held landings whose post was applied in an earlier cycle, then landings and arrivals, each after
what its core has sent before it. -/
def Barrier.stepOne (b : Barrier) (now : Nat) : Barrier :=
  let b1 := b.early.foldl (fun b e => b.landed e.1 e.2) { b with early := [] }
  let b2 := b1.inbox.foldl (fun b e => if e.1 = evLand || e.1 = evCancel then b.landed e.2.2.1 e.2.2.2 else b) b1
  let b3 := (aheads true b.inbox).foldl Barrier.count b2
  b.inbox.foldl (fun b e => if e.1 = evArrive then b.arrive now e.2.1 e.2.2.2 else b) b3
/-- Step 3 of a root's cycle: the other posts and expectations, for the phase now open. -/
def Barrier.stepThree (b : Barrier) : Barrier :=
  { (aheads false b.inbox).foldl Barrier.count b with inbox := [] }

/-- A core counts as arrived: it has arrived, ended its task or been killed (R27, R170, R311). -/
def State.counts (s : State) (b : Barrier) (c : Nat) : Bool :=
  let k := s.core c
  b.arrived.contains c || (match k.run with | .ended _ => true | _ => false) || k.killed
/-- Every member counts as arrived; a pair's follower does whenever its leader does (R313). -/
def State.allArrived (s : State) (b : Barrier) : Bool :=
  let others := s.cores.filter fun e =>
    b.name.member e.1 && !b.arrived.contains e.1 && (s.counts b e.1 || (e.2.group.pair == .follower && s.counts b e.2.group.partner))
  b.arrived.length + others.length ≥ b.name.w * b.name.h

/-- The instance of a number that a root pond holds. -/
def State.rootOf (s : State) (pond num : Nat) : Option Barrier :=
  findFirst (fun b => b.held && b.name.root == pond && b.name.num == num) s.barriers
/-- The instance of a number for which something waits at a root pond that holds none or an idle one: it holds that (R167). -/
def State.nextRoot (s : State) (pond num : Nat) : State :=
  match s.rootOf pond num, findFirst (fun b => !b.held && b.name.root == pond && b.name.num == num && !b.idle) s.barriers with
  | some b, some w => if b.idle then s.openRoot w.name else s
  | none, some w => s.openRoot w.name
  | _, none => s
/-- The state with an instance replaced. -/
def State.setRoot (s : State) (b : Barrier) : State :=
  { s with barriers := replaceFirst (fun x => x.name == b.name) b s.barriers }

/-- `BARRIER_ROOT_CYCLE` (R170). -/
def execBarrierRootCycle (pond num : Nat) (s0 : State) : Host.Outcome State Fault Refusal :=
  let s := s0.nextRoot pond num
  match s.rootOf pond num with
  | none => .next s
  | some b =>
    let b1 := b.stepOne s.fabric
    if s.allArrived b1 && b1.counter == 0 then
      let b2 := ({ b1 with phase := b1.phase + 1, arrived := [], first := none }).stepThree
      .next (b1.arrived.foldl (fun st c => st.modCore c fun k =>
        if k.wait == .barrier num false then { k with wait := .barrier num true } else k) (s.setRoot b2))
    else .next (s.setRoot b1.stepThree)

/-- A core in the exchange section; what a `bar` has made of it belongs to the checkpoint that the `bar` forced (R28, R315). -/
def Core.exchange (k : Core) : Core :=
  { k with sect := .exchange, group := { k.group with saved := k.group.saved.map fun p => { p with sect := .exchange } } }
/-- A member goes on behind its `bar`, in the exchange section; a pair's follower enters it with its leader (R28, R313). -/
def State.pastBarrier (s : State) (c : Nat) : State :=
  let k := s.core c
  let s1 := if k.group.pair == .leader then s.modCore k.group.partner Core.exchange else s
  s1.modCore c fun k => { k.exchange with wait := .none }
/-- The lines that a member of a barrier drops when it goes on, also those of the follower of its pair (R21, R313). -/
def State.dropForPair (s : State) (c : Nat) : State × Bool :=
  let k := s.core c
  match s.dropReleased c with
  | (s1, true) => if k.group.pair == .leader then s1.dropReleased k.group.partner else (s1, true)
  | r => r
/-- `BARRIER_CONTINUE` (R21, R28): a member that has the completion goes on, its L1 lines of released-mode memory invalidated. -/
def execBarrierContinue (c : Nat) (s : State) : Host.Outcome State Fault Refusal :=
  match (s.core c).wait with
  | .barrier _ true =>
    match s.dropForPair c with
    | (s1, true) => .next (s1.pastBarrier c)
    | (s1, false) => .next s1
  | _ => .next s

/-- A core frozen because a root holds another instance of its number takes the deadline fault too (R167). -/
def State.rootWaitFault (s : State) (c num : Nat) : State :=
  s.freezeFault c [.barrierRoot num] none fun _ => w64 num

/-- `BARRIER_TIMEOUT` (R51): the phase is abandoned and every member takes a deadline fault. -/
def execBarrierTimeout (pond num : Nat) (s : State) : Host.Outcome State Fault Refusal :=
  let s0 := s.cores.foldl (fun st e => st.rootWaitFault e.1 num) s
  match s0.rootOf pond num with
  | none => .next s0
  | some b =>
    match b.first with
    | none => .next s0
    | some (t, limit) =>
      let stopping := s0.launches.any fun l => l.stopping && l.part == b.name.part && l.queue == b.name.queue && l.seq == b.name.seq
      if stopping || s0.fabric < t + limit then .next s0
      else
        let b1 := { b with phase := b.phase + 1, arrived := [], counter := 0, first := none,
                           posts := b.posts.map fun p => if p.2 = b.phase then (p.1, abandoned) else p }
        .next (s0.cores.foldl (fun st e =>
          if b.name.member e.1 && e.2.run == .running && !e.2.killed && e.2.group.pair != .follower then
            let st1 := st.raise e.1 0x0A (w64 num)
            if e.2.wait == .barrier num false && b.arrived.contains e.1 then st1.pastBarrier e.1 else st1
          else st) (s0.setRoot b1))

/-! ## Messages (R172-R174) -/

/-- A destination of a closing packet (R174): a core, or a ring by the place of its base. -/
inductive Dest where
  | core (c : Nat)
  | ring (r : Ring)
  deriving DecidableEq, Repr

/-- CheckDestination (R174). -/
def checkDest (a : Word) : M Dest := do
  let s ← get
  let k := s.core s.cur
  let n := a.toNat
  let away (chip : Nat) : Bool := k.sect == .compute && chip != chipOf s.cur
  if n < Config.numCores then
    if !inRect k.rect n then trap 0x09 a
    if away (chipOf n) then trap 0x08 a
    return .core n
  else if inWindow n && bits n 57 7 == 0 then
    match windowPlace (chipOf s.cur) n with
    | none => trap 0x07 a
    | some p =>
      match findFirst (fun r => r.base == p && r.part == k.task.part && r.queue == k.task.queue && r.seq == k.task.seq) s.rings with
      | none => trap 0x07 a
      | some r => do
        if away (placeChip p) then trap 0x08 a
        return .ring r
  else trap 0x09 a

/-- The words of a packet to a ring keep its limits (R174). -/
def Ring.takes (r : Ring) (l : List Word) : Bool :=
  match l with
  | [] => false
  | n :: rest => n != BitVec.allOnes 64 && decide (8 * rest.length ≤ r.size)

/-- The place of a ring slot's tag for a sequence number. -/
def Ring.tagPlace (r : Ring) (n : Nat) : Nat := r.base + 8 * (n % r.slots)
/-- The place of a ring slot's data for a sequence number. -/
def Ring.slotPlace (r : Ring) (n : Nat) : Nat := r.base + 8 * r.slots + n % r.slots * r.size

/-- The open packet of a queue leaves, closed (R172, R173). -/
def closePacket (q : Nat) (d : Dest) (rel : Option Rel) : M Unit := do
  let s ← get
  let k := s.core s.cur
  match k.outq.toArray.getD q none with
  | none => pure ()
  | some o => do
    modC fun k => k.dropPacket q
    let words := o.words.map fun w => (w, false)
    match d with
    | .core c => modify fun s => { s with packets := s.packets ++
        [{ src := s.cur, queue := q, ring := false, dst := c, words := words, err := false, rel := rel, part := k.task.part, left := false,
           reach := none }] }
    | .ring r =>
      let n := match o.words with
        | w :: _ => w
        | [] => 0
      modify fun s => { s with
        packets := s.packets ++
          [{ src := s.cur, queue := q, ring := true, dst := r.base, words := words, err := false, rel := rel, part := k.task.part,
             left := false, reach := none }]
        landings := s.landings ++ [(0, r.tagPlace n.toNat, n)] }

/-- `send.e` and `send.rel` (R173, R155). A ring's limits are judged on a word that may be pushed, before the queue's room (DESIGN CHOICE:
log entry 77). -/
def sendClose (q : BitVec 2) (a b : SReg) (rel : Option Scope) : M Done := do
  let x ← rs a
  let y ← rs b
  if ← follows then return next
  require (!x.2) 0x0E (w64 a.toNat)
  let d ← checkDest x.1
  let k ← getC
  let before := match k.outq.toArray.getD q.toNat none with
    | some o => o.words
    | none => []
  if !y.2 && before.length < 32 then
    match d with
    | .ring r => require (r.takes (before ++ [y.1])) 0x07 x.1
    | .core _ => pure ()
  pushQueue q.toNat y b.toNat
  match rel with
  | some sc => release sc
  | none => pure ()
  let c ← me
  closePacket q.toNat d (rel.map fun sc => { core := c, scope := sc })
  return next

/-- `send` (R173). -/
def execSend (g : Sel) (q : BitVec 2) (x b : SReg) (s : State) : Host.Outcome State Fault Refusal :=
  issue (.send g q x b) (do
    let y ← rs b
    pushQueue q.toNat y b.toNat
    return next) s
/-- `send.e` (R173). -/
def execSendE (g : Sel) (q : BitVec 2) (a b : SReg) (s : State) : Host.Outcome State Fault Refusal :=
  issue (.sendE g q a b) (sendClose q a b none) s
/-- The release scope of F[3:1] (R70, R173). -/
def relScope (r : BitVec 3) : Scope := scopeOf (r - 1)
/-- `send.rel` (R155, R173). -/
def execSendRel (g : Sel) (q : BitVec 2) (a b : SReg) (r : BitVec 3) (s : State) : Host.Outcome State Fault Refusal :=
  issue (.sendRel g q a b r) (sendClose q a b (some (relScope r))) s

/-- A packet of the network may arrive: nothing its source sent to the same destination on the same queue before it is still on its
way (R154), a wake after every packet closed toward its core (R176), and no other has reached its inbound queue before it and waits
there for room, of two that reach it in one fabric cycle the one of the lower core (R172, R345). -/
def mayArrive (l : List Packet) (now i : Nat) (p : Packet) : Bool :=
  ((l.take i).all fun q => !(q.src == p.src && q.dst == p.dst && q.ring == p.ring && (q.queue == p.queue || p.queue == 4))) &&
  (p.ring || p.queue == 4 || (l.zip (List.range l.length)).all fun e =>
    e.2 == i || e.1.ring || e.1.dst != p.dst || e.1.queue != p.queue ||
      match e.1.reach with
      | none => true
      | some r =>
        let t := p.reach.getD now
        decide (t < r) || (t == r && (decide (p.src < e.1.src) || (p.src == e.1.src && decide (i < e.2)))))
/-- The packets of the network, the `i`-th and those before it of its outbound queue having left that queue (R172). -/
def leaving (l : List Packet) (i : Nat) (p : Packet) : List Packet :=
  (l.take (i + 1)).map (fun q => if q.src == p.src && q.queue == p.queue then { q with left := true } else q) ++ l.drop (i + 1)

/-- A packet taken out of the network. -/
def State.takePacket (s : State) (i : Nat) : State := { s with packets := s.packets.eraseIdx i }

/-- A packet in the slot of its launch's ring: data, then the tag (R39, R174). -/
def State.landPacket (s : State) (p : Packet) : State :=
  let t := (s.core p.src).task
  match findFirst (fun r => r.base == p.dst && r.part == t.part && r.queue == t.queue && r.seq == t.seq) s.rings, p.words with
  | some r, (n, _) :: data =>
    let slot := r.slotPlace n.toNat
    let tag := r.tagPlace n.toNat
    let w := data.foldl (fun (x : State × Nat) d => ((x.1.writeClean x.2 8 d.1.toNat).untag true 0 0 x.2 8, x.2 + 8)) (s, slot)
    let s1 := w.1.writeClean tag 8 n.toNat
    let s2 := match p.rel with
      | some rel => s1.tag true 0 0 tag 8 rel
      | none => s1.untag true 0 0 tag 8
    { s2 with landings := dropFirst (fun l => l == (0, tag, n)) s2.landings }
  | _, _ => s

/-- `PACKET_ARRIVAL` (R172, R174): the words of the i-th packet of the network have left their outbound queue; it enters its inbound
queue whole, lands in its ring slot, is dropped at a core whose task has ended or whose queues are sealed, or waits for room. -/
def execPacketArrival (i : Nat) (s0 : State) : Host.Outcome State Fault Refusal :=
  match nth s0.packets i with
  | none => .next s0
  | some p =>
    let s : State := { s0 with packets := leaving s0.packets i p }
    if p.queue = 4 then .next s0
    else if !mayArrive s.packets s.fabric i p then .next s
    else if p.ring then .next ((s.takePacket i).landPacket p)
    else
      let k := s.core p.dst
      let gone := match k.run with
        | .running | .stopped => k.sealed
        | _ => true
      if gone then .next (s.takePacket i)
      else
        let q := k.inq.toArray.getD p.queue []
        let last := k.lastIn.toArray.getD p.queue (0, 0)
        -- a packet of a lower core cannot arrive any more in a cycle in which one of a higher has entered
        if p.reach.isNone && p.src < last.2 && last.1 = s.fabric then .next s
        else if q.length + p.words.length > 32 then
          .next { s with packets := s.packets.set i { p with left := true, reach := some (p.reach.getD s.fabric) } }
        else
          let n := p.words.length
          let ws := (p.words.zip (List.range n)).map fun (e : (Word × Bool) × Nat) =>
            let w : InWord := { word := e.1.1, poison := e.1.2, err := p.err && e.2 + 1 == n, rel := if e.2 = 0 then p.rel else none }
            w
          .next ((s.takePacket i).modCore p.dst fun k => { k with
            inq := k.inq.setIfInBounds p.queue (q ++ ws), lastIn := k.lastIn.setIfInBounds p.queue (s.fabric, p.src) })

/-! ## Sleeping and waking (R176, R177) -/

/-- `wake` (R176). -/
def execWake (g : Sel) (a : SReg) (s : State) : Host.Outcome State Fault Refusal :=
  issue (.wake g a) (do
    let x ← rs a
    require (!x.2) 0x0E (w64 a.toNat)
    let k ← getC
    require (decide (x.1.toNat < Config.numCores) && inRect k.rect x.1.toNat) 0x09 x.1
    outside (modify fun s => { s with packets := s.packets ++
      [{ src := s.cur, queue := 4, ring := false, dst := x.1.toNat, words := [], err := false, rel := none, part := k.task.part, left := false,
         reach := none }] })
    return next) s
/-- `WAKE_ARRIVAL` (R176): a wake, the i-th in the network, sets its core's flag, or is dropped at a core whose task has ended. -/
def execWakeArrival (i : Nat) (s : State) : Host.Outcome State Fault Refusal :=
  match nth s.packets i with
  | none => .next s
  | some p =>
    if p.queue = 4 && mayArrive s.packets s.fabric i p then
      let s1 := s.takePacket i
      match (s.core p.dst).run with
      | .running | .stopped => .next (s1.modCore p.dst fun k => { k with wake := true })
      | _ => .next s1
    else .next s
/-- `slp` (R177). -/
def execSlp (g : Sel) (s : State) : Host.Outcome State Fault Refusal :=
  issue (.slp g) (do
    if ← follows then return next
    let k ← getC
    if k.wake then modC fun k => { k with wake := false, group := { k.group with woke := k.group.woke || k.group.pair == .leader } }
    else if k.inq.toArray.all (fun q => q.isEmpty) then freeze .sleep
    return next) s

/-! ## Write-backs, flushes and walks on their way -/

/-- `WRITEBACK_MERGE` (R136): a core's oldest write-back on its way arrives at its home slice. -/
def execWritebackMerge (c : Nat) (s : State) : Host.Outcome State Fault Refusal :=
  match findFirst (fun w => w.core == c) s.flights with
  | none => .next s
  | some w =>
    match s.sendHome w with
    | (s1, true) => .next { s1 with flights := dropFirst (fun x => x == w) s1.flights }
    | (s1, false) => .next s1
/-- `FLUSH_REQUEST` (R151): a cache that tagged a variable writes back the lines it recorded. -/
def execFlushRequest (c : Nat) (s : State) : Host.Outcome State Fault Refusal := .next (s.flushRecorded c).1
/-- `TRANSLATION_WALK` (R318, R141): a slice first gives up its victim line, if it has one at that position; then a core's request that
misses in L2 is translated at its home spring and its line filled. A fault is left to the access itself (R133). -/
def execTranslationWalk (c : Nat) (va : Word) (w : Bool) (victim : Nat) (s : State) : Host.Outcome State Fault Refusal :=
  let s1 := match nth s.l2 victim with
    | some x => if s.pinned x then s else s.l2Evict x
    | none => s
  let k := s1.core c
  if k.run != .running || inWindow va.toNat || inControl va.toNat || bits va.toNat 57 7 != 0 then .next s1
  else .next (s1.l2Fill (s1.reqOf c (!w) w false) va.toNat).1

end Sys2Proof.Machine
end

