-- ==== Sys2Proof/Machine/Vector.lean ====
section
/-!
DEFINITION. The vector instructions (R204-R229), opcodes 0x5A to 0x70, and the prefix that modifies them (R67).
-/
namespace Sys2Proof.Machine

/-! ## Elements, masks and flags -/

/-- What a prefix gives its instruction (R66, R67): mask, zeroing, rounding, fourth operand. -/
structure Pfx where
  m : Sel
  z : Bool
  rm : BitVec 3
  vc : Option VReg
  deriving DecidableEq, Repr

/-- No prefix. -/
def Pfx.none : Pfx := { m := 0, z := false, rm := 0, vc := Option.none }

/-- The environment of an instruction under a prefix's RM (R189, R209). -/
def Core.env (k : Core) (rm : BitVec 3) : Env :=
  let f := k.csrs.fpctl
  { b8 := k.csrs.b8fmt
    mode := if rm = 0 then bits f.toNat 0 3 else rm.toNat
    sat := rm == 5 || (rm == 0 && f.getLsbD 4)
    satn := f.getLsbD 3
    fz := f.getLsbD 5 }

/-- Rows of `SHAPE` (R204). -/
def Core.rows (k : Core) : Nat := 2 ^ bits k.csrs.shape.toNat 4 4
/-- Columns of `SHAPE`. -/
def Core.cols (k : Core) : Nat := 2 ^ bits k.csrs.shape.toNat 0 4
/-- Elements of `SHAPE`. -/
def Core.count (k : Core) : Nat := shapeN k.csrs.shape

/-- The mask bit of an element (R206). -/
def maskBit (w i : Nat) : Nat := if w = 4 then i / 2 else i
/-- Element i is not masked off under a prefix. -/
def Core.active (k : Core) (p : Pfx) (w i : Nat) : Bool := (k.regs.mask p.m).getLsbD (maskBit w i)
/-- Bits of element i of width w in a register (R205). -/
def elemOf (x : BitVec 1024) (w i : Nat) : Nat := bits x.toNat (w * i) w
/-- Element i of a vector register in type t with its poison (R208). -/
def Core.elem (k : Core) (v : VReg) (t i : Nat) : Nat × Bool :=
  let w := elemBits t
  let x := elemOf (k.regs.vec v) w i
  (x, (k.regs.vecPoison v).getLsbD (w * i / 32) || isPattern k.csrs.b8fmt t x)
/-- Flags set in `FPFLAGS`. -/
def Core.flagged (k : Core) (fl : Nat) : Core := { k with csrs := { k.csrs with fpflags := setFlags k.csrs.fpflags fl } }

/-- A vector register from its elements: bits, poison and flags (R207). -/
def gather (w : Nat) (l : List (Nat × Nat × Bool × Nat)) : BitVec 1024 × BitVec 32 × Nat :=
  let r := l.foldl (fun (acc : Nat × Nat × Nat) e =>
    (acc.1 + (e.2.1 % 2 ^ w) * 2 ^ (w * e.1), (if e.2.2.1 then acc.2.1 ||| 2 ^ (w * e.1 / 32) else acc.2.1), acc.2.2 ||| e.2.2.2)) (0, 0, 0)
  (BitVec.ofNat 1024 r.1, BitVec.ofNat 32 r.2.1, r.2.2)

/-- R207: VD written by an operation per element, with elements of w bits and mask bits of width wm. -/
def Core.setElems (k : Core) (d : VReg) (p : Pfx) (w wm : Nat) (op : Nat → Nat × Bool × Nat) : Core :=
  let old := k.regs.vec d
  let oldP := k.regs.vecPoison d
  let g := gather w ((List.range k.count).map fun i =>
    if k.active p wm i then (i, op i)
    else if p.z then (i, 0, false, 0)
    else (i, elemOf old w i, oldP.getLsbD (w * i / 32), 0))
  ({ k with regs := k.regs.setVec d g.1 g.2.1 }).flagged g.2.2

/-- An instruction that writes a vector register element by element in type t. -/
def vecOp (d : VReg) (p : Pfx) (t : Nat) (op : Core → Env → Nat → Nat × Bool × Nat) : M Done := do
  modC fun k => k.setElems d p (elemBits t) (elemBits t) (op k (k.env p.rm))
  return next
/-- An arithmetic instruction of two sources (R208, R216). -/
def vecTwo (d a b : VReg) (t : BitVec 4) (p : Pfx) (f : Env → Nat → Nat → Nat → Nat × Nat) : M Done :=
  vecOp d p t.toNat fun k e i =>
    let x := k.elem a t.toNat i
    let y := k.elem b t.toNat i
    e.result t.toNat (f e t.toNat x.1 y.1) (x.2 || y.2)
/-- An arithmetic instruction of one source. -/
def vecOne (d a : VReg) (t : BitVec 4) (p : Pfx) (f : Env → Nat → Nat → Nat × Nat) : M Done :=
  vecOp d p t.toNat fun k e i =>
    let x := k.elem a t.toNat i
    e.result t.toNat (f e t.toNat x.1) x.2
/-- An element of a type moved with its poison, a floating one as the pattern (R195, R208). -/
def moved (t : Nat) (x : Nat × Bool) : Nat × Bool × Nat := (if x.2 then asPoison t x.1 else x.1, x.2, if x.2 then flagPS else 0)

/-! ## Arithmetic, conversions, compares, selection -/

/-- `vfma` (R217): the addend is VC under a prefix, else VD. -/
def vecFma (d a b : VReg) (t : BitVec 4) (f : BitVec 2) (p : Pfx) : M Done :=
  vecOp d p t.toNat fun k e i =>
    let x := k.elem a t.toNat i
    let y := k.elem b t.toNat i
    let c := k.elem (p.vc.getD d) t.toNat i
    e.result t.toNat (e.fma t.toNat f x.1 y.1 c.1) (x.2 || y.2 || c.2)
/-- `vcvt` (R219). -/
def vecCvt (d a : VReg) (t src : BitVec 4) (p : Pfx) : M Done := do
  modC fun k => k.setElems d p (elemBits t.toNat) (Nat.max (elemBits t.toNat) (elemBits src.toNat)) fun i =>
    (k.env p.rm).castP src.toNat t.toNat (k.elem a src.toNat i)
  return next
/-- The condition of `vcmp` on two elements and its flags (R220). -/
def Core.vecCond (k : Core) (a b : VReg) (t : Nat) (c : BitVec 3) (i : Nat) : Bool × Nat :=
  let x := k.elem a t i
  let y := k.elem b t i
  if x.2 || y.2 then (c == 1, flagPS)
  else match fmtOf k.csrs.b8fmt t with
    | some f => (condFloat c (f.decode x.1) (f.decode y.1), 0)
    | none => (condOrd c (intOf t x.1) (intOf t y.1), 0)
/-- `vcmp` (R220): mask bit j governs one element, or two of a 4-bit type. -/
def vecCmp (m : BitVec 3) (a b : VReg) (t : BitVec 4) (c : BitVec 3) (p : Pfx) : M Done := do
  modC fun k =>
    let w := elemBits t.toNat
    let n := if w = 4 then (k.count + 1) / 2 else k.count
    let old := k.regs.mask m
    let r := (List.range n).foldl (fun (acc : Nat × Nat) j =>
      if (k.regs.mask p.m).getLsbD j then
        let l := if w = 4 then ([2 * j, 2 * j + 1].filter fun i => decide (i < k.count)).map (k.vecCond a b t.toNat c)
          else [k.vecCond a b t.toNat c j]
        ((if l.all (·.1) then acc.1 + 2 ^ j else acc.1), l.foldl (fun f x => f ||| x.2) acc.2)
      else ((if !p.z && old.getLsbD j then acc.1 + 2 ^ j else acc.1), acc.2)) (0, 0)
    ({ k with regs := k.regs.setMask m (BitVec.ofNat 128 r.1) }).flagged r.2
  return next
/-- `vsel` (R221): only the element chosen counts for PS (DESIGN CHOICE: log entry 93). -/
def vecSel (d a b : VReg) (t : BitVec 4) (m : BitVec 3) (p : Pfx) : M Done :=
  vecOp d p t.toNat fun k _ i =>
    moved t.toNat (k.elem (if (k.regs.mask m).getLsbD (maskBit (elemBits t.toNat) i) then a else b) t.toNat i)
/-- `vred` (R223). -/
def vecRed (d a : VReg) (t : BitVec 4) (x : BitVec 2) (o : BitVec 3) (p : Pfx) : M Done := do
  modC fun k =>
    let e := k.env p.rm
    let w := elemBits t.toNat
    let leaf (i : Nat) : Nat × Bool × Nat :=
      if k.active p w i then e.leaf t.toNat (k.elem a t.toNat i) else (identity e.b8 t.toNat o.toNat, false, 0)
    let tree (l : List Nat) : Nat × Bool × Nat :=
      ((reduceTree (e.combine t.toNat o.toNat) 8 (l.map leaf)).head?).getD (0, false, 0)
    let groups : List (List Nat) := match x.toNat with
      | 0 => [List.range k.count]
      | 1 => (List.range k.rows).map fun j => (List.range k.cols).map fun c => j * k.cols + c
      | _ => (List.range k.cols).map fun c => (List.range k.rows).map fun j => j * k.cols + c
    let g := gather w ((groups.zip (List.range groups.length)).map fun q => (q.2, tree q.1))
    ({ k with regs := k.regs.setVec d g.1 g.2.1 }).flagged g.2.2
  return next
/-- `vint` (R224). -/
def vecInt (d a b : VReg) (t : BitVec 4) (f : BitVec 6) (p : Pfx) : M Done :=
  vecOp d p t.toNat fun k e i =>
    let x := k.elem a t.toNat i
    let y := if f.ult 7 then k.elem b t.toNat i else (0, false)
    e.result t.toNat (intBits f.toNat (elemBits t.toNat) x.1 y.1, 0) (x.2 || y.2)
/-- `vmov` (R225). -/
def vecMov (d a : VReg) (t : BitVec 4) (p : Pfx) : M Done := vecOp d p t.toNat fun k _ i => moved t.toNat (k.elem a t.toNat i)
/-- `vmov.bc` (R225). -/
def vecMovBc (d : VReg) (r : SReg) (t : BitVec 4) (p : Pfx) : M Done := do
  let x ← rs r
  vecOp d p t.toNat fun k _ _ =>
    let v := x.1.toNat % 2 ^ elemBits t.toNat
    moved t.toNat (v, x.2 || isPattern k.csrs.b8fmt t.toNat v)
/-- `vperm.tr` (R226). -/
def vecPermTr (d a : VReg) (t : BitVec 4) (p : Pfx) : M Done :=
  vecOp d p t.toNat fun k _ i => moved t.toNat (k.elem a t.toNat (i % k.rows * k.cols + i / k.rows))
/-- `vperm.idx` (R226): a poisoned slot of VB is read as its bits (DESIGN CHOICE: log entry 93). -/
def vecPermIdx (d a b : VReg) (t : BitVec 4) (p : Pfx) : M Done :=
  vecOp d p t.toNat fun k _ i => moved t.toNat (k.elem a t.toNat (elemOf (k.regs.vec b) 8 (i % 128) % k.count))
/-- `vmsk` (R222): under a prefix each of the 128 bits is governed by its own mask bit. -/
def vecMsk (d a b : BitVec 3) (f : BitVec 6) (p : Pfx) : M Done := do
  modC fun k =>
    let x := k.regs.mask a
    let y := k.regs.mask b
    let r := match f.toNat with
      | 0 => x &&& y
      | 1 => x ||| y
      | 2 => x ^^^ y
      | 3 => x &&& ~~~y
      | 4 => ~~~x
      | _ => BitVec.allOnes 128
    let on := k.regs.mask p.m
    { k with regs := k.regs.setMask d ((r &&& on) ||| (if p.z then 0 else k.regs.mask d &&& ~~~on)) }
  return next

/-! ## Loads and stores (R211-R215) -/

/-- Where one element of a vector access stands: its number, its address, bytes and the bit inside the first byte, and of a scaled
pointer the address of its block's scale. -/
structure Spot where
  i : Nat
  ea : Word
  size : Nat
  bit : Nat
  scale : Option Word
  deriving DecidableEq, Repr

/-- The place of the element of index `e` behind a fat pointer (R196), computed in 64 bits. -/
def indexedSpot (ptr : Word) (i : Nat) (e : Int) : Spot :=
  let t := ptrFmt ptr
  let b := ptrBlg ptr
  let w : Int := (elemBits t : Nat)
  let base : Int := (ptrVa ptr : Nat)
  let len : Int := (blockLen b : Nat)
  let off : Int := if b = 0 then e * w else e / len * (8 * (blockBytes t b : Nat)) + 16 + e % len * w
  { i := i, ea := BitVec.ofInt 64 (base + off / 8), size := elemBytes t, bit := (off % 8).toNat,
    scale := if b = 0 then none else some (BitVec.ofInt 64 (base + e / len * (blockBytes t b : Nat))) }
/-- The place of element i of a strided access (R211). -/
def stridedSpot (ptr b : Word) (cols i : Nat) : Spot :=
  let w := elemBits (ptrFmt ptr)
  let off := i % cols * w
  { i := i, ea := w64 (ptrVa ptr) + b * w64 (i / cols) + w64 (off / 8), size := elemBytes (ptrFmt ptr), bit := off % 8, scale := none }
/-- The first byte of an element in its second line, where it lies across two (R196). -/
def Spot.tail (x : Spot) : Option Word :=
  let n := 64 - x.ea.toNat % 64
  if n < x.size then some (x.ea + w64 n) else none
/-- The width of the elements a pointer moves: 32 where it is scaled. -/
def ptrWidth (ptr : Word) : Nat := if ptrBlg ptr = 0 then elemBits (ptrFmt ptr) else 32
/-- The type the elements have in the register. -/
def ptrType (ptr : Word) : Nat := if ptrBlg ptr = 0 then ptrFmt ptr else 8

/-- The first spot that fails a check. -/
def firstBad (l : List Spot) (bad : Spot → Option Nat) : Option (Nat × Word) :=
  match l with
  | [] => none
  | x :: rest => match bad x with
    | some c => some (c, x.ea)
    | none => firstBad rest bad

/-- Check 6 of R212 on `n` bytes: beyond 2^57, split, leaving the tarn, or breaking R116. -/
def spanFault (c : Nat) (ea n : Nat) : Bool :=
  let e := ea + n - 1
  decide (2 ^ 57 ≤ ea) || decide (2 ^ 57 ≤ e) || inWindow ea != inWindow e ||
    (inWindow ea && match windowPlace (chipOf c) ea with
      | none => true
      | some p => decide (p / 2 ^ 21 ≠ (p + n - 1) / 2 ^ 21))

/-- The tarn that holds an address, or nothing for cached memory. -/
def tarnAt (c : Nat) (ea : Nat) : Option Nat := if inWindow ea then (windowPlace (chipOf c) ea).map fun p => p / 2 ^ 21 else none
/-- An element's bytes lie outside the tarn of an access's first byte, or a part of the access in cached memory and a part in a tarn. -/
def Spot.astray (c : Nat) (first x : Spot) : Bool :=
  tarnAt c x.ea.toNat != tarnAt c first.ea.toNat || match x.scale with
    | some y => tarnAt c y.toNat != tarnAt c first.ea.toNat
    | none => false

/-- A read tried for its poison alone; one that faults is left to the access itself. -/
def peekPoison (m : M (Nat × Bool)) : M Bool := fun s =>
  match m s with
  | .ok v s1 => .ok (v.2 || bf16.isPoison v.1) s1
  | .error _ _ => .ok false s
/-- Checks 4 to 7 of R117 on an element's bytes; a poisoned element is one that R121 may refuse, by itself or by its block's scale
(R198). -/
def spotChecks (write narrow : Bool) (poison : Spot → Bool) : List Spot → M Unit
  | [] => pure ()
  | x :: rest => do
    let s ← get
    let k := s.core s.cur
    match (s.addrFault s.cur k.level x.ea.toNat).or (s.addrFault s.cur k.level (x.ea.toNat + x.size - 1)) with
    | some c => trap c x.ea
    | none => pure ()
    lockCheck x.ea x.size write
    match x.scale with
    | some y =>
      match (s.addrFault s.cur k.level y.toNat).or (s.addrFault s.cur k.level (y.toNat + 1)) with
      | some c => trap c x.ea
      | none => pure ()
      reporting x.ea (lockCheck y 2 false)
    | none => pure ()
    if write then
      let scale ← match x.scale with
        | some y => if narrow then peekPoison (seeLog (rawRead y 2)) else pure false
        | none => pure false
      let bad := poison x || scale
      poisonCheck x.ea bad
      match x.tail with
      | some y => reporting x.ea (poisonCheck y bad)
      | none => pure ()
    spotChecks write narrow poison rest

/-- The checks of R212 on the spots that are not masked off, after check 1. -/
def vecChecks (ptr b : Word) (hasB strided gatherOp write : Bool) (l : List Spot) (poison : Spot → Bool) : M Unit := do
  let s ← get
  let k := s.core s.cur
  let t := ptrFmt ptr
  let step := Nat.max 1 (elemBits t / 8)
  require (!(t == 11 && ptrBlg ptr != 0)) 0x07 ptr
  require (!(hasB && ptrBlg ptr != 0)) 0x01 ptr
  require (!b8Unset k.csrs.b8fmt t) 0x01 (k.csrs.b8fmt.setWidth 64)
  require (decide (k.count * ptrWidth ptr ≤ 1024) && !(gatherOp && decide (k.count > 32))) 0x01 (k.csrs.shape.setWidth 64)
  if ptrBlg ptr != 0 then
    match l with
    | x :: _ => require (ptrVa ptr % 2 == 0) 0x03 x.ea
    | [] => pure ()
  else
    match l with
    | x :: _ =>
      require (ptrVa ptr % step == 0) 0x03 x.ea
      require (!(strided && (decide (b.toNat % step ≠ 0) || (elemBits t == 4 && k.cols * 4 % 8 != 0)))) 0x03 b
    | [] => pure ()
  match firstBad l fun x =>
      if spanFault s.cur x.ea.toNat x.size || (match x.scale with
        | some y => spanFault s.cur y.toNat 2
        | none => false) || (!gatherOp && (l.head?.any fun first => Spot.astray s.cur first x)) then some 0x07 else none with
  | some (c, a) => trap c a
  | none => pure ()
  spotChecks write (!isWideFloat t) poison l

/-- What an element's bytes hold, and its block's scale, each with its mark: one access (R214), which an earlier turn may have made. A
translation fault on a block's scale names the scale's own address, as its page request does (R329; DEDUCED: log entry 21). -/
def readSpot (x : Spot) : M ((Nat × Bool) × Nat × Bool) := do
  let k ← getC
  match k.partway.bind fun w => findFirst (fun e => e.1 == x.i) w.reads with
  | some e => return e.2
  | none => do
    let v ← sharedRead (rawRead x.ea x.size)
    match x.scale with
    | some y => return (v, ← sharedRead (rawRead y 2))
    | none => return (v, 0, false)
/-- The core with an element read in this turn. -/
def Core.reading (k : Core) (i : Nat) (v : (Nat × Bool) × Nat × Bool) : Core :=
  let w := k.partway.getD { reads := [], writes := [] }
  { k with partway := some { w with reads := put w.reads i v } }
/-- The element accesses of a turn that makes only some (R214): those of the elements it lists that can be made, and the core waits where
any is left. One that would stop is left, and stops in its order once the rest is read (R212). -/
def readPart (l : List Spot) : M Unit := do
  match (← getC).picks with
  | none => pure ()
  | some n => do
    l.forM fun x => if n.contains x.i then (fun s => match readSpot x s with
        | .ok v s1 => .ok () (s1.modCore s1.cur fun k => k.reading x.i v)
        | .error _ _ => .ok () s) else pure ()
    let k ← getC
    if l.all fun x => k.partway.any fun w => w.reads.any fun e => e.1 == x.i then pure () else freeze .element

/-- Elements read at their spots: number, bits, poison, flags. -/
def readSpots (ptr : Word) (b8 : BitVec 32) : List Spot → M (List (Nat × Nat × Bool × Nat))
  | [] => return []
  | x :: rest => do
    let y ← readSpot x
    let t := ptrFmt ptr
    let bitsOf := y.1.1 / 2 ^ x.bit % 2 ^ elemBits t
    let v := (bitsOf, y.1.2 || isPattern b8 t bitsOf)
    let r ← readSpots ptr b8 rest
    return (x.i, if x.scale.isSome then widen b8 t v y.2 else moved t v) :: r

/-- The elements of spots read, in this turn or over several (R214), and VD written with them by R207. -/
def readVector (d : VReg) (p : Pfx) (ptr : Word) (l : List Spot) : M Unit := do
  let k ← getC
  readPart l
  let r ← readSpots ptr k.csrs.b8fmt l
  modC fun k => { k.setElems d p (ptrWidth ptr) (ptrWidth ptr) fun i =>
    match findFirst (fun e => e.1 == i) r with
    | some e => e.2
    | none => (0, false, 0) with partway := none }

/-- 64-byte lines that spots touch. -/
def linesOf (l : List Spot) : Nat :=
  (l.foldl (fun (acc : List Nat) x =>
    let m := insertNat (insertNat acc (x.ea.toNat / 64)) ((x.ea.toNat + x.size - 1) / 64)
    match x.scale with
    | some y => insertNat m (y.toNat / 64)
    | none => m) []).length
/-- The latency of a vector load (R214). -/
def vecLatency (s : State) (ptr : Word) (l : List Spot) : Nat := s.targetLatency (ptrVa ptr) 3 5 14 64 + 3 + (linesOf l - 2)

/-- The spots of a `vld` or `vst` that are not masked off. -/
def Core.spots (k : Core) (p : Pfx) (ptr b : Word) (strided : Bool) : List Spot :=
  ((List.range k.count).filter fun i => k.active p (ptrWidth ptr) i).map fun i =>
    if strided then stridedSpot ptr b k.cols i else indexedSpot ptr i (i : Nat)

/-- `vld` (R211, R212). The checks come before its first access. -/
def vecLoad (d : VReg) (a b : SReg) (p : Pfx) : M Done := do
  let x ← rs a
  let y ← rs b
  require (!x.2) 0x0E (w64 a.toNat)
  require (!y.2) 0x0E (w64 b.toNat)
  let k ← getC
  let strided := b != 0 && ptrBlg x.1 == 0
  let l := k.spots p x.1 y.1 strided
  if !(← follows) && k.partway.isNone then vecChecks x.1 y.1 (b != 0) strided false false l fun _ => false
  readVector d p x.1 l
  return nextIn (vecLatency (← get) x.1 l)

/-- `vld.tag` (R213). -/
def vecLoadTag (d : VReg) (a b : SReg) (p : Pfx) : M Done := do
  let x ← rs a
  let y ← rs b
  require (!x.2) 0x0E (w64 a.toNat)
  require (!y.2) 0x0E (w64 b.toNat)
  let k ← getC
  let l := k.spots p x.1 0 false
  if !(← follows) && k.partway.isNone then
    require (ptrBlg x.1 == 0) 0x01 x.1
    vecChecks x.1 0 false false false false l fun _ => false
    tagCheck (w64 (ptrVa x.1)) y.1
    let s ← get
    let inside (sp : Spot) : Bool :=
      match windowPlace (chipOf s.cur) (ptrVa x.1), windowPlace (chipOf s.cur) sp.ea.toNat with
      | some q, some e =>
        match s.ringSlot k.task q with
        | some (r, i) =>
          let lo := r.base + 8 * r.slots + i * r.size
          decide (lo ≤ e) && decide (e + sp.size ≤ lo + r.size)
        | none => false
      | _, _ => false
    require (l.all inside) 0x0C (BitVec.allOnes 64)
  readVector d p x.1 l
  return nextIn (vecLatency (← get) x.1 l)

/-- The elements of a store: spot, bits, poison, flags; poisoned floating ones as the pattern (R211), scaled ones narrowed (R198). -/
def storeElems (k : Core) (ptr : Word) (d : VReg) : List Spot → M (List (Spot × Nat × Bool × Nat))
  | [] => return []
  | x :: rest => do
    let t := ptrFmt ptr
    let e := k.elem d (ptrType ptr) x.i
    let v : Nat × Bool × Nat ← match x.scale with
      | some y => do
        let sc ← sharedRead (rawRead y 2)
        pure ((k.env 0).narrow t e sc)
      | none => pure (moved t e)
    let r ← storeElems k ptr d rest
    return (x, v) :: r

/-- A 4-bit element written over the other half of its byte as memory has it. -/
def writeHalf (e : Spot × Nat × Bool × Nat) : M Unit := do
  let old ← sharedRead (rawRead e.1.ea 1)
  storeMem e.1.ea 1 (if e.1.bit = 0 then old.1 / 16 * 16 + e.2.1 else old.1 % 16 + 16 * e.2.1) e.2.2.1
/-- 4-bit elements written in order, neighbours that share a byte together (R184). -/
def writeHalves : List (Spot × Nat × Bool × Nat) → M Unit
  | [] => pure ()
  | [e] => writeHalf e
  | e :: e' :: rest =>
    if e.1.bit = 0 && e'.1.bit = 4 && e.1.ea == e'.1.ea then do
      storeMem e.1.ea 1 (e.2.1 + 16 * e'.2.1) (e.2.2.1 || e'.2.2.1)
      writeHalves rest
    else do
      writeHalf e
      writeHalves (e' :: rest)

/-- The 4-bit elements that `writeHalves` writes over the other half of their byte. -/
def loneHalves : List (Spot × Nat × Bool × Nat) → List Spot
  | [] => []
  | [e] => [e.1]
  | e :: e' :: rest => if e.1.bit = 0 && e'.1.bit = 4 && e.1.ea == e'.1.ea then loneHalves rest else e.1 :: loneHalves (e' :: rest)
/-- The cached lines of poisoned elements brought to their home slices with their classes, so that a fault of translation comes before
any element is written (R121, R212). -/
def bringClasses (l : List (Spot × Nat × Bool × Nat)) : M Unit :=
  l.forM fun e => do
    if e.2.2.1 && ((← get).uncached e.1.ea.toNat).isNone then
      let _ ← classOf e.1.ea
      match e.1.tail with
      | some y => let _ ← reporting e.1.ea (classOf y)
      | none => pure ()
/-- Elements stored in their order; each is a store of its own for the marks of a word that several share (DEDUCED: log entry 73). -/
def writeSpots (t : Nat) (l : List (Spot × Nat × Bool × Nat)) : M Unit := do
  if elemBits t = 4 then
    -- a half byte needs its byte: a fault of that read comes before any write
    (loneHalves l).forM fun x => do let _ ← sharedRead (rawRead x.ea 1)
    writeHalves l
  else l.forM fun e => storeMem e.1.ea e.1.size e.2.1 e.2.2.1
/-- A vector store past check 1 (R211, R212, R215): the elements that earlier turns have left and this one lists are stored, with those that
lie at the same address, and the core waits where any is left (R214). The checks come before its first access. -/
def vecStoreAt (d : VReg) (ptr b : Word) (hasB strided gatherOp : Bool) (l : List Spot) : M Done := do
  let k ← getC
  let t := ptrFmt ptr
  let refused (x : Spot) : Bool := !isWideFloat t && (k.elem d (ptrType ptr) x.i).2
  if !(← follows) && k.partway.isNone then vecChecks ptr b hasB strided gatherOp true l refused
  let es ← storeElems k ptr d l
  let done := (k.partway.getD { reads := [], writes := [] }).writes
  let left := es.filter fun e => !done.contains e.1.i
  if !(← follows) then bringClasses left
  let now := match k.picks with
    | none => left
    | some n => left.filter fun e => l.any fun x => n.contains x.i && x.ea == e.1.ea
  writeSpots t now
  if now.length < left.length then
    modC fun c => { c with partway := some { reads := [], writes := done ++ now.map fun e => e.1.i } }
    freeze .element
  modC fun c => { c.flagged (es.foldl (fun f e => f ||| e.2.2.2) 0) with partway := none }
  return next
/-- `vst` (R211). -/
def vecStore (d : VReg) (a b : SReg) (p : Pfx) : M Done := do
  let x ← rs a
  let y ← rs b
  require (!x.2) 0x0E (w64 a.toNat)
  require (!y.2) 0x0E (w64 b.toNat)
  let k ← getC
  let strided := b != 0 && ptrBlg x.1 == 0
  vecStoreAt d x.1 y.1 (b != 0) strided false (k.spots p x.1 y.1 strided)

/-- The spots of a gather or scatter: element i at the index in element i of VI (R215). -/
def Core.gatherSpots (k : Core) (p : Pfx) (ptr : Word) (v : VReg) : List Spot :=
  ((List.range k.count).filter fun i => k.active p (ptrWidth ptr) i).map fun i =>
    indexedSpot ptr i (signed 32 (elemOf (k.regs.vec v) 32 i))
/-- An index element that is not masked off is poisoned. -/
def Core.badIndex (k : Core) (p : Pfx) (ptr : Word) (v : VReg) : Bool :=
  (List.range k.count).any fun i => k.active p (ptrWidth ptr) i && (k.regs.vecPoison v).getLsbD i
/-- `vgat` (R215). -/
def vecGather (d : VReg) (a : SReg) (v : VReg) (p : Pfx) : M Done := do
  let x ← rs a
  require (!x.2) 0x0E (w64 a.toNat)
  let k ← getC
  require (!k.badIndex p x.1 v) 0x0E (w64 v.toNat)
  let l := k.gatherSpots p x.1 v
  if !(← follows) && k.partway.isNone then vecChecks x.1 0 false false true false l fun _ => false
  readVector d p x.1 l
  return next
/-- `vsct` (R215). -/
def vecScatter (d : VReg) (a : SReg) (v : VReg) (p : Pfx) : M Done := do
  let x ← rs a
  require (!x.2) 0x0E (w64 a.toNat)
  let k ← getC
  require (!k.badIndex p x.1 v) 0x0E (w64 v.toNat)
  vecStoreAt d x.1 0 false false true (k.gatherSpots p x.1 v)

/-! ## The prefixed instruction -/

/-- The effect of a vector instruction under a prefix (R67); an instruction that takes none never issues under one. -/
def vecBody (i : Instr) (p : Pfx) : M Done :=
  match i with
  | .vld _ d a b => vecLoad d a b p
  | .vldTag _ d a b => vecLoadTag d a b p
  | .vst _ d a b => vecStore d a b p
  | .vgat _ d a x => vecGather d a x p
  | .vsct _ d a x => vecScatter d a x p
  | .vadd _ d a b t => vecTwo d a b t p Env.add
  | .vsub _ d a b t => vecTwo d a b t p Env.sub
  | .vmul _ d a b t h => vecTwo d a b t p (if h then fun _ => mulHigh else Env.mul)
  | .vfma _ d a b t f => vecFma d a b t f p
  | .vmin _ d a b t => vecTwo d a b t p Env.min
  | .vmax _ d a b t => vecTwo d a b t p Env.max
  | .vdiv _ d a b t => vecTwo d a b t p Env.div
  | .vsqr _ d a t => vecOne d a t p Env.sqrt
  | .vsfn _ d a t f => vecOne d a t p fun e _ x => e.special f.toNat x
  | .vcvt _ d a t s => vecCvt d a t s p
  | .vcmp _ m a b t c => vecCmp m a b t c p
  | .vsel _ d a b t m => vecSel d a b t m p
  | .vred _ d a t x o => vecRed d a t x o p
  | .vint _ d a b t f => vecInt d a b t f p
  | .vmov _ d a t => vecMov d a t p
  | .vmovBc _ d r t => vecMovBc d r t p
  | .vpermTr _ d a t => vecPermTr d a t p
  | .vpermIdx _ d a b t => vecPermIdx d a b t p
  | .vmsk _ d a b f => vecMsk d a b f p
  | _ => pure next

/-- `VECTOR_PREFIX` (R67): the prefix and the instruction after it issue as one. -/
def execVectorPrefix (m : Sel) (z : Bool) (r : BitVec 3) (v : VReg) (w : Word32) (s : State) : Host.Outcome State Fault Refusal :=
  issue (.vectorPrefix m z r v w) (match prefixed w with
    | some i => vecBody i { m := m, z := z, rm := r, vc := some v }
    | none => pure next) s

/-! ## Meanings without a prefix -/

/-- `vshp` (R204). -/
def execVshp (g : Sel) (r c : BitVec 4) (s : State) : Host.Outcome State Fault Refusal :=
  issue (.vshp g r c) (do
    modC fun k => { k with csrs := { k.csrs with shape := r ++ c } }
    return next) s
/-- `vld` (R211). -/
def execVld (g : Sel) (d : VReg) (a b : SReg) (s : State) : Host.Outcome State Fault Refusal :=
  issue (.vld g d a b) (vecLoad d a b Pfx.none) s
/-- `vld.tag` (R213). -/
def execVldTag (g : Sel) (d : VReg) (a b : SReg) (s : State) : Host.Outcome State Fault Refusal :=
  issue (.vldTag g d a b) (vecLoadTag d a b Pfx.none) s
/-- `vst` (R211). -/
def execVst (g : Sel) (d : VReg) (a b : SReg) (s : State) : Host.Outcome State Fault Refusal :=
  issue (.vst g d a b) (vecStore d a b Pfx.none) s
/-- `vgat` (R215). -/
def execVgat (g : Sel) (d : VReg) (a : SReg) (i : VReg) (s : State) : Host.Outcome State Fault Refusal :=
  issue (.vgat g d a i) (vecGather d a i Pfx.none) s
/-- `vsct` (R215). -/
def execVsct (g : Sel) (d : VReg) (a : SReg) (i : VReg) (s : State) : Host.Outcome State Fault Refusal :=
  issue (.vsct g d a i) (vecScatter d a i Pfx.none) s
/-- `vadd` (R216). -/
def execVadd (g : Sel) (d a b : VReg) (t : BitVec 4) (s : State) : Host.Outcome State Fault Refusal :=
  issue (.vadd g d a b t) (vecTwo d a b t Pfx.none Env.add) s
/-- `vsub` (R216). -/
def execVsub (g : Sel) (d a b : VReg) (t : BitVec 4) (s : State) : Host.Outcome State Fault Refusal :=
  issue (.vsub g d a b t) (vecTwo d a b t Pfx.none Env.sub) s
/-- `vmul`, `vmul.hi` (R216). -/
def execVmul (g : Sel) (d a b : VReg) (t : BitVec 4) (h : Bool) (s : State) : Host.Outcome State Fault Refusal :=
  issue (.vmul g d a b t h) (vecTwo d a b t Pfx.none (if h then fun _ => mulHigh else Env.mul)) s
/-- `vfma` (R217). -/
def execVfma (g : Sel) (d a b : VReg) (t : BitVec 4) (f : BitVec 2) (s : State) : Host.Outcome State Fault Refusal :=
  issue (.vfma g d a b t f) (vecFma d a b t f Pfx.none) s
/-- `vmin` (R216). -/
def execVmin (g : Sel) (d a b : VReg) (t : BitVec 4) (s : State) : Host.Outcome State Fault Refusal :=
  issue (.vmin g d a b t) (vecTwo d a b t Pfx.none Env.min) s
/-- `vmax` (R216). -/
def execVmax (g : Sel) (d a b : VReg) (t : BitVec 4) (s : State) : Host.Outcome State Fault Refusal :=
  issue (.vmax g d a b t) (vecTwo d a b t Pfx.none Env.max) s
/-- `vdiv` (R216). -/
def execVdiv (g : Sel) (d a b : VReg) (t : BitVec 4) (s : State) : Host.Outcome State Fault Refusal :=
  issue (.vdiv g d a b t) (vecTwo d a b t Pfx.none Env.div) s
/-- `vsqr` (R216). -/
def execVsqr (g : Sel) (d a : VReg) (t : BitVec 4) (s : State) : Host.Outcome State Fault Refusal :=
  issue (.vsqr g d a t) (vecOne d a t Pfx.none Env.sqrt) s
/-- `vsfn` (R218). -/
def execVsfn (g : Sel) (d a : VReg) (t : BitVec 4) (f : BitVec 6) (s : State) : Host.Outcome State Fault Refusal :=
  issue (.vsfn g d a t f) (vecOne d a t Pfx.none fun e _ x => e.special f.toNat x) s
/-- `vcvt` (R219). -/
def execVcvt (g : Sel) (d a : VReg) (t src : BitVec 4) (s : State) : Host.Outcome State Fault Refusal :=
  issue (.vcvt g d a t src) (vecCvt d a t src Pfx.none) s
/-- `vcmp` (R220). -/
def execVcmp (g : Sel) (m : BitVec 3) (a b : VReg) (t : BitVec 4) (c : BitVec 3) (s : State) : Host.Outcome State Fault Refusal :=
  issue (.vcmp g m a b t c) (vecCmp m a b t c Pfx.none) s
/-- `vsel` (R221). -/
def execVsel (g : Sel) (d a b : VReg) (t : BitVec 4) (m : BitVec 3) (s : State) : Host.Outcome State Fault Refusal :=
  issue (.vsel g d a b t m) (vecSel d a b t m Pfx.none) s
/-- `vred` (R223). -/
def execVred (g : Sel) (d a : VReg) (t : BitVec 4) (x : BitVec 2) (o : BitVec 3) (s : State) : Host.Outcome State Fault Refusal :=
  issue (.vred g d a t x o) (vecRed d a t x o Pfx.none) s
/-- `vint` (R224). -/
def execVint (g : Sel) (d a b : VReg) (t : BitVec 4) (f : BitVec 6) (s : State) : Host.Outcome State Fault Refusal :=
  issue (.vint g d a b t f) (vecInt d a b t f Pfx.none) s
/-- `vmov` (R225). -/
def execVmov (g : Sel) (d a : VReg) (t : BitVec 4) (s : State) : Host.Outcome State Fault Refusal :=
  issue (.vmov g d a t) (vecMov d a t Pfx.none) s
/-- `vmov.bc` (R225). -/
def execVmovBc (g : Sel) (d : VReg) (r : SReg) (t : BitVec 4) (s : State) : Host.Outcome State Fault Refusal :=
  issue (.vmovBc g d r t) (vecMovBc d r t Pfx.none) s
/-- `vperm.tr` (R226). -/
def execVpermTr (g : Sel) (d a : VReg) (t : BitVec 4) (s : State) : Host.Outcome State Fault Refusal :=
  issue (.vpermTr g d a t) (vecPermTr d a t Pfx.none) s
/-- `vperm.idx` (R226). -/
def execVpermIdx (g : Sel) (d a b : VReg) (t : BitVec 4) (s : State) : Host.Outcome State Fault Refusal :=
  issue (.vpermIdx g d a b t) (vecPermIdx d a b t Pfx.none) s
/-- `vmsk` (R222). -/
def execVmsk (g : Sel) (d a b : BitVec 3) (f : BitVec 6) (s : State) : Host.Outcome State Fault Refusal :=
  issue (.vmsk g d a b f) (vecMsk d a b f Pfx.none) s

/-! ## Random numbers (R227, R229) -/

/-- n steps of the generator: the elements in order and the state after them. -/
def rngRun (t : Nat) : Nat → Nat → List Nat × Nat
  | 0, st => ([], st)
  | n + 1, st => let r := rngRun t n (rngNext st); (rngElem t (rngOut st) :: r.1, r.2)
/-- The generator's state. -/
def Csrs.rng (x : Csrs) : Nat := x.rngs0.toNat + 2 ^ 64 * x.rngs1.toNat
/-- The generator's state written. -/
def Csrs.setRng (x : Csrs) (st : Nat) : Csrs := { x with rngs0 := w64 st, rngs1 := w64 (st / 2 ^ 64) }

/-- `rng` (R229): a pair's follower takes its leader's values. -/
def execRng (g : Sel) (d : VReg) (t : BitVec 4) (s : State) : Host.Outcome State Fault Refusal :=
  issue (.rng g d t) (do
    let k ← getC
    let r := rngRun t.toNat k.count k.csrs.rng
    let v ← shared (pure ((gather 32 ((r.1.zip (List.range r.1.length)).map fun e => (e.2, e.1, false, 0))).1.toNat, 0))
    let st ← shared (pure (r.2, 0))
    modC fun k => { k with regs := k.regs.setVec d (BitVec.ofNat 1024 v.1) 0, csrs := k.csrs.setRng st.1 }
    return next) s
/-- `rng.jump` (R229). -/
def execRngJump (g : Sel) (t : BitVec 4) (s : State) : Host.Outcome State Fault Refusal :=
  issue (.rngJump g t) (do
    let k ← getC
    let st ← shared (pure (rngJump k.csrs.rng, 0))
    modC fun k => { k with csrs := k.csrs.setRng st.1 }
    return next) s

end Sys2Proof.Machine
end

