-- ==== Sys2Proof/Machine/Units.lean ====
section
/-!
DEFINITION. What the agents beside the cores do with memory: engines and sequencers read and write tarns at their tarn and cached
bytes at their home slices (R155, R240, R255), and a translation fault holds their command for a page request (R328, R329). Also
what every engine command does at issue: its descriptor's checks, its locks, its post and its start offset (R35, R157, R169, R238).
-/
namespace Sys2Proof.Machine

/-- Why an agent's access stops: a translation fault with the request that met it, or a full side log of a core whose own write has to
come first. -/
inductive Held where
  | fault (va cause lvl : Nat) (q : Req)
  | busy
  deriving DecidableEq, Repr

/-- A computation of an agent. -/
abbrev U := EStateM Held State

/-- Whose access it is: partition, ASID, whether of a user-level issuer, the chiplet it is seen from, the class of its tarn bytes, the
core whose earlier writes and error budget it shares, and the generation of a context that is kept with a stopped launch. -/
structure Agent where
  part : Nat
  asid : BitVec 16
  user : Bool
  chip : Nat
  cls : Nat
  who : Option Nat
  kept : Option (BitVec 16) := none
  deriving DecidableEq, Repr

/-- A class by its code (R302). -/
def classCode : RelClass → Nat
  | .prot => 0
  | .detect => 1
  | .none => 2

/-- An engine command's accesses (R326). -/
def Issuer.agent (i : Issuer) : Agent :=
  { part := i.part, asid := i.asid, user := i.level == .user, chip := chipOf i.core, cls := classCode i.cls, who := some i.core }
/-- The translation request of an agent. -/
def Agent.req (a : Agent) (r w : Bool) : Req :=
  { part := a.part, asid := a.asid, user := a.user, r := r, w := w, x := false, who := a.who, kept := a.kept }
/-- The place of an address that is not cached: a tarn's (R115). -/
def Agent.place (a : Agent) (va : Nat) : Option Nat := if inWindow va then windowPlace a.chip va else none

/-- A result whose Bool is false where a side log was full. -/
def mustU (r : State × Bool) : U Unit := do
  set r.1
  if r.2 then pure () else throw .busy
/-- The line of a cached address brought into its home slice: its class (R134). Update-only lines merge first and the core's own
write-backs arrive first (R122, R130). -/
def fillU (a : Agent) (va : Nat) (r w : Bool) : U Nat := do
  match (if a.kept.isSome then none else a.who) with
  | some c => do
    let s ← get
    mustU (s.settle c fun x => x.covers a.asid (va / 64))
  | none => pure ()
  let s ← get
  set (s.mergeAll a.part a.asid (va / 64) none).1
  let s ← get
  match s.l2Fill (a.req r w) va with
  | (s1, .ok _ c) => do
    set s1
    return c
  | (s1, .fault c l) => do
    set s1
    throw (.fault va c l (a.req r w))

/-- The class of an address for an agent (R256). -/
def classU (a : Agent) (va : Nat) (w : Bool) : U Nat :=
  match a.place va with
  | some _ => return a.cls
  | none => fillU a va (!w) w

/-- `n` bytes of one 64-byte unit: value, whether a word touched is marked, class. -/
def readUnit (a : Agent) (va n : Nat) : U (Nat × Bool × Nat) :=
  match a.place va with
  | some p => do
    let s ← get
    set (s.flushTags true 0 0 p n none).1
    modify fun s => s.meetError p a.who va
    let s ← get
    return (s.bytes p n, s.anyMarked p n, a.cls)
  | none => do
    let s ← get
    set (s.flushTags false a.part a.asid va n none).1
    let c ← fillU a va true false
    let s ← get
    match s.l2Get a.part a.asid (va / 64) with
    | some x => return (lineBytes x.data (va % 64) n, (x.marks &&& wordMask (va % 64) n) != 0, c)
    | none => return (0, false, c)

/-- `n` bytes from an address on, unit by unit: value, marked, lowest class (its code is the highest). -/
def readFrom (a : Agent) : Nat → Nat → Nat → U (Nat × Bool × Nat)
  | 0, _, _ => return (0, false, 0)
  | fuel + 1, va, n =>
    if n = 0 then return (0, false, 0)
    else do
      let k := Nat.min n (64 - va % 64)
      let x ← readUnit a va k
      let y ← readFrom a fuel (va + k) (n - k)
      return (x.1 + 2 ^ (8 * k) * y.1, x.2.1 || y.2.1, Nat.max x.2.2 y.2.2)
/-- `n` bytes read. -/
def readU (a : Agent) (va n : Nat) : U (Nat × Bool × Nat) := readFrom a (n / 64 + 2) va n

/-- `n` bytes of one unit written, clean or poisoned; into class none cached memory no mark is written (R120). -/
def writeUnit (a : Agent) (va n v : Nat) (poison : Bool) : U Unit :=
  match a.place va with
  | some p =>
    modify fun s => (s.writePlace p n v poison).untag true 0 0 p n
  | none => do
    let c ← fillU a va false true
    let s ← get
    match s.l2Get a.part a.asid (va / 64) with
    | some x =>
      let m := byteMask (va % 64) n
      let marks := if poison && c != 2 then wordMask (va % 64) n else 0
      set ((s.l2Put { x with
        data := mergeData x.data (BitVec.ofNat 512 (v * 2 ^ (8 * (va % 64)))) m
        dirty := x.dirty ||| m
        marks := mergeMarks x.marks marks m }).untag false a.part a.asid va n)
    | none => pure ()
/-- `n` bytes from an address on written, unit by unit. -/
def writeFrom (a : Agent) (poison : Bool) : Nat → Nat → Nat → Nat → U Unit
  | 0, _, _, _ => pure ()
  | fuel + 1, va, n, v =>
    if n = 0 then pure ()
    else do
      let k := Nat.min n (64 - va % 64)
      writeUnit a va k (v % 2 ^ (8 * k)) poison
      writeFrom a poison fuel (va + k) (n - k) (v / 2 ^ (8 * k))
/-- `n` bytes written. -/
def writeU (a : Agent) (va n v : Nat) (poison : Bool) : U Unit := writeFrom a poison (n / 64 + 2) va n v

/-- An element of type `t` at a bit address read: bits, poison by mark or pattern, lowest class of its bytes. -/
def readElem (a : Agent) (b8 : BitVec 32) (t bit : Nat) : U (Nat × Bool × Nat) := do
  let r ← readU a (bit / 8) (elemBytes t)
  let v := r.1 / 2 ^ (bit % 8) % 2 ^ elemBits t
  return (v, r.2.1 || isPattern b8 t v, r.2.2)
/-- An element of type `t` at a bit address written; a 4-bit one over the other half of its byte (R184). -/
def writeElem (a : Agent) (t bit v : Nat) (poison : Bool) : U Unit := do
  if elemBits t = 4 then
    let old ← readU a (bit / 8) 1
    let o := old.1
    writeU a (bit / 8) 1 (if bit % 8 = 0 then o / 16 * 16 + v % 16 else o % 16 + 16 * (v % 16)) poison
  else writeU a (bit / 8) (elemBytes t) v poison

/-- An element of an engine's output with its poison, by the rules of R241, R255 and R272: into class none a floating one is the
pattern without a mark, any other is unmarked and reported; `bare` keeps the bits of an unconverted copy where a mark carries the
poison. The answer is whether it is reported. -/
def putElem (a : Agent) (t bit v : Nat) (poison bare : Bool) : U Bool := do
  let none_ ← (match a.place (bit / 8) with
    | some _ => pure false
    | none => do return (← classU a (bit / 8) true) == 2)
  writeElem a t bit (if poison && !(bare && !none_) then asPoison t v else v) poison
  return poison && none_ && !isWideFloat t
/-- A number from digits of w bits, the first lowest. -/
def packed (w : Nat) : List Nat → Nat
  | [] => 0
  | x :: rest => x % 2 ^ w + 2 ^ w * packed w rest
/-- A row of an engine's output from a bit address on: the clean elements of a word that they fill are written together, so that the
word loses an old mark (R120; DEDUCED: log entry 73); any other by itself, with `bare` as `putElem` takes it. The answer is the first
address to report. -/
def putRow (a : Agent) (t : Nat) (bare : Bool) : Nat → Nat → List (Nat × Bool) → U (Option Nat)
  | 0, _, _ => return none
  | _ + 1, _, [] => return none
  | fuel + 1, bit, x :: rest => do
    let w := elemBits t
    let k := 32 / w
    let l := x :: rest
    if bit % 32 = 0 && (l.take k).length = k && (l.take k).all (fun e => !e.2) then do
      writeU a (bit / 8) 4 (packed w ((l.take k).map (·.1))) false
      putRow a t bare fuel (bit + 32) (l.drop k)
    else do
      let rep ← putElem a t bit x.1 x.2 bare
      let r ← putRow a t bare fuel (bit + w) rest
      return if rep then some (bit / 8) else r

/-! ## A command held by a fault (R242, R261, R328) -/

/-- Every command of a core changed. -/
def Core.mapCmds (k : Core) (f : Cmd → Cmd) : Core :=
  { k with matq := k.matq.map f, thrq := k.thrq.map f, chan := k.chan.map fun ch => { ch with cmds := ch.cmds.map f } }
/-- One command of a core changed. -/
def State.modCmd (s : State) (c id : Nat) (f : Cmd → Cmd) : State :=
  s.modCore c fun k => k.mapCmds fun y => if y.id == id then f y else y

/-- What stays of an agent's work that stopped: of a walk that met a fault, the entries it read (R318). -/
def State.tried (s : State) : Held → State
  | .fault va _ _ q => (s.l2Fill q va).1
  | .busy => s
/-- The generation of the context that a command belongs to, when a page is requested for it (R329): a kept context's own, else that of
the core at that moment. -/
def State.genOf (s : State) (i : Issuer) : BitVec 16 := if s.kept i then i.gen else (s.core i.core).gen
/-- A step of a command of a core: on a fault nothing of it remains but its walk and the page request, which holds the command. -/
def State.unitStep (s : State) (c id : Nat) (m : U Unit) : State :=
  match m s with
  | .ok _ s1 => s1
  | .error .busy _ => s
  | .error (.fault va cause lvl q) _ =>
    match (s.core c).cmd id with
    | some x =>
      let i := x.issuer
      let r := (s.tried (.fault va cause lvl q)).request ((s.part i.part).homeSpring va) i.part (s.genOf i) i.asid c 2 cause q.acc lvl va
      r.1.modCmd c id fun y => { y with held := some r.2 }
    | none => s

/-- A command of a core cancelled with every later one of its queue or channel (R242, R261): locks and landings released, posts
removed; the channel's watermark is left where the command itself stopped. `q` picks the queue. -/
def State.cancelFrom (s : State) (c id : Nat) (q : Core → List Cmd) : State :=
  ((q (s.core c)).dropWhile fun x => x.id != id).reverse.foldl (fun st x => (st.withdraw (pondOf c) x).modCore c fun k => k.remove x true) s
/-- The queue or channel that holds a command. -/
def Core.queueOf (k : Core) (id : Nat) : List Cmd :=
  let has (l : List Cmd) : Bool := l.any fun x => x.id == id
  if has k.matq then k.matq
  else if has k.thrq then k.thrq
  else if has k.chan[0].cmds then k.chan[0].cmds
  else if has k.chan[1].cmds then k.chan[1].cmds
  else if has k.chan[2].cmds then k.chan[2].cmds
  else k.chan[3].cmds
/-- The pending cause a failed page request of a command raises: 0x05 for a protection fault, 0x04 for any other (R242, R261). -/
def failCause (cause : Nat) : Nat := if cause = 0x05 then 0x05 else 0x04

/-! ## Issuing a command -/

/-- Who issues a command, at its issue. -/
def issuerNow : M Issuer := do
  let s ← get
  let k := s.core s.cur
  return { core := s.cur, part := k.task.part, asid := k.csrs.asid, level := k.level, pc := k.pc, cls := k.task.cls, cap := k.task.cap,
           b8 := k.csrs.b8fmt, gen := k.gen }

/-- Checks 1 to 5 of a command's descriptor at the address in a register, `words` doublewords long: its address and contents. -/
def descriptor (a : SReg) (x : Word × Bool) (n : Nat) : M Nat := do
  require (!x.2) 0x0E (w64 a.toNat)
  let ea := x.1
  require (ea.toNat % n == 0) 0x03 ea
  let s ← get
  require (bits ea.toNat 57 7 == 0 && inWindow ea.toNat) 0x07 ea
  match windowPlace (chipOf s.cur) ea.toNat, s.addrFault s.cur (s.core s.cur).level ea.toNat with
  | none, _ => trap 0x07 ea
  | some _, some c => trap c ea
  | some p, none => do
    modify fun s => s.meetError p (some s.cur) ea.toNat
    let s ← get
    require (!s.anyMarked p n) 0x0E ea
    return s.bytes p n

/-- Some tarn byte of a range lies in a save area, which user level may not name (R117 check 4). -/
def reservedShare (va n : Nat) : Bool := bits va 14 1 == 1 || bits (va + n - 1) 14 1 == 1 || decide (n > 16384)
/-- Some byte of an operand's rows does. -/
def reservedRows (va rows stride n : Nat) : Bool := (List.range rows).any fun r => reservedShare (va + r * stride) n
/-- The address checks on one operand, `rows` of `row` bytes in a range of `n` (R237, R253, R286): beyond 2^57, split, leaving its tarn or
breaking R116; alignment; then checks 4 and 5 of R117 on its tarn bytes. -/
def operandRows (ptr : Word) (n : Nat) (aligned : Bool) (rows stride row : Nat) : M Unit := do
  let s ← get
  let va := ptrVa ptr
  require (!(decide (2 ^ 57 < va + n) || spanFault s.cur va n)) 0x07 ptr
  require aligned 0x03 ptr
  if inWindow va then
    let k := s.core s.cur
    if k.level == .user && reservedRows va rows stride row then trap 0x05 ptr
    match (windowPlace (chipOf s.cur) va).bind (s.tarnFault s.cur k.level) with
    | some c => trap c ptr
    | none => pure ()
/-- The same for an operand without gaps. -/
def operandCheck (ptr : Word) (n : Nat) (aligned : Bool) : M Unit := operandRows ptr n aligned 1 0 n

/-- The start moment of a command with an offset, or the timing fault for one that lies in the past (R35). -/
def startMoment (lit : Option Word32) : M (Option Word) := do
  match lit with
  | none => return none
  | some l => do
    let k ← getC
    let d := l - k.csrs.taskclk.setWidth 32
    require (decide (d.toNat < 2 ^ 31)) 0x0B k.pc
    return some (k.csrs.taskclk + d.setWidth 64)

/-- The span of an operand seen from the core. -/
def operandSpan (ptr : Word) (n : Nat) : M Span := do
  let s ← get
  return s.spanAt s.cur (ptrVa ptr) n
/-- Two operands share a byte: of one place, or of one stretch of addresses, also where these break R116 (R252, R298, R299). -/
def operandsMeet (p : Word) (n : Nat) (q : Word) (m : Nat) : M Bool := do
  let a ← operandSpan p n
  let b ← operandSpan q m
  return a.meets b || (decide (ptrVa p < ptrVa q + m) && decide (ptrVa q < ptrVa p + n))
/-- Room for `n` more locks in the pond's 64-entry table, or the freeze (R34). -/
def lockRoom (n : Nat) : M Unit := do
  let s ← get
  if (s.pond (pondOf s.cur)).locks.length + n > 64 then freeze .engine
/-- The next command number. -/
def newCmd : M Nat := do
  modify fun s => { s with dev := { s.dev with cmd := s.dev.cmd + 1 } }
  return (← get).dev.cmd
/-- A lock registered. -/
def addLock (id : Nat) (l : List Span) (write copy : Bool) : M Unit :=
  modify fun s => s.modPond (pondOf s.cur) fun p =>
    p.issueLock s.fabric { cmd := id, core := s.cur, spans := l, write := write, copy := copy, seq := 0, at_ := 0 }
/-- Bytes of a cached source range written back, as `wb` would (R238, R254). -/
def flushSource (ptr : Word) (n : Nat) : M Unit := if inWindow (ptrVa ptr) then pure () else rangeOp (ptrVa ptr) n true false
/-- L1 lines over a cached destination range written back and dropped, as `inv` would. -/
def dropTarget (ptr : Word) (n : Nat) : M Unit := if inWindow (ptrVa ptr) then pure () else rangeOp (ptrVa ptr) n false false

/-- A root that holds another instance of the number makes the command wait (R167). -/
def rootFree (bar : Nat) : M Unit := do
  let s ← get
  if s.rootBusy ((s.core s.cur).instanceOf bar) then freeze (.barrierRoot bar)
/-- Bytes posted to a barrier at issue (R169). -/
def postBytes (bar n : Nat) : M Post := do
  let s ← get
  let name := (s.core s.cur).instanceOf bar
  let x := s.dev.xfer + 1
  set (({ s with dev := { s.dev with xfer := x } }).toRoot name (evPost, s.cur, x, n))
  return { name := name, xfer := x, left := n }
/-- A count left to a receiver's `bexp` (R260): landings carry no phase. -/
def countOnly (bar n : Nat) : M Post := do
  let s ← get
  return { name := (s.core s.cur).instanceOf bar, xfer := 0, left := n }

/-- Bytes of a command performed: they land on its barrier, and what it has left to land shrinks (R169). -/
def State.landed (s : State) (c id n : Nat) : State :=
  match (s.core c).cmd id with
  | some x =>
    (s.land x.count n).modCmd c id fun y => { y with count := y.count.map fun p => { p with left := p.left - n } }
  | none => s

end Sys2Proof.Machine
end

