-- ==== Sys2Proof/Machine/System.lean ====
section
/-!
DEFINITION. Launching a kernel from a core and event counters (R112, R113), and what a sequencer does with a launch queue's records
and counters (R356, R357, R360).
-/
namespace Sys2Proof.Machine

/-! ## The launch control page (R356, R357) -/

/-- A doubleword of a partition's launch control page. -/
def State.control (s : State) (p off : Nat) : Nat := s.bytes (ctlPlace p (0x1000 + off)) 8
/-- Doubleword `i` of queue descriptor `q`. -/
def State.queueDesc (s : State) (p q i : Nat) : Nat := s.control p (64 * q + 8 * i)
/-- The sequencer that handles a partition's queues, as an agent under a queue's ASID (R368). -/
def State.sequencer (s : State) (p q : Nat) : Agent :=
  { part := p, asid := BitVec.ofNat 16 (s.queueDesc p q 2), user := false, chip := (nth (s.part p).chips (Config.edgeOf p).toNat).getD 0,
    cls := 0, who := none }
/-- 2^LOGN slots of a queue. -/
def State.slots (s : State) (p q : Nat) : Nat := 2 ^ (s.queueDesc p q 0 % 64)
/-- An agent's work done where no fault stops it; a write that faults is lost, but for its walk (R318). -/
def State.doU (s : State) (m : U Unit) : State :=
  match m s with
  | .ok _ s1 => s1
  | .error h _ => s.tried h
/-- A record's status doubleword written (R360). -/
def State.setStatus (s : State) (p q n st : Nat) : State :=
  s.doU (writeU (s.sequencer p q) (bits (s.queueDesc p q 1) 3 54 * 8 + 8 * (n % s.slots p q)) 8 (n % 2 ^ 56 * 256 + st) false)
/-- The address of a record's slot (R360). -/
def State.slotAddr (s : State) (p q n : Nat) : Nat := bits (s.queueDesc p q 0) 6 51 * 64 + 64 * (n % s.slots p q)

/-- The queue is full: the record whose slot the next one takes has no final state yet (R360). -/
def State.queueFull (s : State) (p q : Nat) : Bool :=
  let l := (s.part p).queues.toArray.getD q LaunchQueue.reset
  decide (s.slots p q ≤ l.next) && l.openSeqs.contains (l.next - s.slots p q)
/-- A partition's queue changed. -/
def State.modQueue (s : State) (p q : Nat) (f : LaunchQueue → LaunchQueue) : State :=
  s.modPart p fun x => { x with queues := x.queues.setIfInBounds q (f (x.queues.toArray.getD q LaunchQueue.reset)) }
/-- The 512 bits of a record. -/
def recordNat (r : Vector Word 8) : Nat := (r.toList.reverse).foldl (fun a x => a * 2 ^ 64 + x.toNat) 0
/-- The doublewords of 64 bytes. -/
def recordOf (v : Nat) : Vector Word 8 := Vector.ofFn fun i => w64 (v / 2 ^ (64 * i.val))

/-- A record queued (R360): its sequence number, or the code for a full queue (R112). -/
def State.queueRecord (s : State) (p q : Nat) (r : Vector Word 8) (rel : Option Rel) : State × Word :=
  if s.queueFull p q then (s, 0x8000000000000001)
  else
    let n := ((s.part p).queues.toArray.getD q LaunchQueue.reset).next
    let s1 := s.doU (writeU (s.sequencer p q) (s.slotAddr p q n) 64 (recordNat r) false)
    let s2 := s1.setStatus p q n 0x01
    (s2.modQueue p q fun l => { l with
      next := n + 1, openSeqs := l.openSeqs ++ [n], queued := l.queued ++ [{ seq := n, slot := n % s.slots p q, words := r, rel := rel }] },
      w64 (n % 2 ^ 63))

/-- `lnch` (R112). Its release stands after the checks of its register and before the record is read, so that a record which then faults
or holds a marked word finds it performed (DESIGN CHOICE: log entry 86). -/
def execLnch (g : Sel) (d a : SReg) (q : BitVec 3) (s : State) : Host.Outcome State Fault Refusal :=
  issue (.lnch g d a q) (do
    let x ← rs a
    let s0 ← get
    let r ← sharedWord do
      require (!x.2) 0x0E (w64 a.toNat)
      require (x.1.toNat % 64 == 0) 0x03 x.1
      require (bits x.1.toNat 57 7 == 0 && !inWindow x.1.toNat) 0x07 x.1
      release .dev
      let v ← homeRead x.1 64
      require (!v.2) 0x0E x.1
      let s ← get
      let y := s.queueRecord (s.core s.cur).task.part q.toNat (recordOf v.1) (some { core := s.cur, scope := .dev })
      set y.1
      return (y.2, false)
    -- a push that stops queues no record (R11)
    restoring s0 (ws d r.1 false)
    return next) s

/-! ## Event counters (R113) -/

/-- A counter read at its home slice or tarn, the releasers flushed first. A marked one decides no wait: it traps, with its address
(R310; DEDUCED: log entry 76). -/
def counterRead (ea : Word) : M Nat := do
  let s ← get
  match s.uncached ea.toNat with
  | some p => do
    guardLog (s.flushTags true 0 0 p 8 (some s.cur))
    let v ← placeRead p 8 ea
    require (!v.2) 0x0E ea
    return v.1
  | none => do
    let v ← homeRead ea 8
    require (!v.2) 0x0E ea
    return v.1
/-- `evw` (R113). -/
def execEvw (g : Sel) (a b : SReg) (s : State) : Host.Outcome State Fault Refusal :=
  issue (.evw g a b) (do
    let x ← rs a
    let y ← rs b
    outside do
      checkAccess ((badReg a x).or (badReg b y)) x.1 8 false
      let v ← counterRead x.1
      if v < y.1.toNat then freeze .awaitCounter
      dropLines .dev
    return next) s
/-- The address of the counter that the `evw` of a core waits for, unless the counter has come (R113). -/
def State.counterShort (s : State) (c : Nat) : Option Word :=
  match fetch { s with cur := c } with
  | .ok (.evw _ a b) s1 =>
    let look : M (Option Word) := do
      let x ← rs a
      let y ← rs b
      let v ← counterRead x.1
      return if v < y.1.toNat then some x.1 else none
    match look s1 with
    | .ok r _ => r
    | .error _ _ => none
  | _ => none
/-- `EVW_TIMEOUT` (R113): unless the counter has come; `XVAL` is its address, register A of the waiting `evw`. A core whose `evw` cannot
be fetched, or whose counter cannot be read, any more meets that at the instruction itself. -/
def execEvwTimeout (c : Nat) (s : State) : Host.Outcome State Fault Refusal :=
  match s.counterShort c with
  | some a => .next (s.freezeFault c [.awaitCounter] (some (.evw 0 0 0)) fun _ => a)
  | none => .next s
/-- `evs` (R113): the release, then the addition at the counter's home, tagged with the releaser (R151). -/
def execEvs (g : Sel) (a b : SReg) (s : State) : Host.Outcome State Fault Refusal :=
  issue (.evs g a b) (do
    let x ← rs a
    let y ← rs b
    outside do
      checkAccess ((badReg a x).or (badReg b y)) x.1 8 true
      release .dev
      let s ← get
      let c := s.cur
      let k := s.core c
      let rel : Rel := { core := c, scope := .dev }
      match s.uncached x.1.toNat with
      | some p => do
        let _ ← placeAtomic p 0x3B 3 y.1.toNat false 0 x.1
        modify fun s => s.tag true 0 0 p 8 rel
      | none => do
        giveUpLine (x.1.toNat / 64)
        let s ← get
        guardLog (s.flushTags false k.task.part k.csrs.asid x.1.toNat 8 (some c))
        let s ← get
        guardLog (s.atomicHome c k.level k.csrs.asid x.1.toNat 0x3B 3 y.1.toNat false 0 (some rel))
    return next) s

/-- An addition to a counter by a sequencer (R361). -/
def counterAdd (a : Agent) (va n : Nat) : U Unit := do
  let v ← readU a va 8
  writeU a va 8 ((v.1 + n) % 2 ^ 64) false

end Sys2Proof.Machine
end

