-- ==== Sys2Proof/Machine/Copy.lean ====
section
/-!
DEFINITION. The copy engine (R250-R264): `cpy` and `cpyq`, and a copy's start, beats and completion.
-/
namespace Sys2Proof.Machine

/-! ## The descriptor (R251, R252) -/

/-- Element width of a fat pointer's type. -/
def wOf (p : Word) : Nat := elemBits (ptrFmt p)
/-- The source row stride in force. -/
def CopyDesc.srcStride (d : CopyDesc) : Nat := if d.sstr = 0 then d.len * wOf d.src / 8 else d.sstr
/-- Bytes of the source range (R252). -/
def CopyDesc.srcSpan (d : CopyDesc) : Nat :=
  if ptrBlg d.src = 0 then (d.rows - 1) * d.srcStride + d.len * wOf d.src / 8
  else spanBytes (ptrFmt d.src) (ptrBlg d.src) (d.rows * d.len)
/-- Bytes of the destination range from its first byte to the last byte of its last row. -/
def CopyDesc.dstSpan (d : CopyDesc) : Nat := (d.rows - 1) * d.rowStride + d.rowBytes
/-- Counted bytes of the destination data (R260). -/
def CopyDesc.dataBytes (d : CopyDesc) : Nat := d.rows * d.len * wOf d.dst / 8
/-- Source bytes moved, with the scales of a scaled source (R264). -/
def CopyDesc.srcBytes (d : CopyDesc) : Nat :=
  d.rows * d.len * wOf d.src / 8 + if ptrBlg d.src = 0 then 0 else 2 * ((d.rows * d.len + blockLen (ptrBlg d.src) - 1) / blockLen (ptrBlg d.src))
/-- Bytes on the wider side (R264). -/
def CopyDesc.wide (d : CopyDesc) : Nat := Nat.max d.srcBytes d.dataBytes

/-- The descriptor's fields, the ring still unknown. -/
def copyFields (v : Nat) (up : Bool) : CopyDesc :=
  let w (i : Nat) : Nat := v / 2 ^ (64 * i) % 2 ^ 64
  { src := w64 (w 0), dst := w64 (w 1), sstr := bits (w 2) 0 32, dstr := bits (w 2) 32 32, len := bits (w 3) 32 20 + 1,
    rows := bits (w 3) 16 16 + 1, ring := none, rm := BitVec.ofNat 3 (bits (w 4) 6 3), up := up }
/-- RING of a descriptor. -/
def copyRing (v : Nat) : Bool := (v / 2 ^ 256).testBit 15
/-- BM of a descriptor. -/
def copyBm (v : Nat) : Nat := bits (v / 2 ^ 256) 13 2
/-- BAR of a descriptor. -/
def copyBar (v : Nat) : Nat := bits (v / 2 ^ 256) 9 4

/-- A descriptor is broken (R251, R252), but for the overlap of its ranges; `hasB` says that B is not s0. -/
def copyBroken (v : Nat) (hasB : Bool) : Bool :=
  let w (i : Nat) : Nat := v / 2 ^ (64 * i) % 2 ^ 64
  let d := copyFields v false
  let raw (p : Word) : Bool := ptrFmt p == 11
  bits (w 3) 52 12 != 0 || bits (w 3) 0 16 != 0 || bits (w 4) 16 48 != 0 || bits (w 4) 0 6 != 0 || w 5 != 0 || w 6 != 0 || w 7 != 0 ||
  copyBm v == 3 || (copyBm v == 0 && copyBar v != 0) || decide (d.rm.toNat ≥ 6) ||
  ptrBlg d.dst != 0 || (ptrBlg d.src != 0 && d.sstr != 0) || raw d.src != raw d.dst || (raw d.dst && ptrBlg d.src != 0) ||
  ((wOf d.src == 4 || wOf d.dst == 4) && d.len % 2 == 1) || (d.dstr != 0 && decide (d.dstr < d.rowBytes)) ||
  (!copyRing v && hasB) || (copyRing v && (d.dstr != 0 || d.rows != 1))

/-- The ring registered for the core's launch whose base is at an address. -/
def State.ringAt (s : State) (va : Nat) : Option Ring :=
  let k := s.core s.cur
  match (if inWindow va then windowPlace (chipOf s.cur) va else none) with
  | some p => findFirst (fun r => r.base == p && r.part == k.task.part && r.queue == k.task.queue && r.seq == k.task.seq) s.rings
  | none => none

/-! ## Issue (R253, R254) -/

/-- `cpy` (R253, R254). -/
def copyIssue (a b : SReg) (up : Bool) (h : BitVec 2) (lit : Option Word32) : M Done := do
  let x ← rs a
  let y ← rs b
  if ← follows then return next
  require (!x.2) 0x0E (w64 a.toNat)
  require (!(y.2 && b != 0)) 0x0E (w64 b.toNat)
  let v ← descriptor a x 64
  let d0 := copyFields v up
  let s ← get
  let ring := if copyRing v then s.ringAt (ptrVa d0.dst) else none
  let d := match ring with
    | some r => { d0 with ring := some (y.1, r.slots, r.size) }
    | none => d0
  require (!copyBroken v (b != 0)) 0x01 x.1
  let onTag ← (match ring with
    | some r => operandsMeet d.src d.srcSpan (d.dst + w64 (8 * (y.1.toNat % r.slots))) 8
    | none => pure false)
  let onData ← operandsMeet d.src d.srcSpan (w64 d.firstByte) d.dstSpan
  require (!(onData || onTag)) 0x01 x.1
  let k ← getC
  require (!(b8Unset k.csrs.b8fmt (ptrFmt d.src) || b8Unset k.csrs.b8fmt (ptrFmt d.dst))) 0x01 (k.csrs.b8fmt.setWidth 64)
  let aligned (p : Word) (stride : Nat) : Bool := let n := Nat.max 1 (wOf p / 8); ptrVa p % n == 0 && stride % n == 0
  if ptrBlg d.src = 0 then operandRows d.src d.srcSpan (aligned d.src d.sstr) d.rows d.srcStride (d.len * wOf d.src / 8)
  else operandCheck d.src d.srcSpan (aligned d.src 0 && ptrVa d.src % 2 == 0)
  operandRows d.dst d.dstSpan (aligned d.dst d.dstr) d.rows d.rowStride d.rowBytes
  if copyRing v then
    require (match ring with
      | some r => y.1 != BitVec.allOnes 64 && decide (d.dataBytes ≤ r.size)
      | none => false) 0x07 d.dst
  let start ← startMoment lit
  if (k.chan.toArray.getD h.toNat Channel.reset).cmds.length ≥ 4 then freeze .engine
  lockRoom 2
  if copyBm v = 1 then rootFree (copyBar v)
  flushSource d.src d.srcSpan
  dropTarget d.dst d.dstSpan
  let id ← newCmd
  let src ← operandSpan d.src d.srcSpan
  let dst ← operandSpan (w64 d.firstByte) d.dstSpan
  addLock id [src] false true
  match ring with
  | some r => do
    let tag := r.tagPlace y.1.toNat
    addLock id [dst, tarnSpan tag 8] true true
    modify fun s => { s with landings := s.landings ++ [(id, tag, y.1)] }
  | none => addLock id [dst] true true
  let n := d.dataBytes + if ring.isSome then 8 else 0
  let count ← (match copyBm v with
    | 0 => pure none
    | 1 => do return some (← postBytes (copyBar v) n)
    | _ => do return some (← countOnly (copyBar v) n))
  let i ← issuerNow
  let cmd : Cmd := { id := id, issuer := i, start := start, moment := false, count := count, started := false, progress := 0, wrote := 0, held := none,
                     work := .copy d }
  modC fun k =>
    let ch := k.chan.toArray.getD h.toNat Channel.reset
    { k with chan := k.chan.setIfInBounds h.toNat { ch with cmds := ch.cmds ++ [cmd] } }
  return next

/-- `cpy` (R253). -/
def execCpy (g : Sel) (a b : SReg) (u : Bool) (h : BitVec 2) (s : State) : Host.Outcome State Fault Refusal :=
  issue (.cpy g a b u h) (copyIssue a b u h none) s
/-- `cpy` with a start offset (R35). -/
def execCpyClk (g : Sel) (a b : SReg) (u : Bool) (h : BitVec 2) (clk : Word32) (s : State) : Host.Outcome State Fault Refusal :=
  issue (.cpyClk g a b u h clk) (copyIssue a b u h (some clk)) s

/-! ## `cpyq` (R262) -/

/-- A channel of the core that moves. -/
def chanNow (h : BitVec 2) : M Channel := do return (← getC).chan.toArray.getD h.toNat Channel.reset

/-- `cpyq.wm` (R262). -/
def execCpyqWm (g : Sel) (d : SReg) (h : BitVec 2) (s : State) : Host.Outcome State Fault Refusal :=
  issue (.cpyqWm g d h) (do
    let v ← shared do
      let ch ← chanNow h
      return (match ch.cmds with
        | { work := .copy c, progress := n, .. } :: _ => n * wOf c.dst / 8
        | _ => ch.bytes, 0)
    ws d (w64 v.1) false
    return next) s
/-- `cpyq.out` (R262). -/
def execCpyqOut (g : Sel) (d : SReg) (h : BitVec 2) (s : State) : Host.Outcome State Fault Refusal :=
  issue (.cpyqOut g d h) (do
    let v ← shared do
      let ch ← chanNow h
      return (ch.cmds.length, 0)
    ws d (w64 v.1) false
    return next) s
/-- `cpyq.st` (R262): it clears CANC and is an acquire at `.dev`. -/
def execCpyqSt (g : Sel) (d : SReg) (h : BitVec 2) (s : State) : Host.Outcome State Fault Refusal :=
  issue (.cpyqSt g d h) (do
    let s0 ← get
    outside (dropLines .dev)
    let v ← shared do
      let ch ← chanNow h
      modC fun k => { k with chan := k.chan.setIfInBounds h.toNat { ch with cancelled := false } }
      return (ch.ended.toNat * 2 ^ 32 + (if ch.cancelled then 2 else 0) + (if ch.cmds.isEmpty then 1 else 0), 0)
    restoring s0 (ws d (w64 v.1) false)
    return next) s

/-! ## Running (R255-R257, R261, R263) -/

/-- The conversion environment of a copy (R251, R255): `FPCTL` is not read. -/
def CopyDesc.env (d : CopyDesc) (b8 : BitVec 32) : Env :=
  { b8 := b8, mode := if d.rm = 0 then 1 else d.rm.toNat, sat := d.rm == 5, satn := false, fz := false, wrap := d.rm != 5 }

/-- The destination bit address of element n. -/
def CopyDesc.dstBit (d : CopyDesc) (n : Nat) : Nat := 8 * (d.firstByte + n / d.len * d.rowStride) + n % d.len * wOf d.dst
/-- The source bit address of element n. -/
def CopyDesc.srcBit (d : CopyDesc) (n : Nat) : Nat :=
  if ptrBlg d.src = 0 then 8 * (ptrVa d.src + n / d.len * d.srcStride) + n % d.len * wOf d.src
  else 8 * ptrVa d.src + elemBitOff (ptrFmt d.src) (ptrBlg d.src) n

/-- What became of an element: written, written with poison to report, or a class fault (R255, R256). -/
inductive CopyEnd where
  | fine
  | report
  | classFault
  deriving DecidableEq, Repr

/-- The bytes of a line that lie in a range. -/
def rangeMask (line va n : Nat) : BitVec 64 :=
  let lo := Nat.max va (64 * line)
  let hi := Nat.min (va + n) (64 * line + 64)
  if lo < hi then byteMask (lo - 64 * line) (hi - lo) else 0
/-- Cached bytes that an engine writes are no longer read from valid bytes in the L1 of the cores whose later accesses the write is
ordered before: of a copy, whose watermark covers them, the cores of its pond; of any other command, which they learn of by its
completion alone, its own core (R156 before R137; DEDUCED: log entry 81). -/
def State.unhold (s : State) (reader : Nat → Bool) (i : Issuer) (va n : Nat) : State :=
  let drop (l : L1Line) : L1Line :=
    if !l.updateOnly && l.asid == i.asid then { l with valid := l.valid &&& (l.dirty ||| ~~~(rangeMask l.line va n)) } else l
  if inWindow va then s
  else
    { s with l1 := s.l1.map fun e => if reader e.1 && (s.core e.1).task.part == i.part then (e.1, e.2.map drop) else e }
/-- One element moved (R255, R256): a write of its own for the marks of a word that several share (DEDUCED: log entry 73). -/
def CopyDesc.move (d : CopyDesc) (i : Issuer) (n : Nat) : U CopyEnd := do
  let a := i.agent
  let ts := ptrFmt d.src
  let td := ptrFmt d.dst
  let dcls ← classU a (d.dstBit n / 8) true
  let x ← readElem a i.b8 ts (d.srcBit n)
  let e := d.env i.b8
  let r : Nat × Bool × Nat ←
    if ptrBlg d.src = 0 then
      pure (if ts = td then (x.1, x.2.1, x.2.2) else (let y := e.convertP ts td (x.1, x.2.1); (y.1, y.2.1, x.2.2)))
    else do
      let sc ← readU a (ptrVa d.src + scaleOff ts (ptrBlg d.src) n) 2
      let w := widen i.b8 ts (x.1, x.2.1) (sc.1, sc.2.1)
      let y := e.convertP 8 td (w.1, w.2.1)
      pure (y.1, y.2.1, Nat.max x.2.2 sc.2.2)
  if dcls < r.2.2 && !d.up then return .classFault
  else
    let rep ← putElem a td (d.dstBit n) r.1 r.2.1 (ts == td && ptrBlg d.src == 0)
    modify fun s => s.unhold (fun q => pondOf q == pondOf i.core) i (d.dstBit n / 8) (elemBytes td)
    return if rep then .report else .fine

/-- The result of the elements of a beat: how many moved, the first to report, and whether a class fault ended it. -/
structure BeatEnd where
  done : Nat
  report : Option Nat
  stopped : Bool
  deriving DecidableEq, Repr

/-- Elements from n on moved, `fuel` of them. -/
def CopyDesc.moves (d : CopyDesc) (i : Issuer) : Nat → Nat → U BeatEnd
  | 0, n => return { done := n, report := none, stopped := false }
  | fuel + 1, n => do
    match ← d.move i n with
    | .classFault => return { done := n, report := none, stopped := true }
    | .fine => d.moves i fuel (n + 1)
    | .report => do
      let r ← d.moves i fuel (n + 1)
      return { r with report := some (d.dstBit n / 8) }

/-- The tail of an element address as the program names it. -/
def elemVa (va : Nat) : Word := w64 va

/-- A beat of a copy: elements up to where 64 bytes more of the wider side end (R264). -/
def copyBeatU (c : Nat) (x : Cmd) (d : CopyDesc) : U Unit := do
  let stop := Nat.min (d.rows * d.len) (64 * (x.wrote + 1) * (d.rows * d.len) / d.wide)
  let r ← d.moves x.issuer (stop - x.progress) x.progress
  modify fun s =>
    let w := wOf d.dst
    let s1 := (s.spend c 100).landed c x.id (r.done * w / 8 - x.progress * w / 8)
    let s2 := s1.modCmd c x.id fun y => { y with progress := r.done, wrote := x.wrote + 1 }
    let s3 := match r.report with
      | some va => s2.raiseFor x.issuer 0x0E (elemVa va)
      | none => s2
    if r.stopped then
      (s3.cancelFrom c x.id fun k => k.queueOf x.id).raiseFor x.issuer 0x17 (elemVa (d.dstBit r.done / 8))
    else s3

/-- The head of a core's channel. -/
def Core.copyHead (k : Core) (h : Nat) : Option Cmd := (k.chan.toArray.getD h Channel.reset).cmds.head?
/-- A command at the head of a core's queue or channel has started, or may start now: the heads go, no lock that came before its own or
could still come before it conflicts (R157, R295), and the checks of its start moment, if it has one, are behind it (R36, R37). -/
def State.mayRun (s : State) (c : Nat) (x : Cmd) : Bool :=
  x.started || (s.headsGo c && (if x.start.isNone then s.locksIn (pondOf c) x.id else x.moment) && s.locksClear (pondOf c) x.id)

/-- `COPY_START` (R250, R263): the head of a channel without a start offset starts. -/
def execCopyStart (c h : Nat) (s : State) : Host.Outcome State Fault Refusal :=
  let k := s.core c
  match k.copyHead h with
  | some x =>
    if !x.started && x.start.isNone && s.mayRun c x
    then .next (s.modCmd c x.id fun y => { y with started := true }) else .next s
  | none => .next s

/-- The running channel heads of a pond by 4·(local core index) + channel: started, or due at their start moment; not held; with
elements to move. -/
def State.copyRunning (s : State) (pond n : Nat) : Option Cmd :=
  let c := pondCore pond (n / 4)
  match (s.core c).copyHead (n % 4) with
  | some x => match x.work with
    | .copy d =>
      if (x.started || (x.start.isSome && s.mayRun c x)) && x.held.isNone && decide (x.progress < d.rows * d.len) then some x else none
    | _ => none
  | none => none
/-- The channel head served next: one whose start moment has just come, the lower index first, else the next of the round (R264). -/
def State.copyGrant (s : State) (pond : Nat) : Option Nat :=
  let p := (s.pond pond).copyNext
  match findFirst (fun n => match s.copyRunning pond n with
      | some x => x.start.isSome && x.wrote == 0
      | none => false) (List.range 32) with
  | some n => some n
  | none => findFirst (fun n => (s.copyRunning pond n).isSome) ((List.range 32).map fun i => (p + i) % 32)

/-- `COPY_BEAT` (R255, R264): the engine of the core's pond serves the channel if it is its turn. -/
def execCopyBeat (c h : Nat) (s : State) : Host.Outcome State Fault Refusal :=
  let pond := pondOf c
  let n := 4 * localIndex c + h
  if s.copyGrant pond = some n then
    match s.copyRunning pond n with
    | some x => match x.work with
      | .copy d =>
        let s1 := s.modCmd c x.id fun y => { y with started := true }
        .next ((s1.unitStep c x.id (copyBeatU c x d)).modPond pond fun p => { p with copyNext := (n + 1) % 32 })
      | _ => .next s
    | none => .next s
  else .next s

/-- The tag of a ring landing written after its data (R39, R255). -/
def copyTagU (c : Nat) (x : Cmd) (d : CopyDesc) : U Unit :=
  match d.ring with
  | some (seq, slots, _) => do
    writeU x.issuer.agent (ptrVa d.dst + 8 * (seq.toNat % slots)) 8 seq.toNat false
    modify fun s => (s.landed c x.id 8)
  | none => pure ()
/-- The end of a command: its locks and landings released, its entry freed. -/
def State.endCmd (s : State) (c : Nat) (x : Cmd) : State :=
  let s1 := s.unlock (pondOf c) x.id false
  { s1 with landings := s1.landings.filter fun l => l.1 != x.id }.modCore c fun k => k.remove x false

/-- `COPY_COMPLETION` (R255, R257, R263). -/
def execCopyCompletion (c h : Nat) (s : State) : Host.Outcome State Fault Refusal :=
  match (s.core c).copyHead h with
  | some x => match x.work with
    | .copy d =>
      if x.started && x.held.isNone && decide (x.progress ≥ d.rows * d.len) then
        .next (s.unitStep c x.id (do
          copyTagU c x d
          modify fun s => s.endCmd c x))
      else .next s
    | _ => .next s
  | none => .next s

/-! ## Start moments (R35-R37, R259) -/

/-- The tag a ring landing with an offset expects to replace (R259). -/
def State.tagReplaced (s : State) (c : Nat) (d : CopyDesc) : Bool :=
  match d.ring with
  | some (seq, slots, _) =>
    match windowPlace (chipOf c) (ptrVa d.dst + 8 * (seq.toNat % slots)) with
    | some p => s.bytes p 8 == if seq.toNat ≥ slots then seq.toNat - slots else 2 ^ 64 - 1
    | none => false
  | none => true
/-- The conditions of R36 hold for a command at its start moment. -/
def State.startClear (s : State) (c : Nat) (x : Cmd) : Bool :=
  s.locksFree (pondOf c) x.id &&
  (match x.work with
    | .copy d => s.tagReplaced c d
    | _ => true)

end Sys2Proof.Machine
end

