-- ==== Sys2Proof/Machine/Layout.lean ====
section
/-!
DEFINITION. What a collective's descriptor means (R178, R267-R272): the layouts, the exchange they derive with its layout faults, the
two trees, and the numbers of a combination.
-/
namespace Sys2Proof.Machine

/-! ## Layouts (R267) -/

/-- Axes of the mesh. -/
def CollDesc.nax (d : CollDesc) : Nat := d.sizes.length
/-- Size of an axis; an axis the mesh does not have counts as 1. -/
def CollDesc.size (d : CollDesc) (a : Nat) : Nat := (nth d.sizes a).getD 1
/-- Members. -/
def CollDesc.count (d : CollDesc) : Nat := d.sizes.foldl (· * ·) 1
/-- Global length of a dimension, an absent one counting as 1. -/
def CollDesc.len (d : CollDesc) (i : Nat) : Nat := let n := (nth d.lens i).getD 0; if n = 0 then 1 else n

/-- The state of an axis in a layout. -/
inductive Axis where
  | repl
  | part
  | shard (dim : Nat)
  deriving DecidableEq, Repr

/-- The state of an axis (R267). -/
def axisOf (w : BitVec 32) (a : Nat) : Axis :=
  match findFirst (fun i => w.getLsbD (8 * i + a)) (List.range 4) with
  | some i => .shard i
  | none => if (List.range 4).any fun i => w.getLsbD (8 * i + 4 + a) then .part else .repl
/-- How often a layout names an axis. -/
def mentions (w : BitVec 32) (a : Nat) : Nat :=
  ((List.range 4).filter fun i => w.getLsbD (8 * i + a)).length + ((List.range 4).filter fun i => w.getLsbD (8 * i + 4 + a)).length
/-- The product of the sizes of the axes that shard a dimension. -/
def CollDesc.shards (d : CollDesc) (w : BitVec 32) (i : Nat) : Nat :=
  (List.range 4).foldl (fun n a => if w.getLsbD (8 * i + a) then n * d.size a else n) 1
/-- The local lengths of a layout. -/
def CollDesc.dims (d : CollDesc) (w : BitVec 32) : List Nat := (List.range 4).map fun i => d.len i / d.shards w i
/-- Elements of a local tensor. -/
def elems (dims : List Nat) : Nat := dims.foldl (· * ·) 1
/-- A layout that R269 faults by itself. -/
def CollDesc.badLayout (d : CollDesc) (w : BitVec 32) : Bool :=
  (List.range 4).any (fun a => decide (1 < mentions w a) || (decide (d.nax ≤ a) && mentions w a != 0)) ||
  (List.range 4).any fun i => d.len i % d.shards w i != 0

/-! ## The exchange (R268, R269) -/

/-- The exchange of an axis or of a layout pair. -/
inductive Exchange where
  | none
  | allReduce
  | reduceScatter (d : Nat)
  | allGather (d : Nat)
  | allToAll (d e : Nat)
  | slice (d : Nat)
  | bad
  deriving DecidableEq, Repr

/-- The exchange of one axis (R268). -/
def exchangeOf (f t : Axis) : Exchange :=
  if f = t then .none
  else match f, t with
    | .part, .repl => .allReduce
    | .part, .shard d => .reduceScatter d
    | .shard d, .repl => .allGather d
    | .shard d, .shard e => .allToAll d e
    | .repl, .shard d => .slice d
    | _, _ => .bad
/-- The exchange of an axis of a descriptor. -/
def CollDesc.axis (d : CollDesc) (a : Nat) : Exchange := exchangeOf (axisOf d.frm a) (axisOf d.dest a)
/-- The exchanging axes, ascending. -/
def CollDesc.exchanging (d : CollDesc) : List Nat := (List.range d.nax).filter fun a => d.axis a != .none
/-- The one exchange of the pair (R268), bad where its axes mix kinds. -/
def CollDesc.kind (d : CollDesc) : Exchange :=
  match d.exchanging with
  | [] => .none
  | a :: rest => if rest.all fun b => d.axis b == d.axis a then d.axis a else .bad
/-- The dimension whose shards the target layout adds, and the one whose shards it takes away. -/
def Exchange.dims : Exchange → Option Nat × Option Nat
  | .reduceScatter d => (some d, .none)
  | .slice d => (some d, .none)
  | .allGather d => (.none, some d)
  | .allToAll d e => (some e, some d)
  | _ => (.none, .none)
/-- Every exchanging axis is numbered above every axis that shards a dimension in a layout and does not exchange (R269). -/
def CollDesc.above (d : CollDesc) (w : BitVec 32) (dim : Option Nat) : Bool :=
  match dim with
  | .none => true
  | some i => d.exchanging.all fun a => (List.range 4).all fun b => !w.getLsbD (8 * i + b) || decide (b < a)
/-- The layout pair takes a layout fault (R269). -/
def CollDesc.layoutFault (d : CollDesc) : Bool :=
  d.badLayout d.frm || d.badLayout d.dest || d.kind == .bad ||
  !d.above d.frm d.kind.dims.1 || !d.above d.dest d.kind.dims.2

/-! ## Groups (R267, R268, R270) -/

/-- The coordinate of a rank on an axis. -/
def CollDesc.coord (d : CollDesc) (r a : Nat) : Nat := r / (d.sizes.take a).foldl (· * ·) 1 % d.size a
/-- The ranks of a rank's group, ascending: the position is the group rank. -/
def CollDesc.group (d : CollDesc) (r : Nat) : List Nat :=
  (List.range d.count).filter fun x => (List.range d.nax).all fun a => d.exchanging.contains a || d.coord x a == d.coord r a
/-- The group shard index of a rank (R270). -/
def CollDesc.shardIndex (d : CollDesc) (r : Nat) : Nat := d.exchanging.foldl (fun j a => j * d.size a + d.coord r a) 0
/-- The position of an element of a list. -/
def indexIn (l : List Nat) (x : Nat) : Nat := (l.findIdx? fun y => y == x).getD 0

/-! ## Elements (R267, R270) -/

/-- The coordinates of an element, dimension 0 varying fastest. -/
def unflatten : List Nat → Nat → List Nat
  | [], _ => []
  | n :: rest, e => e % n :: unflatten rest (e / n)
/-- The element at coordinates. -/
def flatten : List Nat → List Nat → Nat
  | n :: rest, c :: cs => c + n * flatten rest cs
  | _, _ => 0
/-- One coordinate changed. -/
def setAt (c : List Nat) (i x : Nat) : List Nat := c.set i x
/-- One coordinate. -/
def atDim (c : List Nat) (i : Nat) : Nat := (nth c i).getD 0

/-- Where an element of a member's DST comes from (R270): a half of R (0 tree A's, 1 tree B's) or 2 + the group shard index of the
member whose SRC holds it, and the element's number there. -/
def CollDesc.source (d : CollDesc) (r e : Nat) : Nat × Nat :=
  let f := d.dims d.frm
  let t := d.dims d.dest
  let j := d.shardIndex r
  let c := unflatten t e
  let half (i : Nat) : Nat × Nat := (if 2 * i < elems f + elems f % 2 then 0 else 1, i)
  match d.kind with
  | .allReduce => half e
  | .reduceScatter k => half (flatten f (setAt c k (atDim c k + j * atDim t k)))
  | .slice k => (2 + j, flatten f (setAt c k (atDim c k + j * atDim t k)))
  | .allGather k => (2 + atDim c k / atDim f k, flatten f (setAt c k (atDim c k % atDim f k)))
  | .allToAll k l =>
    (2 + atDim c k / atDim f k, flatten f (setAt (setAt c k (atDim c k % atDim f k)) l (atDim c l + j * atDim t l)))
  | _ => (2 + j, e)

/-! ## The trees (R271) -/

/-- The sequence a tree of an even group is a heap over; `b` picks tree B. -/
def treeSeq (m : Nat) (b : Bool) : List Nat :=
  let h := m / 2
  let sa := ((List.range h).map fun i => h - 1 + i) ++ (List.range (h - 1)) ++ [m - 1]
  if b then sa.map fun p => (p + h) % m else sa
/-- The children of a group rank in an even group's tree. -/
def heapChildren (m : Nat) (b : Bool) (p : Nat) : List Nat :=
  let l := treeSeq m b
  let q := indexIn l p
  [2 * q + 1, 2 * q + 2].filterMap fun i => nth l i
/-- The root of a tree. -/
def treeRoot (m : Nat) (b : Bool) : Nat := if m % 2 = 1 then m - 1 else (nth (treeSeq m b) 0).getD 0
/-- The children of a group rank in a tree, ascending. -/
def treeChildren (m : Nat) (b : Bool) (p : Nat) : List Nat :=
  if m = 1 then []
  else if m % 2 = 1 then (if p = m - 1 then [(nth (treeSeq (m - 1) b) 0).getD 0] else (heapChildren (m - 1) b p).foldl insertNat [])
  else (heapChildren m b p).foldl insertNat []

/-! ## Numerics (R272) -/

/-- A contribution's element at ingress: poisoned by its pattern, a subnormal made zero of its sign. -/
def ingress (t : Nat) (x : Nat × Bool) : Nat × Bool :=
  match fmtOf 0 t with
  | some f =>
    if f.isPoison x.1 then (x.1, true)
    else
      let s := 2 ^ (f.width - 1)
      (if x.1 % s < 2 ^ (f.prec - 1) then x.1 / s * s else x.1, x.2)
  | none => x
/-- The canonical NaN for a NaN (R194). -/
def canonical (t : Nat) (x : Nat × Bool) : Nat × Bool :=
  match fmtOf 0 t with
  | some f => if !x.2 && (f.decode x.1).isNan then (f.nan, false) else x
  | none => x
/-- Two elements combined with one rounding: 0 sum, 1 max, 2 min. -/
def combine (t op : Nat) (x y : Nat × Bool) : Nat × Bool :=
  let e := Env.plain 0
  let p := x.2 || y.2
  let r := (match op with
    | 0 => e.add t x.1 y.1
    | 1 => e.max t x.1 y.1
    | _ => e.min t x.1 y.1).1
  if p then (match fmtOf 0 t with
    | some f => f.poison
    | none => r, true)
  else (r, false)

end Sys2Proof.Machine
end

