-- ==== Sys2Proof/Machine/Collective.lean ====
section
/-!
DEFINITION. Collectives (R178, R179, R265-R280): the handle table, `coll` and `collq`, and the steps of the springs' collective engines.
-/
namespace Sys2Proof.Machine

/-! ## Handles (R277, R278) -/

/-- HTAB of the launch control page (R356): the address of the handle table. -/
def State.htab (s : State) (p : Nat) : Nat := s.control p 0x208 % 2 ^ 57
/-- HSLOTS of the launch control page. -/
def State.hslots (s : State) (p : Nat) : Nat := s.control p 0x210 % 2 ^ 20
/-- A partition's handle slot. -/
def Part.handle (p : Part) (slot : Nat) : Handle :=
  (find p.handles slot).getD { gen := 0, live := false, base := 0, len := 0, owner := 0, colls := 0 }
/-- A handle slot changed. -/
def State.setHandle (s : State) (p slot : Nat) (h : Handle) : State :=
  s.modPart p fun q => { q with handles := put q.handles slot h }
/-- A handle passes for a core (R277): its slot. -/
def State.handlePass (s : State) (c : Nat) (h : Word) : Option (Nat × Handle) :=
  let p := (s.core c).task.part
  let slot := bits h.toNat 12 20
  let x := (s.part p).handle slot
  if bits h.toNat 32 32 = 0 && decide (slot < s.hslots p) && x.live && x.gen == h.toNat % 4096 && x.gen != 0 && x.owner == c
  then some (slot, x) else none

/-- A `coll` that has not ended. -/
def Coll.active (x : Coll) : Bool := x.state == .waiting || x.state == .running
/-- A `coll` by its number. -/
def State.coll (s : State) (id : Nat) : Option Coll := findFirst (fun x => x.id == id) s.colls
/-- A `coll` changed. -/
def State.modColl (s : State) (id : Nat) (f : Coll → Coll) : State :=
  { s with colls := s.colls.map fun x => if x.id == id then f x else x }
/-- A `coll` ended: its locks released, its posted bytes that have not landed removed (R179, R275), and what it wrote poisoned and unmarked
reported (R272). -/
def State.endColl (s : State) (x : Coll) (st : CollState) : State :=
  let s1 := s.unlock (pondOf x.issuer.core) x.id false
  let s2 := match ((s.coll x.id).getD x).count with
    | some p => if p.xfer = 0 || p.left = 0 then s1 else s1.toRoot p.name (evCancel, 0, p.xfer, p.left)
    | none => s1
  let s3 := s2.modColl x.id fun y => { y with state := st, count := none, held := none, report := none }
  match ((s.coll x.id).getD x).report with
  | some va => s3.raiseFor x.issuer 0x0E (w64 va)
  | none => s3
/-- A `coll` ended by a failure or a revoke on this device, which the other members learn of (R275, R278). -/
def State.failColl (s : State) (x : Coll) (st : CollState) : State :=
  (s.endColl x st).modColl x.id fun y => { y with sent := y.sent ++ s.endedTo y }

/-! ## The descriptor (R178, R274) -/

/-- `n` items of `size` bytes from an address on, as one number, with the address of the first marked word. -/
def readItems (size : Nat) : Nat → Nat → M (Nat × Option Nat)
  | 0, _ => return (0, none)
  | n + 1, va => do
    let x ← (match (← get).uncached va with
      | some p => placeRead p size (w64 va)
      | none => homeRead (w64 va) size)
    let y ← readItems size n (va + size)
    return (x.1 + 2 ^ (8 * size) * y.1, if x.2 then some (va / 4 * 4) else y.2)

/-- Doubleword `i` of a descriptor. -/
def collWord (v i : Nat) : Nat := bits v (64 * i) 64
/-- Doublewords 2 and 3 meet R178, so that the member list is read. -/
def meshOk (v : Nat) : Bool :=
  let w := collWord v 3
  let nax := bits w 4 4
  bits (collWord v 2) 57 7 == 0 && collWord v 2 % 2 == 0 && bits w 48 16 == 0 && bits w 8 8 == 0 && decide (bits w 0 4 < 3) &&
  decide (1 ≤ nax) && decide (nax ≤ 4) &&
  (List.range 4).all fun i => if i < nax then bits w (16 + 8 * i) 8 != 0 else bits w (16 + 8 * i) 8 == 0
/-- The descriptor's fields with its member list. -/
def collFields (v : Nat) (members : List Nat) : CollDesc :=
  { src := w64 (collWord v 0), dst := w64 (collWord v 1), sizes := (List.range (bits (collWord v 3) 4 4)).map fun i => bits (collWord v 3) (16 + 8 * i) 8,
    op := bits (collWord v 3) 0 4, lens := (List.range 4).map fun i => bits (collWord v 4) (16 * i) 16,
    frm := BitVec.ofNat 32 (collWord v 5), dest := BitVec.ofNat 32 (collWord v 6), members := members }
/-- Bytes of the member's SRC. -/
def CollDesc.srcBytes (d : CollDesc) : Nat := elems (d.dims d.frm) * elemBits (ptrFmt d.src) / 8
/-- Bytes of the member's DST. -/
def CollDesc.dstBytes (d : CollDesc) : Nat := elems (d.dims d.dest) * elemBits (ptrFmt d.src) / 8
/-- A field breaks R178 (a tensor has a dimension 0: log entry 66), DST is of another type, or the ranges overlap (check 6 of R274). -/
def collBroken (v : Nat) (d : CollDesc) : Bool :=
  let t := ptrFmt d.src
  !meshOk v || !(t == 8 || t == 9 || t == 6) || ptrBlg d.src != 0 || ptrFmt d.dst != t || ptrBlg d.dst != 0 ||
  (nth d.lens 0).getD 0 == 0 || ((List.range 3).any fun i => (nth d.lens i).getD 0 == 0 && (nth d.lens (i + 1)).getD 0 != 0) ||
  bits (collWord v 5) 32 32 != 0 || bits (collWord v 6) 32 32 != 0 || bits (collWord v 7) 8 56 != 0 || bits (collWord v 7) 4 3 != 0 ||
  (decide (ptrVa d.src < ptrVa d.dst + d.dstBytes) && decide (ptrVa d.dst < ptrVa d.src + d.srcBytes))

/-! ## Issue (R179, R265, R274) -/

/-- The commands of a spring's queue for a partition (R265). -/
def State.springColls (s : State) (p spring : Nat) : Nat :=
  (s.colls.filter fun x => x.issuer.part == p && x.active && x.handed && (s.part p).homeSpring (ptrVa x.desc.src) == spring).length
/-- The checks on the operands' ranges, the handle, the members and the layouts: 7 to 10 of R274. -/
def collCheck (a b : Word) (d : CollDesc) : M (Nat × Handle) := do
  let s ← get
  let p := (s.core s.cur).task.part
  let w := elemBits (ptrFmt d.src) / 8
  let range (ptr : Word) (n : Nat) : M Unit := require (decide (ptrVa ptr + n ≤ windowBase)) 0x07 ptr
  range d.src d.srcBytes
  range d.dst d.dstBytes
  require (ptrVa d.src % w == 0) 0x03 d.src
  require (ptrVa d.dst % w == 0) 0x03 d.dst
  match s.handlePass s.cur b with
  | none => trap 0x11 b
  | some (slot, h) => do
    let inside (va n : Nat) : Bool := decide (h.base ≤ va) && decide (va + n ≤ h.base + h.len)
    require (inside (ptrVa d.src) d.srcBytes && inside (ptrVa d.dst) d.dstBytes) 0x11 b
    let q := s.part p
    let own := (d.members.filter fun x => x == q.self).length
    require (own == 1 && d.members.all (fun x => q.peers.any (fun e => e.num == x) && (d.members.filter fun y => y == x).length == 1) && !d.layoutFault) 0x12 a
    return (slot, h)

/-- `coll` (R179, R274). -/
def collIssue (a b : SReg) (lit : Option Word32) : M Done := do
  let x ← rs a
  let y ← rs b
  if ← follows then return next
  require (!x.2) 0x0E (w64 a.toNat)
  require (!y.2) 0x0E (w64 b.toNat)
  let ea := x.1
  require (ea.toNat % 64 == 0) 0x03 ea
  require (bits ea.toNat 57 7 == 0 && !inWindow ea.toNat) 0x07 ea
  let r ← readItems 4 16 ea.toNat
  let v := r.1
  let n := (collFields v []).count
  let l ← if meshOk v then readItems 2 n (collWord v 2) else pure (0, none)
  match r.2, l.2 with
  | some m, _ => trap 0x0E (w64 m)
  | none, some m => trap 0x0E (w64 m)
  | none, none => pure ()
  let d := collFields v ((List.range n).map fun i => bits l.1 (16 * i) 16)
  require (!collBroken v d) 0x01 ea
  let h ← collCheck ea y.1 d
  let start ← startMoment lit
  let s ← get
  let k := s.core s.cur
  let p := k.task.part
  if (s.colls.filter fun z => z.issuer.core == s.cur && !s.kept z.issuer && z.active).length ≥ 8 then freeze .engine
  if start.isNone && s.springColls p ((s.part p).homeSpring (ptrVa d.src)) ≥ 64 then freeze .engine
  lockRoom 2
  let bar := collWord v 7 % 16
  let pb := (collWord v 7).testBit 7
  if pb then rootFree bar
  flushSource d.src d.srcBytes
  dropTarget d.dst d.dstBytes
  let id ← newCmd
  addLock id [cachedSpan p k.csrs.asid (ptrVa d.src) d.srcBytes] false false
  addLock id [cachedSpan p k.csrs.asid (ptrVa d.dst) d.dstBytes] true false
  let count ← if pb then (do return some (← postBytes bar d.dstBytes)) else pure none
  let i ← issuerNow
  let ord := h.2.colls + 1
  modify fun s => { s.setHandle p h.1 { h.2 with colls := ord } with
    colls := s.colls ++ [{ id := id, issuer := i, addr := ea, handle := y.1, slot := h.1, ordinal := ord, desc := d, start := start,
                           moment := false, count := count, handed := start.isNone, state := .waiting, own := none, sent := [], written := [],
                           bytes := 0, held := none, report := none }] }
  return next

/-- `coll` (R274). -/
def execColl (g : Sel) (a b : SReg) (s : State) : Host.Outcome State Fault Refusal :=
  issue (.coll g a b) (collIssue a b none) s
/-- `coll` with a start offset (R35). -/
def execCollClk (g : Sel) (a b : SReg) (clk : Word32) (s : State) : Host.Outcome State Fault Refusal :=
  issue (.collClk g a b clk) (collIssue a b (some clk)) s

/-! ## `collq` (R276) -/

/-- The core's commands on a handle of its partition, in issue order. -/
def State.onHandle (s : State) (c : Nat) (h : Word) : List Coll :=
  s.colls.filter fun x => x.issuer.core == c && x.issuer.part == (s.core c).task.part && !s.kept x.issuer && x.handle == h
/-- STATE of `collq.st`. -/
def CollState.code : CollState → Nat
  | .waiting => 1
  | .running => 2
  | .complete => 3
  | .aborted => 4
  | .cancelled => 5
/-- The status word of a handle. -/
def collStatus (l : List Coll) : Nat :=
  match l.getLast? with
  | some x => x.bytes % 2 ^ 32 * 2 ^ 32 + l.length % 2 ^ 16 * 2 ^ 16 + x.state.code
  | none => 0

/-- What `collq` writes for the checked handle; the value that reports the end is an acquire at `.sys`. -/
def collQuery (d a : SReg) (value : List Coll → Nat) (ended : List Coll → Bool) : M Done := do
  let x ← rs a
  let v ← shared do
    require (!x.2) 0x0E (w64 a.toNat)
    let s ← get
    require (s.handlePass s.cur x.1).isSome 0x11 x.1
    let l := s.onHandle s.cur x.1
    if ended l then dropLines .sys
    return (value l, 0)
  ws d (w64 v.1) false
  return nextIn 2
/-- `collq.st` (R276). -/
def execCollqSt (g : Sel) (d a : SReg) (s : State) : Host.Outcome State Fault Refusal :=
  issue (.collqSt g d a) (collQuery d a collStatus fun l => (l.getLast?.map fun x => x.state) == some .complete) s
/-- `collq.done` (R179, R276). -/
def execCollqDone (g : Sel) (d a : SReg) (s : State) : Host.Outcome State Fault Refusal :=
  issue (.collqDone g d a) (collQuery d a (fun l => if l.any Coll.active then 0 else 1) fun l => !l.any Coll.active) s

/-! ## The collective engine (R179, R181, R265, R270-R272, R275) -/

/-- The member's rank: the position of the partition's own peer number. -/
def State.rankOf (s : State) (x : Coll) : Nat := indexIn x.desc.members (s.part x.issuer.part).self
/-- The element type. -/
def Coll.t (x : Coll) : Nat := ptrFmt x.desc.src
/-- What a member has sent for a command. -/
def State.parcels (s : State) (x : Coll) (rank : Nat) : List Parcel :=
  (s.arrivals.filter fun a =>
    a.part == x.issuer.part && a.slot == x.slot && a.ordinal == x.ordinal && a.member == rank).map fun a => a.parcel
/-- The first parcel that fits. -/
def pick {α : Type} (f : Parcel → Option α) : List Parcel → Option α
  | [] => none
  | p :: rest => match f p with
    | some y => some y
    | none => pick f rest

/-- The bounds of a tree's part of the contribution. -/
def Coll.part (x : Coll) (b : Bool) : Nat × Nat :=
  let n := elems (x.desc.dims x.desc.frm)
  let h := (n + 1) / 2
  if b then (h, n) else (0, h)
/-- The elements as the numerics take them. -/
def asNats (l : List (Word32 × Bool)) : List (Nat × Bool) := l.map fun e => (e.1.toNat, e.2)
/-- The elements as state holds them. -/
def asWords (l : List (Nat × Bool)) : List (Word32 × Bool) := l.map fun e => (BitVec.ofNat 32 e.1, e.2)
/-- What a node of a tree makes of its own elements and a child's: in a reduction one combination of each (R181); in an all-gather,
which combines nothing, the child's after its own. -/
def Coll.join (x : Coll) (m l : List (Nat × Bool)) : List (Nat × Bool) :=
  match x.desc.kind with
  | .allGather _ => m ++ l
  | _ => List.zipWith (combine x.t x.desc.op) m l
/-- The group ranks of a node of a tree and of all below it, the node first and its children's in ascending rank. -/
def below (m : Nat) (b : Bool) : Nat → Nat → List Nat
  | 0, p => [p]
  | fuel + 1, p => p :: ((treeChildren m b p).map (below m b fuel)).flatten
/-- Elements that a child sends of a tree. -/
def Coll.share (x : Coll) (m : Nat) (b : Bool) (p : Nat) : Nat :=
  let n := (x.part b).2 - (x.part b).1
  match x.desc.kind with
  | .allGather _ => n * (below m b m p).length
  | _ => n
/-- The member's subtotal of a tree (R181): its own elements with each child's, in ascending rank, once all have come. -/
def State.subtotal (s : State) (x : Coll) (b : Bool) : Option (List (Nat × Bool)) :=
  let d := x.desc
  let r := s.rankOf x
  let g := d.group r
  match x.own with
  | none => none
  | some own =>
    let lo := (x.part b).1
    let n := (x.part b).2 - lo
    let mine := asNats ((own.drop lo).take n)
    (treeChildren g.length b (indexIn g r)).foldl (fun acc p =>
      match acc, pick (fun y => match y with
        | .sub t l => if t = b.toNat && l.length = x.share g.length b p then some l else none
        | _ => none) (s.parcels x ((nth g p).getD 0)) with
      | some m, some l => some (x.join m (asNats l))
      | _, _ => none) (some mine)

/-- Where an element of a rank's DST comes from: a tree, or 2 + the group shard index of the member whose SRC holds it where nothing
crosses a tree; and its number there, in an all-gather counted on over the members' contributions by shard index (R270, R271). -/
def CollDesc.origin (d : CollDesc) (r e : Nat) : Nat × Nat :=
  let x := d.source r e
  let n := elems (d.dims d.frm)
  match d.kind with
  | .allGather _ => (if 2 * x.2 < n + n % 2 then 0 else 1, (x.1 - 2) * n + x.2)
  | _ => x
/-- The elements of a rank's DST that come from a part, each with its number in that part's source. -/
def Coll.from (x : Coll) (r key : Nat) : List (Nat × Nat) :=
  ((List.range (elems (x.desc.dims x.desc.dest))).map fun e => (e, x.desc.origin r e)).filterMap fun e =>
    if e.2.1 = key then some (e.1, e.2.2) else none
/-- An element of what a tree's root has, by its number (R271). -/
def Coll.atRoot (x : Coll) (g : List Nat) (b : Bool) (l : List (Nat × Bool)) (i : Nat) : Nat × Bool :=
  let d := x.desc
  let lo := (x.part b).1
  match d.kind with
  | .allGather _ =>
    let n := elems (d.dims d.frm)
    let rank := indexIn (g.map d.shardIndex) (i / n)
    let place := indexIn (below g.length b g.length (treeRoot g.length b)) rank
    (nth l (place * ((x.part b).2 - lo) + (i % n - lo))).getD (0, false)
  | _ => (nth l (i - lo)).getD (0, false)
/-- An element as it is written: of an exchange, with the canonical NaN for a NaN (R194, R272). -/
def Coll.deliver (x : Coll) (v : Nat × Bool) : Nat × Bool := if x.desc.kind == .none then v else canonical x.t v
/-- What a root sends a member of the part it has (R181, R271): the elements that fall in the member's DST. -/
def Coll.outTo (x : Coll) (g : List Nat) (b : Bool) (l : List (Nat × Bool)) (r : Nat) : List (Nat × Bool) :=
  (x.from r b.toNat).map fun e => x.deliver (x.atRoot g b l e.2)
/-- The values of the elements a part gives the member's DST, once they are known. -/
def State.given (s : State) (x : Coll) (key : Nat) : Option (List (Nat × (Nat × Bool))) :=
  let d := x.desc
  let r := s.rankOf x
  let g := d.group r
  let want := x.from r key
  let put (l : List (Nat × Bool)) : List (Nat × (Nat × Bool)) := List.zipWith (fun e v => (e.1, v)) want l
  if key < 2 then
    let b := key == 1
    if treeRoot g.length b = indexIn g r then (s.subtotal x b).map fun l => put (x.outTo g b l r)
    else pick (fun y => match y with
      | .half t l => if t = key && l.length = want.length then some (put ((asNats l).map x.deliver)) else none
      | _ => none) (s.parcels x ((nth g (treeRoot g.length b)).getD 0))
  else
    let whole (l : List (Nat × Bool)) : List (Nat × (Nat × Bool)) := put (want.map fun e => x.deliver ((nth l e.2).getD (0, false)))
    match findFirst (fun p => d.shardIndex p == key - 2) g with
    | none => none
    | some p =>
      if p = r then x.own.map fun l => whole (asNats l)
      else pick (fun y => match y with
        | .whole l => if l.length = elems (d.dims d.frm) then some (whole ((asNats l).map (ingress x.t))) else none
        | _ => none) (s.parcels x p)
/-- What a command sends the other members of its group, by rank, as far as it is known (R181, R271): to each tree's parent its subtotal,
as a root to every other member its part; its contribution where no tree carries it. -/
def State.sends (s : State) (x : Coll) : List (Nat × Parcel) :=
  let d := x.desc
  let r := s.rankOf x
  let g := d.group r
  let others := g.filter fun p => p != r
  let trees : List (Nat × Parcel) := ([false, true].map fun b => match s.subtotal x b with
    | none => []
    | some l =>
      if treeRoot g.length b = indexIn g r then others.map fun p => (p, Parcel.half b.toNat (asWords (x.outTo g b l p)))
      else match findFirst (fun p => (treeChildren g.length b p).contains (indexIn g r)) (List.range g.length) with
        | some p => [((nth g p).getD 0, Parcel.sub b.toNat (asWords l))]
        | none => []).flatten
  match d.kind with
  | .allReduce | .reduceScatter _ | .allGather _ => trees
  | .allToAll _ _ => match x.own with
    | some l => others.map fun p => (p, Parcel.whole l)
    | none => []
  | _ => []
/-- A command has sent all that the other members need of it. -/
def State.allSent (s : State) (x : Coll) : Bool :=
  match x.desc.kind with
  | .allReduce | .reduceScatter _ | .allGather _ => (s.subtotal x false).isSome && (s.subtotal x true).isSome
  | _ => x.own.isSome
/-- What a complete command still passes on (R271), and what has come for it dropped once that is all. -/
def State.sendOn (s : State) (x : Coll) : State :=
  let s1 := s.modColl x.id fun y => { y with sent := s.sends y }
  if s.allSent x then
    { s1 with arrivals := s1.arrivals.filter fun a => !(a.part == x.issuer.part && a.slot == x.slot && a.ordinal == x.ordinal) }
  else s1
/-- The parts a member's DST is made of. -/
def Coll.keys (x : Coll) (r : Nat) : List Nat :=
  (List.range (elems (x.desc.dims x.desc.dest))).foldl (fun l e => insertNat l (x.desc.origin r e).1) []

/-- The command is the first of its core's on its slot that has not ended (R265). -/
def State.collFirst (s : State) (x : Coll) : Bool :=
  !s.colls.any fun y => decide (y.id < x.id) && y.issuer.core == x.issuer.core && y.issuer.part == x.issuer.part && y.slot == x.slot && y.active

/-- A command's accesses; while its context is kept with a stopped launch they share nothing with what the core runs (R348). -/
def State.agentOf (s : State) (i : Issuer) : Agent := { i.agent with kept := if s.kept i then some i.gen else none }
/-- SRC read at its home slice with the ingress of R272, and its read lock released (R179). -/
def collRead (x : Coll) : U Unit := do
  let a := (← get).agentOf x.issuer
  let n := elems (x.desc.dims x.desc.frm)
  let w := elemBits x.t
  let l ← (List.range n).mapM fun i => do
    let v ← readElem a 0 x.t (8 * ptrVa x.desc.src + w * i)
    return (if x.desc.kind == .none then (v.1, v.2.1) else ingress x.t (v.1, v.2.1))
  modify fun s =>
    ((s.inContext x.issuer.core x.issuer.gen fun st => st.spend x.issuer.core (2000 * ((x.desc.srcBytes + 63) / 64))).unlock (pondOf x.issuer.core) x.id true).modColl x.id fun y =>
      { y with own := some (asWords l) }
/-- The lower of two addresses to report. -/
def lowest (a b : Option Nat) : Option Nat :=
  match a, b with
  | some x, some y => some (Nat.min x y)
  | some x, none => some x
  | none, y => y
/-- Numbered elements in stretches without a gap: the first number of each with its values. -/
def stretches : List (Nat × (Nat × Bool)) → List (Nat × List (Nat × Bool))
  | [] => []
  | (e, v) :: rest =>
    match stretches rest with
    | (n, l) :: more => if n = e + 1 then (e, v :: l) :: more else (e, [v]) :: (n, l) :: more
    | [] => [(e, [v])]
/-- Stretches of DST written (R272); the answer is the lowest address to report. The issuing core holds none of these bytes in its L1 any
more (R156; DEDUCED: log entry 81). -/
def collWrite (x : Coll) : List (Nat × List (Nat × Bool)) → U (Option Nat)
  | [] => return none
  | (e, l) :: rest => do
    let w := elemBits x.t / 8
    let va := ptrVa x.desc.dst + w * e
    let rep ← putRow ((← get).agentOf x.issuer) x.t (x.desc.kind == .none) l.length (8 * va) l
    if !(← get).kept x.issuer then modify fun s => s.unhold (fun q => q == x.issuer.core) x.issuer va (w * l.length)
    let later ← collWrite x rest
    return lowest rep later
/-- One part of the result written, if it is known and has not been. -/
def collPart (id key : Nat) : U Unit := do
  let s ← get
  match s.coll id with
  | none => pure ()
  | some x =>
    if x.written.contains key then pure ()
    else match s.given x key with
      | none => pure ()
      | some l => do
        let r ← collWrite x (stretches l)
        modify fun s =>
          let n := l.length * (elemBits x.t / 8)
          (s.land x.count n).modColl id fun y =>
            { y with written := insertNat y.written key, bytes := y.bytes + n, count := y.count.map fun p => { p with left := p.left - n }
                     report := lowest y.report r }
/-- What the engine does for a command as far as it can: SRC read and DST written when its turn and its locks allow (R157), what is known
sent to the other members, and, once the instance runs, the parts of the result that are known written. -/
def collWork (id : Nat) : U Unit := do
  let s ← get
  match s.coll id with
  | none => pure ()
  | some x => do
    let pond := pondOf x.issuer.core
    let go := s.locksIn pond id && s.locksClear pond id
    if x.own.isNone && go then collRead x
    modify fun s => s.modColl id fun y => { y with sent := s.sends y }
    if x.state == .running && go then (x.keys (s.rankOf x)).forM fun key => collPart id key

/-- The engine works on a command that is its slot's first, handed over and not held; a translation fault holds it for a page request
(R275, R328). -/
def State.collStep (s : State) (id : Nat) : State :=
  match s.coll id with
  | none => s
  | some x =>
    if !(x.active && x.handed && x.held.isNone && s.collFirst x) then s
    else match collWork id s with
      | .ok _ s1 => s1
      | .error .busy _ => s
      | .error (.fault va cause lvl q) _ =>
        let i := x.issuer
        let r := (s.tried (.fault va cause lvl q)).request ((s.part i.part).homeSpring va) i.part (s.genOf i) i.asid i.core 3 cause q.acc lvl va
        r.1.modColl id fun y => { y with held := some r.2 }

/-- What must agree among the members (R266): OP, axis sizes, type, lengths, layouts, member list. -/
def CollDesc.terms (d : CollDesc) : List Nat :=
  [d.op, d.nax] ++ d.sizes ++ [ptrFmt d.src] ++ d.lens ++ [d.frm.toNat, d.dest.toNat] ++ d.members
/-- `COLLECTIVE_MATCH` (R266): the terms of the other members' `coll` of the same count on the slot that have come. One that differs
cancels the command and its core takes a layout fault; with all the others' the instance runs. -/
def execCollectiveMatch (id : Nat) (peers : List (List Nat)) (s : State) : Host.Outcome State Fault Refusal :=
  match s.coll id with
  | none => .next s
  | some x =>
    if !(x.state == .waiting && x.handed && s.collFirst x) then .next s
    else if x.desc.members.any (fun m => (s.parcels x (indexIn x.desc.members m)).contains .ended) then .next (s.endColl x .cancelled)
    else if peers.any fun p => p != x.desc.terms then .next ((s.endColl x .cancelled).raiseFor x.issuer 0x12 x.addr)
    else
      let s1 := if peers.length + 1 = x.desc.count then s.modColl id fun y => { y with state := .running } else s
      .next (s1.collStep id)

/-- `TREE_CONTRIBUTION` (R181, R275): a parcel from another member, held until the member's own command is there; the news that the
other member's command ended as cancelled or aborted ends this one as cancelled. -/
def execTreeContribution (p slot ord member : Nat) (x : Parcel) (s : State) : Host.Outcome State Fault Refusal :=
  let a : Arrival := { part := p, slot := slot, ordinal := ord, member := member, parcel := x }
  let s1 := { s with arrivals := s.arrivals ++ [a] }
  match findFirst (fun y => y.issuer.part == p && y.slot == slot && y.ordinal == ord && (y.active || y.state == .complete)) s1.colls with
  | none => .next s1
  | some y =>
    match x with
    | .ended => .next (if y.active then s1.endColl y .cancelled else s1)
    | _ => .next (if y.active then s1.collStep y.id else s1.sendOn y)

/-- `COLLECTIVE_COMPLETION` (R179): every DST byte has been performed; the write lock is released. What this member still has to pass on
for the others of its group it passes on afterwards (R271). -/
def execCollectiveCompletion (id : Nat) (s : State) : Host.Outcome State Fault Refusal :=
  let s1 := s.collStep id
  match s1.coll id with
  | none => .next s1
  | some x =>
    if x.state == .running && (x.keys (s1.rankOf x)).all x.written.contains then
      .next ((s1.endColl x .complete).sendOn x)
    else .next s1

/-! ## Commands on the handle table (R278) -/

/-- The command block at HTAB (R278): dwords 0 to 3. -/
def handleBlock (s : State) (p : Nat) (a : Agent) : U (Nat × Nat × Nat × Nat) := do
  let b := s.htab p
  let w0 ← readU a b 8
  let w1 ← readU a (b + 8) 8
  let w2 ← readU a (b + 16) 8
  let w3 ← readU a (b + 24) 8
  return (w0.1, w1.1, w2.1, w3.1)
/-- The accesses of the handle table's spring under an ASID. -/
def tableAgent (p : Nat) (asid : BitVec 16) : Agent := { part := p, asid := asid, user := false, chip := 0, cls := 0, who := none }
/-- The status of a handle command (R278). -/
def handleStatus (s : State) (p : Nat) (a : Agent) (result handle : Nat) : U Unit :=
  writeU a (s.htab p + 32) 8 (handle * 2 ^ 32 + result) false
/-- A command of a slot that has not ended. -/
def State.slotBusy (s : State) (p slot : Nat) : Bool := s.colls.any fun x => x.issuer.part == p && x.slot == slot && x.active

/-- A register command (R278): the result and the handle. A slot with a command that has not ended is busy. -/
def State.registerCmd (s : State) (p : Nat) (b : Nat × Nat × Nat × Nat) : State × Nat × Nat :=
  let slot := b.1 % 2 ^ 20
  let h := (s.part p).handle slot
  if b.2.1 ≥ 2 ^ 57 || b.2.2.1 = 0 || b.2.2.1 > 2 ^ 40 || b.2.2.2 ≥ Config.numCores then (s, 3, 0)
  else if s.slotBusy p slot then (s, 2, 0)
  else
    let gen := if h.gen ≥ 4095 then 1 else h.gen + 1
    let s1 := s.setHandle p slot { h with gen := gen, live := true, base := b.2.1, len := b.2.2.1, owner := b.2.2.2 }
    ({ s1 with colls := s1.colls.filter fun x => !(x.issuer.part == p && x.slot == slot) || (x.state == .complete && !s1.allSent x) }, 1,
      slot * 4096 + gen)
/-- A revoke command (R278). -/
def State.revokeCmd (s : State) (p : Nat) (b : Nat × Nat × Nat × Nat) : State × Nat × Nat :=
  let slot := b.1 % 2 ^ 20
  let h := (s.part p).handle slot
  if s.slotBusy p slot then (s, 2, 0) else (s.setHandle p slot { h with live := false }, 1, slot * 4096 + h.gen)
/-- A forced revoke (R278): every command on the slot ends as aborted and its core takes 0x11. -/
def State.forcedCmd (s : State) (p : Nat) (b : Nat × Nat × Nat × Nat) : State × Nat × Nat :=
  let slot := b.1 % 2 ^ 20
  let h := (s.part p).handle slot
  let s1 := s.colls.foldl (fun st x =>
    if x.issuer.part == p && x.slot == slot && x.active
    then (st.failColl x .aborted).raiseFor x.issuer 0x11 x.handle else st) s
  (s1.setHandle p slot { h with live := false }, 1, slot * 4096 + h.gen)
/-- The handle command that doubleword 0 holds when it is read (R278): one that is none of the three gives result 3. -/
def State.handleCmd (s : State) (p : Nat) (asid : BitVec 16) : State :=
  let a := tableAgent p asid
  s.doU do
    let b ← handleBlock s p a
    let s1 ← get
    let slot := b.1 % 2 ^ 20
    if bits b.1 20 40 ≠ 0 || slot ≥ s.hslots p then handleStatus s p a 3 0
    else
      let r := match b.1 / 2 ^ 60 with
        | 1 => s1.registerCmd p b
        | 2 => s1.revokeCmd p b
        | 3 => s1.forcedCmd p b
        | _ => (s1, 3, 0)
      set r.1
      handleStatus s p a r.2.1 r.2.2
/-- `REGISTER` (R278): the command that waits is handled, by what its doubleword 0 holds. -/
def execRegister (p : Nat) (asid : BitVec 16) (s : State) : Host.Outcome State Fault Refusal :=
  .next (s.takeCmd p 0x1208 fun s => s.handleCmd p asid)
/-- `REVOKE` (R278): the command that waits is handled, by what its doubleword 0 holds. -/
def execRevoke (p : Nat) (asid : BitVec 16) (s : State) : Host.Outcome State Fault Refusal :=
  .next (s.takeCmd p 0x1208 fun s => s.handleCmd p asid)
/-- `FORCED_REVOKE` (R278): the command that waits is handled, by what its doubleword 0 holds. -/
def execForcedRevoke (p : Nat) (asid : BitVec 16) (s : State) : Host.Outcome State Fault Refusal :=
  .next (s.takeCmd p 0x1208 fun s => s.handleCmd p asid)

end Sys2Proof.Machine
end

