-- ==== Sys2Proof/Machine/Answers.lean ====
section
/-!
DEFINITION. Answers to page requests (R328-R332): the requester's retry or failure, and the replay of a side log (R330, R331).
-/
namespace Sys2Proof.Machine

/-! ## The side log's replay (R330, R331) -/

/-- A page request of a spring that is outstanding. -/
def State.outstanding (s : State) (id : Nat) : Option PageReq := findFirst (fun r => r.id == id) (s.spring (id / 2 ^ 59)).reqs
/-- A context's side-log entry for a page waits for an answer. -/
def State.pageWaits (s : State) (c : Nat) (page : Nat) : Bool :=
  s.springs.any fun g => g.2.reqs.any fun r => r.kind == 1 && r.core == c && r.gen == (s.core c).gen && r.va / 4096 == page
/-- The address a store-lost trap names for an entry (R330). -/
def State.slogAddr (s : State) (c i : Nat) : Nat :=
  let d0 := s.bytes (slogPlace c i) 8
  let va := d0 % 2 ^ 57
  if d0 / 2 ^ 60 = 0 then va + ((findFirst (fun j => (s.bytes (slogPlace c i + 8) 8).testBit j) (List.range 64)).getD 0) else va

/-- One entry performed at its home slice exactly as its access would have been, with its level, its marks and its release (R330), or the
fault that its walk meets. -/
def State.slogPerform (s : State) (c : Nat) (e : SideEntry) : State × Option (Nat × Nat × BitVec 4 × Nat) :=
  let p := slogPlace c e.num
  let k := s.core c
  let d0 := s.bytes p 8
  let va := d0 % 2 ^ 57
  let oper := s.bytes (p + 8) 8
  let atomic := d0 / 2 ^ 60 ≠ 0
  let q : Req := { part := k.task.part, asid := e.asid, user := e.level == .user, r := atomic, w := true, x := false, who := some c }
  match s.l2Fill q va with
  | (s1, .fault cs l) => (s1, some (cs, l, q.acc, va))
  | (s1, .ok _ _) =>
    match s1.l2Get q.part q.asid (va / 64) with
    | none => (s1, none)
    | some x =>
      if atomic then
        (((s1.atomicLine x (va % 64) (oper % 256) (bits oper 8 4) (s.bytes (p + 16) 8) (s.anyMarked (p + 16) 8) 0).1).atomicDone c e.asid va
          (atomicSize (bits oper 8 4)) e.rel, none)
      else
        (s1.merged x { core := c, part := q.part, asid := e.asid, line := va / 64, mask := BitVec.ofNat 64 oper,
                       data := BitVec.ofNat 512 (s.bytes (p + 16) 64), marks := s.lineMarks (p + 16), clears := e.clears,
                       level := e.level, recorded := false, tagged := e.tagged, rel := e.rel, drop := 0 }, none)
/-- Entries replayed in log order until one waits for an answer or meets a new fault, which posts a new request. -/
def State.replay (s : State) (c : Nat) : Nat → State
  | 0 => s
  | fuel + 1 =>
    match s.logged c with
    | [] => s
    | e :: _ =>
      if s.pageWaits c (bits (s.bytes (slogPlace c e.num) 8) 12 45) then s
      else match s.slogPerform c e with
        | (s1, none) => (s1.slogDrop c e.num).replay c fuel
        | (s1, some (cs, l, acc, va)) =>
          let k := s1.core c
          (s1.request ((s1.part k.task.part).homeSpring va) k.task.part k.gen e.asid c 1 cs acc l va).1
/-- The entries of a page dropped in log order; the first dropped address is the loss, unless one is unreported (R331). -/
def State.slogLose (s : State) (c page : Nat) : State :=
  (s.logged c).foldl (fun st (e : SideEntry) =>
    if bits (st.bytes (slogPlace c e.num) 8) 12 45 = page then
      (st.slogDrop c e.num).modCore c fun k => { k with loss := match k.loss with
        | some a => some a
        | none => some (w64 (st.slogAddr c e.num)) }
    else st) s

/-! ## Answers (R329, R332) -/

/-- The context of a request is on its core, or kept with a stopped launch: its generation. -/
def State.contextGen (s : State) (r : PageReq) : Option (BitVec 16) :=
  if r.kind = 4 then some 0
  else if (s.core r.core).gen == r.gen || (s.keptCore r.core r.gen).isSome then some r.gen else none
/-- A context changed, on its core or with its stopped launch. -/
def State.modContext (s : State) (c : Nat) (gen : BitVec 16) (f : Core → Core) : State := s.inContext c gen fun st => st.modCore c f
/-- An answer that is dropped is counted in LATE of the maintenance block (R329, R333). -/
def State.late (s : State) (p : Nat) : State :=
  { s with mem := writeNat s.mem (ctlPlace p 0x8B0) 8 ((s.bytes (ctlPlace p 0x8B0) 8 + 1) % 2 ^ 64) }

/-- The bytes a spring holds for a request written to their frame, or a new request where the walk faults again (R328, R329). -/
def State.retryHeld (s : State) (n : Nat) (r : PageReq) : State :=
  (s.spring n).held.foldl (fun st h =>
    if h.req ≠ r.id then st
    else
      let st0 := st.modSpring n fun g => { g with held := g.held.filter fun x => x.req != r.id }
      let q : Req := { part := h.part, asid := h.asid, user := false, r := false, w := true, x := false, who := none }
      match st0.translate q (h.line * 64) with
      | (st1, .ok pa cls) =>
        match (st1.spring n).moving with
        | some m =>
          if m.old ≤ pa && pa < m.old + m.size
          then st1.modSpring n fun g => { g with held := g.held ++ [{ h with req := 2 ^ 64, frame := some (pa / 64) }] }
          else st1.writeLine (pa / 64 * 64) h.data h.mask (if cls = 2 then 0 else h.marks)
        | none => st1.writeLine (pa / 64 * 64) h.data h.mask (if cls = 2 then 0 else h.marks)
      | (st1, .fault c l) =>
        let y := st1.request n h.part 0 h.asid 0 4 c q.acc l (h.line * 64)
        y.1.modSpring n fun g => { g with held := g.held ++ [{ h with req := y.2 }] }) s

/-- What a spring's TLB and walk cache hold for the address of a request dropped, so that its access is walked from level 1 (R329). -/
def State.fromRoot (s : State) (r : PageReq) : State :=
  s.modSpring (r.id / 2 ^ 59) fun g => { g with
    tlb := g.tlb.filter fun t => !(t.part == r.part && (t.asid == r.asid || t.leaf.toNat.testBit 6) && r.va / 2 ^ t.bits == t.base / 2 ^ t.bits)
    walk := g.walk.filter fun w => !(w.part == r.part && w.asid == r.asid && w.pfx == r.va / 2 ^ (57 - 9 * w.level)) }
/-- A success: the access is tried again, walked from level 1 (R329). -/
def State.answered (s0 : State) (r : PageReq) : State :=
  let s := s0.fromRoot r
  let c := r.core
  if r.kind = 0 then s.modContext c r.gen fun k => { k with pages := k.pages.filter fun h => h.req != r.id }
  else if r.kind = 1 then
    s.inContext c r.gen fun st => (st.slogSync c).replay c 16
  else if r.kind = 2 then
    s.modContext c r.gen fun k => k.mapCmds fun x => if x.held == some r.id then { x with held := none } else x
  else if r.kind = 3 then
    s.colls.foldl (fun st x => if x.held == some r.id then (st.modColl x.id fun y => { y with held := none }).collStep x.id else st) s
  else s.retryHeld (r.id / 2 ^ 59) r

/-- A failure ends the requester's wait (R329, R331, R242, R261, R275). -/
def State.refused (s : State) (r : PageReq) : State :=
  let c := r.core
  if r.kind = 0 then
    s.modContext c r.gen fun k => { k with pages := k.pages.map fun h => if h.req == r.id then { h with failed := true } else h }
  else if r.kind = 1 then
    s.inContext c r.gen fun st => ((st.slogSync c).slogLose c (r.va / 4096)).replay c 16
  else if r.kind = 2 then
    match findFirst (fun x => x.held == some r.id) (s.core c).cmds with
    | some x => (s.cancelFrom c x.id fun k => k.queueOf x.id).raiseFor x.issuer (failCause r.cause) (w64 r.va)
    | none => s
  else if r.kind = 3 then
    match findFirst (fun x => x.held == some r.id) s.colls with
    | some x => (s.failColl x .cancelled).raiseFor x.issuer (failCause r.cause) (w64 r.va)
    | none => s
  else
    (s.modSpring (r.id / 2 ^ 59) fun g => { g with held := g.held.filter fun h => h.req != r.id }).post r.part
      (0xFFF00 + r.id / 2 ^ 59) 6 0 0 0 (w64 r.va)

/-- An answer delivered (R329): `id` is REQID, `res` its doubleword 1. -/
def State.deliver (s : State) (p : Nat) (id res : Word) : State :=
  match s.outstanding id.toNat with
  | none => s.late p
  | some r =>
    let result := res.toNat % 4
    let gen : BitVec 16 := BitVec.ofNat 16 (bits res.toNat 48 16)
    if r.part ≠ p || s.contextGen r != some gen || bits res.toNat 2 46 ≠ 0 || result = 0 || result = 3 then s.late p
    else
      let s1 := s.modSpring (id.toNat / 2 ^ 59) fun g =>
        { g with reqs := g.reqs.filter (fun x => x.id != r.id), kept := g.kept.filter fun x => x.id != r.id }
      if result = 1 then s1.answered r else s1.refused r

/-- `PAGE_ANSWER` (R329): an answer to a page request of a partition. -/
def execPageAnswer (p : Nat) (id res : Word) (s : State) : Host.Outcome State Fault Refusal := .next (s.deliver p id res)

end Sys2Proof.Machine
end

