-- ==== Sys2Proof/Machine/Matrix.lean ====
section
/-!
DEFINITION. The matrix unit (R231-R249): `mma`, `mmsp`, `mmld`, `mmst` at issue, the arbiter's grants (R233), a step (R238, R239) with
its checksums (R244), the output of a tile (R241), and the moves of tile rows (R246).
-/
namespace Sys2Proof.Machine

/-! ## The descriptor (R235, R236) -/

/-- The operand pair is of the floating class. -/
def mmFloat (d : MmDesc) : Bool := isB8T (ptrFmt d.aptr) || ptrFmt d.aptr == 9 || ptrFmt d.aptr == 10
/-- The pair of operand types is one of R236's classes. -/
def mmPair (a b : Nat) : Bool :=
  (isB8T a && isB8T b) || ((a == 9 || a == 10) && (b == 9 || b == 10)) || (decide (a ≤ 1) && decide (b ≤ 1)) ||
  ((a == 2 || a == 3) && (b == 2 || b == 3))

/-- Sparse values of every 64 (R235). -/
def spCount (spn : Nat) : Nat := 4 * 2 ^ spn
/-- M of a command. -/
def MmDesc.m (d : MmDesc) : Nat := 32 * (d.mt + 1)
/-- N of a command. -/
def MmDesc.n (d : MmDesc) : Nat := 32 * (d.nt + 1)
/-- K of a command. -/
def MmDesc.k (d : MmDesc) : Nat := 32 * (d.kt + 1)
/-- Row stride of A in force. -/
def MmDesc.aStride (d : MmDesc) : Nat := if d.astr = 0 then d.k * wOf d.aptr / 8 else d.astr
/-- Row stride of B, or the column stride of its records (R239). -/
def MmDesc.bStride (d : MmDesc) : Nat :=
  if d.bstr != 0 then d.bstr
  else if d.sparse then d.k / 64 * (8 + spCount d.spn * wOf d.bptr / 8) else d.n * wOf d.bptr / 8
/-- Row stride of C in force. -/
def MmDesc.cStride (d : MmDesc) : Nat := if d.cstr = 0 then d.n * elemBits d.out.toNat / 8 else d.cstr
/-- Bytes of A's range. -/
def MmDesc.aSpan (d : MmDesc) : Nat := (d.m - 1) * d.aStride + d.k * wOf d.aptr / 8
/-- Rows of B, or columns of records. -/
def MmDesc.bRows (d : MmDesc) : Nat := if d.sparse then d.n else d.k
/-- Bytes of one of them. -/
def MmDesc.bRow (d : MmDesc) : Nat := if d.sparse then d.k / 64 * (8 + spCount d.spn * wOf d.bptr / 8) else d.n * wOf d.bptr / 8
/-- Bytes of B's range. -/
def MmDesc.bSpan (d : MmDesc) : Nat := (d.bRows - 1) * d.bStride + d.bRow
/-- Bytes of C's range. -/
def MmDesc.cSpan (d : MmDesc) : Nat := (d.m - 1) * d.cStride + d.n * elemBits d.out.toNat / 8
/-- The command writes an output. -/
def MmDesc.hasC (d : MmDesc) : Bool := d.cptr != 0

/-- The fields of a descriptor. -/
def mmFields (sparse : Bool) (v : Nat) : MmDesc :=
  let w (i : Nat) : Nat := v / 2 ^ (64 * i) % 2 ^ 64
  let x := w 5
  { sparse := sparse, aptr := w64 (w 0), bptr := w64 (w 1), cptr := w64 (w 2), astr := bits (w 3) 0 32, bstr := bits (w 3) 32 32,
    cstr := bits (w 4) 0 32, osat := x.testBit 30, out := BitVec.ofNat 4 (bits x 26 4), wt := bits x 23 3, tile := bits x 22 1,
    acc := x.testBit 21, isat := x.testBit 20, sb := x.testBit 19, sa := x.testBit 18, spn := bits x 15 2, kt := bits x 10 5,
    nt := bits x 5 5, mt := bits x 0 5 }
/-- PB of a descriptor. -/
def mmPost (v : Nat) : Bool := (v / 2 ^ 320).testBit 31
/-- BAR of a descriptor. -/
def mmBar (v : Nat) : Nat := bits (v / 2 ^ 320) 32 4

/-- A field breaks R235 or R236. -/
def mmBroken (sparse : Bool) (v : Nat) : Bool :=
  let w (i : Nat) : Nat := v / 2 ^ (64 * i) % 2 ^ 64
  let d := mmFields sparse v
  bits (w 4) 32 32 != 0 || bits (w 5) 36 28 != 0 || (w 5).testBit 17 || w 6 != 0 || w 7 != 0 ||
  ptrBlg d.aptr != 0 || ptrBlg d.bptr != 0 || (d.hasC && (ptrBlg d.cptr != 0 || ptrFmt d.cptr != d.out.toNat)) ||
  d.out == 11 || (!d.hasC && d.out != 0) || (!sparse && d.spn != 0) || (sparse && d.kt % 2 == 0) ||
  !mmPair (ptrFmt d.aptr) (ptrFmt d.bptr) || (mmFloat d && (d.sa || d.sb)) ||
  ((d.acc || !d.hasC) && (d.mt != 0 || d.nt != 0)) || (mmPost v && !d.hasC) ||
  (d.cstr != 0 && decide (d.cstr < d.n * elemBits d.out.toNat / 8))

/-! ## Issue (R237, R238) -/

/-- An entry taken in the core's matrix queue. -/
def pushMatrix (c : Cmd) : M Unit := modC fun k => { k with matq := k.matq ++ [c] }

/-- `mma` and `mmsp` (R237, R238). -/
def matrixIssue (sparse : Bool) (a : SReg) (lit : Option Word32) : M Done := do
  let x ← rs a
  if ← follows then return next
  let v ← descriptor a x 64
  require (!mmBroken sparse v) 0x01 x.1
  let d := mmFields sparse v
  let k ← getC
  let unset (t : Nat) : Bool := b8Unset k.csrs.b8fmt t
  require (!(unset (ptrFmt d.aptr) || unset (ptrFmt d.bptr) || (d.hasC && unset d.out.toNat))) 0x01 (k.csrs.b8fmt.setWidth 64)
  let aligned (p : Word) (stride : Nat) : Bool := let n := Nat.max 1 (wOf p / 8); ptrVa p % n == 0 && stride % n == 0
  operandRows d.aptr d.aSpan (aligned d.aptr d.astr) d.m d.aStride (d.k * wOf d.aptr / 8)
  operandRows d.bptr d.bSpan (aligned d.bptr d.bstr) d.bRows d.bStride d.bRow
  if d.hasC then operandRows d.cptr d.cSpan (aligned d.cptr d.cstr) d.m d.cStride (d.n * elemBits d.out.toNat / 8)
  let start ← startMoment lit
  if k.matq.length ≥ 4 then freeze .engine
  lockRoom (if d.hasC then 3 else 2)
  if mmPost v then rootFree (mmBar v)
  flushSource d.aptr d.aSpan
  flushSource d.bptr d.bSpan
  if d.hasC then dropTarget d.cptr d.cSpan
  let id ← newCmd
  addLock id [← operandSpan d.aptr d.aSpan] false false
  addLock id [← operandSpan d.bptr d.bSpan] false false
  if d.hasC then addLock id [← operandSpan d.cptr d.cSpan] true false
  let count ← (if mmPost v then do return some (← postBytes (mmBar v) (d.m * d.n * elemBits d.out.toNat / 8)) else pure none)
  pushMatrix { id := id, issuer := ← issuerNow, start := start, moment := false, count := count, started := false, progress := 0, wrote := 0, held := none,
               work := .mm d }
  return next

/-- `mma` (R237). -/
def execMma (g : Sel) (a : SReg) (s : State) : Host.Outcome State Fault Refusal := issue (.mma g a) (matrixIssue false a none) s
/-- `mma` with a start offset (R35). -/
def execMmaClk (g : Sel) (a : SReg) (clk : Word32) (s : State) : Host.Outcome State Fault Refusal :=
  issue (.mmaClk g a clk) (matrixIssue false a (some clk)) s
/-- `mmsp` (R239). -/
def execMmsp (g : Sel) (a : SReg) (s : State) : Host.Outcome State Fault Refusal := issue (.mmsp g a) (matrixIssue true a none) s
/-- `mmsp` with a start offset (R35). -/
def execMmspClk (g : Sel) (a : SReg) (clk : Word32) (s : State) : Host.Outcome State Fault Refusal :=
  issue (.mmspClk g a clk) (matrixIssue true a (some clk)) s

/-- Rows of a `.v` form (R246). -/
def vRows (fmt : Nat) : Nat := 32 / elemBits fmt
/-- A control word breaks R245. -/
def ctlBroken (b : Word) (store vec : Bool) : Bool :=
  let n := b.toNat
  let pb := n.testBit 11
  bits n 32 32 != 0 || bits n 4 2 != 0 || bits n 0 4 == 11 || (vec && bits n 12 20 != 0) || (pb && (!store || vec)) ||
  (!pb && bits n 7 4 != 0) || (!store && n.testBit 6)
/-- The row stride of a tarn form in force (R245). -/
def TileDesc.rowStride (d : TileDesc) : Nat := if d.stride = 0 then 4 * elemBits d.fmt.toNat else d.stride

/-- `mmld` and `mmst` (R245-R247). -/
def tileIssue (a b : SReg) (t store : Bool) (vreg : Option VReg) : M Done := do
  let x ← rs a
  let y ← rs b
  if ← follows then return next
  require (!x.2) 0x0E (w64 a.toNat)
  require (!y.2) 0x0E (w64 b.toNat)
  let n := y.1.toNat
  let fmt := bits n 0 4
  let stride := bits n 12 20
  let w := elemBits fmt
  require (!ctlBroken y.1 store vreg.isSome) 0x01 y.1
  let k ← getC
  require (!b8Unset k.csrs.b8fmt fmt) 0x01 (k.csrs.b8fmt.setWidth 64)
  let d : TileDesc := { store := store, tile := if t then 1 else 0, addr := x.1, stride := stride, fmt := BitVec.ofNat 4 fmt,
                        sat := n.testBit 6, vreg := vreg,
                        data := (match vreg with | some v => k.regs.vec v | none => 0),
                        poison := (match vreg with | some v => k.regs.vecPoison v | none => 0), void := false }
  let size := 31 * d.rowStride + 4 * w
  match vreg with
  | some _ => require (decide (x.1.toNat < 32) && x.1.toNat % vRows fmt == 0) 0x01 x.1
  | none => do
    let s ← get
    let va := x.1.toNat
    require (bits va 57 7 == 0 && inWindow va && !spanFault s.cur va size) 0x07 x.1
    require (va % Nat.max 1 (w / 8) == 0 && stride % Nat.max 1 (w / 8) == 0) 0x03 x.1
    require (!(store && stride != 0 && decide (stride < 4 * w))) 0x01 x.1
    if k.level == .user && reservedRows va 32 d.rowStride (4 * w) then trap 0x05 x.1
    match (windowPlace (chipOf s.cur) va).bind (s.tarnFault s.cur k.level) with
    | some c => trap c x.1
    | none => pure ()
  if k.matq.length ≥ 4 then freeze .engine
  if vreg.isNone then lockRoom 1
  if n.testBit 11 then rootFree (bits n 7 4)
  let id ← newCmd
  if vreg.isNone then addLock id [← operandSpan x.1 size] store false
  let count ← (if n.testBit 11 then do return some (← postBytes (bits n 7 4) (128 * w)) else pure none)
  pushMatrix { id := id, issuer := ← issuerNow, start := none, moment := false, count := count, started := false, progress := 0, wrote := 0, held := none,
               work := .tile d }
  return next

/-- `mmld` (R246). -/
def execMmld (g : Sel) (a b : SReg) (t : Bool) (s : State) : Host.Outcome State Fault Refusal :=
  issue (.mmld g a b t) (tileIssue a b t false none) s
/-- `mmld.v` (R246). -/
def execMmldV (g : Sel) (a b : SReg) (c : VReg) (t : Bool) (s : State) : Host.Outcome State Fault Refusal :=
  issue (.mmldV g a b c t) (tileIssue a b t false (some c)) s
/-- `mmst` (R246). -/
def execMmst (g : Sel) (a b : SReg) (t : Bool) (s : State) : Host.Outcome State Fault Refusal :=
  issue (.mmst g a b t) (tileIssue a b t true none) s
/-- `mmst.v` (R246): its register is late until the command has run, which holds the core (R33). -/
def execMmstV (g : Sel) (a b : SReg) (c : VReg) (t : Bool) (s : State) : Host.Outcome State Fault Refusal :=
  issue (.mmstV g a b c t) (tileIssue a b t true (some c)) s

/-! ## Tiles -/

/-- An accumulator tile as its elements with their poison, row by row (R234). -/
abbrev Tile := List (Nat × Bool)
/-- A core's tile. -/
def Regs.tile (r : Regs) (i : Nat) : Tile :=
  let x := (r.a.toArray.getD i 0).toNat
  let p := r.ap.toArray.getD i 0
  (List.range 1024).map fun e => (bits x (32 * e) 32, p.getLsbD e)
/-- A core's tile written. -/
def Regs.setTile (r : Regs) (i : Nat) (t : Tile) : Regs :=
  { r with a := r.a.setIfInBounds i (BitVec.ofNat 32768 (packed 32 (t.map (·.1))))
           ap := r.ap.setIfInBounds i (BitVec.ofNat 1024 (packed 1 (t.map fun x => x.2.toNat))) }
/-- A zero tile. -/
def Tile.zero : Tile := List.replicate 1024 (0, false)

/-- A tile element in an output type (R241): `flt` says that the tile is read as FP32. Bits are copied between types of 32 bits; a
conversion of a poisoned element follows R195, and a floating one holding a pattern is poisoned. -/
def tileOut (b8 : BitVec 32) (flt : Bool) (out : Nat) (sat : Bool) (x : Nat × Bool) : Nat × Bool :=
  let e : Env := { b8 := b8, mode := if sat then 5 else 1, sat := sat, satn := sat, fz := false }
  if !flt && isIntT out && elemBits out = 32 then x
  else
    let r := e.convertP (if flt then 8 else 6) out (x.1, x.2 || (flt && fp32.isPoison x.1))
    (r.1, r.2.1)
/-- An element widened into a tile (R246), its poison as R195 converts it. -/
def tileIn (b8 : BitVec 32) (fmt : Nat) (x : Nat × Bool) : Nat × Bool :=
  if isIntT fmt then
    (if elemBits fmt = 32 then x else (if x.2 then 0 else wrapInt 32 (intOf fmt x.1), x.2))
  else let r := (Env.plain b8).convertP fmt 8 x; (r.1, r.2.1)

/-! ## One step (R199, R200, R238, R239) -/

/-- An element of an operand with its poison. -/
abbrev Elt := Nat × Bool

/-- A row of `n` elements of type t from a bit address on. -/
def readRow (a : Agent) (b8 : BitVec 32) (t bit : Nat) : Nat → U (List Elt)
  | 0 => return []
  | n + 1 => do
    let x ← readElem a b8 t bit
    let r ← readRow a b8 t (bit + elemBits t) n
    return (x.1, x.2.1) :: r
/-- `n` rows of 32 elements, a stride apart. -/
def readRows (a : Agent) (b8 : BitVec 32) (t va stride len : Nat) : Nat → U (List (List Elt))
  | 0 => return []
  | n + 1 => do
    let x ← readRow a b8 t (8 * va) len
    let r ← readRows a b8 t (va + stride) stride len n
    return x :: r

/-- The columns of a matrix given by its rows. -/
def columns (n : Nat) (m : List (List Elt)) : List (List Elt) :=
  (List.range n).map fun j => m.map fun r => (nth r j).getD (0, false)

/-- The 64 elements of a column of B from a compressed record (R239): a mask without the right count poisons the column. -/
def expandRecord (mask : Nat) (vals : List Elt) (ns : Nat) : List Elt :=
  if popCount 64 mask ≠ ns then List.replicate 64 (0, true)
  else (List.range 64).map fun t => if mask.testBit t then (nth vals (popCount t mask)).getD (0, false) else (0, false)
/-- The columns of B's group of 64 from its records, 32 columns from j on. A mask in a marked word poisons the column as one without the
right count does (DESIGN CHOICE: log entry 91). -/
def readRecords (a : Agent) (b8 : BitVec 32) (d : MmDesc) (g : Nat) : Nat → Nat → U (List (List Elt))
  | 0, _ => return []
  | n + 1, j => do
    let ns := spCount d.spn
    let at_ := ptrVa d.bptr + j * d.bStride + g * (8 + ns * wOf d.bptr / 8)
    let m ← readU a at_ 8
    let v ← readRow a b8 (ptrFmt d.bptr) (8 * (at_ + 8)) ns
    let r ← readRecords a b8 d g n (j + 1)
    let col := expandRecord m.1 v ns
    return (if m.2.1 then col.map fun e => (e.1, true) else col) :: r

/-- The integer value of an operand element by the control word's sign bit (R199). -/
def mmInt (w : Nat) (sgn : Bool) (v : Nat) : Int := if sgn then signed w v else (v % 2 ^ w : Nat)
/-- The exact sum of a group's 32 products (R200): floating as an exact value. -/
def groupFloat (b8 : BitVec 32) (ta tb : Nat) (r c : List Elt) : Exact :=
  match (r.zip c).map fun p => (mulExact (exactOf b8 ta p.1.1) (exactOf b8 tb p.2.1)).1 with
  | [] => .num false 0 0 false
  | x :: rest => rest.foldl (fun acc y => (addExact 1 acc y).1) x
/-- The exact sum of a group's products, integers. -/
def groupInt (w wb : Nat) (sa sb : Bool) (r c : List Elt) : Int :=
  (r.zip c).foldl (fun acc p => acc + mmInt w sa p.1.1 * mmInt wb sb p.2.1) 0
/-- A group accumulated onto an element (R199, R200); `bad` poisons it (R244). -/
def accumulate (d : MmDesc) (b8 : BitVec 32) (r c : List Elt) (bad : Bool) (acc : Elt) : Elt :=
  let p := acc.2 || bad || (mmFloat d && fp32.isPoison acc.1) || (r.zip c).any fun q => q.1.2 || q.2.2
  if mmFloat d then
    if p then (0x7FFFFFFF, true)
    else (addF32 acc.1 (fp32.round 1 false false (groupFloat b8 (ptrFmt d.aptr) (ptrFmt d.bptr) r c)).1, false)
  else (fitInt d.isat true 32 (signed 32 acc.1 + groupInt (wOf d.aptr) (wOf d.bptr) d.sa d.sb r c), p)
/-- A step's block accumulated onto a tile, group of 32 by group of 32. -/
def accumulateTile (d : MmDesc) (b8 : BitVec 32) (rows cols : List (List Elt)) (bad : Nat → Nat → Bool) (t : Tile) : Tile :=
  ((List.range 32).zip rows).foldr (fun r l =>
    ((List.range 32).zip cols).foldr (fun c l => 
      let old := (nth t (32 * r.1 + c.1)).getD (0, false)
      let one := accumulate d b8 (r.2.take 32) (c.2.take 32) (bad r.1 c.1) old
      (if r.2.length > 32 then accumulate d b8 (r.2.drop 32) (c.2.drop 32) false one else one) :: l) l) []

/-- Groups of a command along K, one step each. -/
def MmDesc.groups (d : MmDesc) : Nat := if d.sparse then d.k / 64 else d.k / 32
/-- Steps of a command (R232). -/
def MmDesc.steps (d : MmDesc) : Nat := (d.mt + 1) * (d.nt + 1) * d.groups

/-- A row or column holds an operand that exempts it from the checks: NaN, ∞ or poison (R244). -/
def exempt (b8 : BitVec 32) (t : Nat) (l : List Elt) : Bool :=
  l.any fun e => e.2 || match exactOf b8 t e.1 with
    | .num .. => false
    | _ => true
/-- The rows or columns a checksum report names, those exempt apart. -/
def reported (m : Word32) (b8 : BitVec 32) (t : Nat) (l : List (List Elt)) : List Nat :=
  ((List.range 32).zip l).filterMap fun e => if m.getLsbD e.1 && !exempt b8 t e.2 then some e.1 else none

/-- Rows of elements written, the `n`-th at its bit address (R241, R246): the first address to report. -/
def putRows (a : Agent) (t : Nat) (bit : Nat → Nat) : Nat → List (List (Nat × Bool)) → U (Option Nat)
  | _, [] => return none
  | n, r :: rest => do
    let x ← putRow a t false r.length (bit n) r
    let y ← putRows a t bit (n + 1) rest
    return x.or y
/-- The rows of a tile in an output type. -/
def Tile.rows (t : Tile) (f : Nat × Bool → Nat × Bool) : List (List (Nat × Bool)) :=
  (List.range 32).map fun i => ((t.drop (32 * i)).take 32).map f

/-- The energy of a step in pJ (R371). -/
def stepEnergy (d : MmDesc) : Nat := if wOf d.aptr = 4 then 4000 else if wOf d.aptr = 8 then 7000 else 14000
/-- Output tiles whose last step has run (R238). -/
def Cmd.tilesDone (x : Cmd) (d : MmDesc) : Nat := x.progress / d.groups
/-- The finished output tile that has not been written yet (R241). -/
def Cmd.pendingTile (x : Cmd) (d : MmDesc) : Option Nat := if d.hasC && decide (x.wrote < x.tilesDone d) then some x.wrote else none
/-- A command has a step or an output tile left. -/
def Cmd.unfinished (x : Cmd) (d : MmDesc) : Bool := decide (x.progress < d.steps) || (x.pendingTile d).isSome
/-- The cached lines of some rows pinned in their home slices for a command (R240). -/
def State.pinRows (s : State) (c : Nat) (x : Cmd) (va stride n rows : Nat) : State :=
  if inWindow va then s
  else
    let lines := ((List.range rows).map fun r =>
      let a := va + r * stride
      (List.range ((a % 64 + n + 63) / 64)).map fun i => a / 64 + i).flatten
    s.modPond (pondOf c) fun p => { p with pins := lines.foldl (fun l (n : Nat) =>
      let pin : Pin := { cmd := x.id, part := x.issuer.part, asid := x.issuer.asid, line := n }
      if l.contains pin then l else pin :: l) p.pins }
/-- One step of `mma` or `mmsp` (R238, R239), its checksum report given: rows and columns whose sums disagree, and whether they
disagree again on the rerun (R244). Its operand lines are pinned from their first read until the command's operands are consumed, which
the last step brings about whatever becomes of C (R240). -/
def matrixStepU (c : Nat) (x : Cmd) (d : MmDesc) (rows cols : Word32) (again : Bool) : U Unit := do
  let i := x.issuer
  let a := i.agent
  let t := x.progress / d.groups
  let ti := t / (d.nt + 1)
  let tj := t % (d.nt + 1)
  let g := x.progress % d.groups
  let width := if d.sparse then 64 else 32
  let at_ := ptrVa d.aptr + 32 * ti * d.aStride + g * width * wOf d.aptr / 8
  modify fun s => s.pinRows c x at_ d.aStride (width * wOf d.aptr / 8) 32
  let ra ← readRows a i.b8 (ptrFmt d.aptr) at_ d.aStride width 32
  let cb ← (if d.sparse then do
      let size := 8 + spCount d.spn * wOf d.bptr / 8
      modify fun s => s.pinRows c x (ptrVa d.bptr + 32 * tj * d.bStride + g * size) d.bStride size 32
      readRecords a i.b8 d g 32 (32 * tj)
    else do
      let bt := ptrVa d.bptr + 32 * g * d.bStride + 32 * tj * wOf d.bptr / 8
      modify fun s => s.pinRows c x bt d.bStride (4 * wOf d.bptr) 32
      return columns 32 (← readRows a i.b8 (ptrFmt d.bptr) bt d.bStride 32 32))
  let checked := i.cls != .none
  let badR := if checked then reported rows i.b8 (ptrFmt d.aptr) ra else []
  let badC := if checked then reported cols i.b8 (ptrFmt d.bptr) cb else []
  let some_ := !(badR.isEmpty && badC.isEmpty)
  let bad (r q : Nat) : Bool := some_ && again &&
    (if badR.isEmpty then badC.contains q else if badC.isEmpty then badR.contains r else badR.contains r && badC.contains q)
  let s ← get
  let old := if g = 0 && !d.acc then Tile.zero else (s.core c).regs.tile d.tile
  let new := accumulateTile d i.b8 ra cb bad old
  modify fun s => (s.modCore c fun k => { k with regs := k.regs.setTile d.tile new }).spend c (stepEnergy d)
  if some_ then
    modify fun s =>
      let s1 := s.countError c (if again then 16 else 1) i.pc.toNat
      if again then s1.raiseFor i 0x19 i.pc else s1
  modify fun s =>
    let s1 := s.modCmd c x.id fun y => { y with progress := x.progress + 1 }
    if x.progress + 1 = d.steps then
      let s2 := s1.unlock (pondOf c) x.id true
      if d.hasC then s2 else s2.endCmd c { x with progress := x.progress + 1 }
    else s1

/-- The output of a finished tile written (R241), which its last step's grant covers. -/
def tileWriteU (c : Nat) (x : Cmd) (d : MmDesc) (t : Nat) : U Unit := do
  let i := x.issuer
  let w := elemBits d.out.toNat
  let ti := t / (d.nt + 1)
  let tj := t % (d.nt + 1)
  let s ← get
  let rows := ((s.core c).regs.tile d.tile).rows (tileOut i.b8 (mmFloat d) d.out.toNat d.osat)
  let at_ (r : Nat) : Nat := ptrVa d.cptr + (32 * ti + r) * d.cStride + 4 * tj * w
  let rep ← putRows i.agent d.out.toNat (fun r => 8 * at_ r) 0 rows
  modify fun s =>
    let s0 := (List.range 32).foldl (fun st r => st.unhold (fun q => q == c) i (at_ r) (4 * w)) s
    let s1 := (s0.landed c x.id (128 * w)).modCmd c x.id fun y => { y with wrote := t + 1 }
    match rep with
    | some va => s1.raiseFor i 0x0E (w64 va)
    | none => s1
/-- A finished tile of a command written, if it has one. -/
def State.writeTile (s : State) (c id : Nat) (d : MmDesc) : State :=
  match (s.core c).cmd id with
  | some x => match x.pendingTile d with
    | some t => s.unitStep c id (tileWriteU c x d t)
    | none => s
  | none => s

/-! ## The arbiter (R233) -/

/-- The head of a pond's queue with a step ready: by local index. An `mmst.v` waits until an earlier one's result has arrived. -/
def State.matReady (s : State) (pond n : Nat) : Option Cmd :=
  let c := pondCore pond n
  match (s.core c).matq with
  | x :: _ =>
    let unfinished := match x.work with
      | .mm d => x.unfinished d
      | .tile d => !(d.store && d.vreg.isSome && (s.core c).late.isSome)
      | _ => true
    if unfinished && x.held.isNone && s.mayRun c x then some x else none
  | [] => none
/-- The steps a command's grant holds (R233). -/
def Cmd.grantSize (x : Cmd) : Nat :=
  match x.work with
  | .mm d => Nat.min (d.wt + 1) x.issuer.cap
  | _ => 1
/-- The queue served next: one whose start moment has just come, the running grant, or the next of the round. -/
def State.matGrant (s : State) (pond : Nat) : Option Nat :=
  let p := s.pond pond
  match findFirst (fun n => match s.matReady pond n with
      | some x => x.start.isSome && x.progress == 0
      | none => false) (List.range 8) with
  | some n => some n
  | none =>
    match (match p.grant with
      | some (n, id, left) => if left > 0 && ((s.matReady pond n).map fun x => x.id) == some id then some n else none
      | none => none) with
    | some n => some n
    | none => findFirst (fun n => (s.matReady pond n).isSome) ((List.range 8).map fun i => (p.arb + i) % 8)
/-- The arbiter after a step of a queue's command: the grant goes on, or a new one began there and the pointer moved past it. A grant
is of one command and passes to no other. A command served ahead of the round at its start moment has a whole grant, the pointer moves
past it, and what a grant that it cut short had left is gone (DESIGN CHOICE: log entry 27). -/
def Pond.served (p : Pond) (n : Nat) (x : Cmd) (ends : Bool) : Pond :=
  let anew : Pond := { p with arb := (n + 1) % 8, grant := if ends || x.grantSize ≤ 1 then none else some (n, x.id, x.grantSize - 1) }
  match p.grant with
  | some (m, id, left) =>
    if m = n && id = x.id && left > 0 then { p with grant := if ends || left = 1 then none else some (n, id, left - 1) } else anew
  | none => anew

/-- `MATRIX_STEP` (R233, R238, R244). -/
def execMatrixStep (pond : Nat) (rows cols : Word32) (again : Bool) (s : State) : Host.Outcome State Fault Refusal :=
  match s.matGrant pond with
  | some n =>
    match s.matReady pond n with
    | some x => match x.work with
      | .mm d =>
        let c := pondCore pond n
        let s0 := s.modCmd c x.id fun y => { y with started := true }
        if (x.pendingTile d).isSome then .next (s0.writeTile c x.id d)
        else
          let s1 := s0.unitStep c x.id (matrixStepU c x d rows cols again)
          let moved := match (s1.core c).cmd x.id with
            | some y => y.progress != x.progress
            | none => true
          .next (if moved then (s1.modPond pond fun p => p.served n x (decide (x.progress + 1 = d.steps))).writeTile c x.id d else s1)
      | _ => .next s
    | none => .next s
  | none => .next s

/-- `MATRIX_COMPLETION` (R240): every byte of the head's C has been performed. -/
def execMatrixCompletion (c : Nat) (s : State) : Host.Outcome State Fault Refusal :=
  match (s.core c).matq with
  | x :: _ => match x.work with
    | .mm d => .next (if x.started && !x.unfinished d then s.endCmd c x else s)
    | _ => .next s
  | [] => .next s

/-! ## Moves of tile rows (R246) -/

/-- The tile with elements from position n on replaced. -/
def replaceFrom (t : Tile) (n : Nat) (l : List Elt) : Tile := t.take n ++ l ++ t.drop (n + l.length)

/-- An `mmld` or `mmst` run as one step (R246). -/
def tileMoveU (c : Nat) (x : Cmd) (d : TileDesc) : U Unit := do
  let i := x.issuer
  let fmt := d.fmt.toNat
  let w := elemBits fmt
  let s ← get
  let t := (s.core c).regs.tile d.tile
  match d.vreg, d.store with
  | none, false => do
    let m ← readRows i.agent i.b8 fmt d.addr.toNat d.rowStride 32 32
    modify fun s => s.modCore c fun k => { k with regs := k.regs.setTile d.tile (m.flatten.map (tileIn i.b8 fmt)) }
  | none, true => do
    let _ ← putRows i.agent fmt (fun r => 8 * (d.addr.toNat + r * d.rowStride)) 0 (t.rows (tileOut i.b8 (!isIntT fmt) fmt d.sat))
    modify fun s => s.landed c x.id (128 * w)
  | some _, false => do
    let l := (List.range (1024 / w)).map fun e =>
      let v := elemOf d.data w e
      tileIn i.b8 fmt (v, d.poison.getLsbD (w * e / 32) || isPattern i.b8 fmt v)
    modify fun s => s.modCore c fun k => { k with regs := k.regs.setTile d.tile (replaceFrom t (32 * d.addr.toNat) l) }
  | some v, true => do
    let l := ((t.drop (32 * d.addr.toNat)).take (1024 / w)).map (tileOut i.b8 (!isIntT fmt) fmt d.sat)
    let g := gather w ((l.zip (List.range l.length)).map fun e => (e.2, e.1.1, e.1.2, 0))
    modify fun s => s.modCore c fun k =>
      { k with late := some { reg := v, data := g.1, poison := g.2.1, sup := i.level == .supervisor, void := d.void } }
  modify fun s => s.endCmd c x

/-- `TILE_MOVE` (R232, R246): the head of the core's queue, when the arbiter grants it its step. -/
def execTileMove (c : Nat) (s : State) : Host.Outcome State Fault Refusal :=
  let pond := pondOf c
  let n := localIndex c
  if s.matGrant pond = some n && pondCore pond n = c then
    match s.matReady pond n with
    | some x => match x.work with
      | .tile d =>
        let s0 := s.modCmd c x.id fun y => { y with started := true }
        let s1 := s0.unitStep c x.id (tileMoveU c x d)
        .next (if ((s1.core c).cmd x.id).isNone then s1.modPond pond fun p => p.served n x true else s1)
      | _ => .next s
    | none => .next s
  else .next s

/-- A late result written to its register, unless a later instruction has written it, and so to the checkpoint that a pair took at the
`mmst.v` (R33, R315). -/
def Core.deliver (k : Core) (r : LateResult) : Core :=
  if r.void then k
  else { k with
    regs := k.regs.setVec r.reg r.data r.poison
    group := { k.group with saved := k.group.saved.map fun p => { p with regs := p.regs.setVec r.reg r.data r.poison } } }
/-- `LATE_RESULT_ARRIVAL` (R33, R246): the late register arrives, in a pair at both cores once the follower has caught up (R313). -/
def execLateResultArrival (c : Nat) (s : State) : Host.Outcome State Fault Refusal :=
  let k := s.core c
  match k.late with
  | some r =>
    let arrive (st : State) (q : Nat) : State := st.modCore q fun k => k.deliver r
    let done (st : State) : State := st.modCore c fun k =>
      { k with late := none, freeze := if (k.freeze.map fun z => z.kind) == some .engine then none else k.freeze }
    if k.group.pair == .leader then
      if (s.core k.group.partner).group.stream.isEmpty then .next (done (arrive (arrive s c) k.group.partner)) else .next s
    else .next (done (arrive s c))
  | none => .next s

end Sys2Proof.Machine
end

