-- ==== Sys2Proof/Machine/Threshold.lean ====
section
/-!
DEFINITION. The threshold array (R281-R301): `tload`, `teval` and `tlv` at issue, the pond's choice of the next command (R295), their
runs and completion; and the start moments of every engine command (R35-R37).
-/
namespace Sys2Proof.Machine

/-! ## The columns of a launch (R291) -/

/-- The local indices of a pond that a launch rectangle holds. -/
def launchIndices (r : Nat × Nat × Nat × Nat) (pond : Nat) : List Nat := (List.range 8).filter fun n => inRect r (pondCore pond n)
/-- The physical column of a launch's column. -/
def physColumn (r : Nat × Nat × Nat × Nat) (pond c : Nat) : Nat := 4 * (nth (launchIndices r pond) (c / 4)).getD 0 + c % 4
/-- Columns the launch of a core may name in its pond: 4k. -/
def Core.columns (k : Core) (c : Nat) : Nat := 4 * (launchIndices k.rect (pondOf c)).length
/-- The spans of a column lock (R281). -/
def columnSpans (r : Nat × Nat × Nat × Nat) (pond col n : Nat) : List Span :=
  (List.range n).map fun i => columnSpan 0 (physColumn r pond (col + i)) 1
/-- The physical columns a command's column lock names, in order. -/
def State.lockedColumns (s : State) (pond id : Nat) : List Nat :=
  (((s.pond pond).locks.filter fun l => l.cmd == id).map fun l => (l.spans.filter fun x => x.kind == 2).map (·.lo)).flatten

/-! ## Issue (R283, R285, R287, R297-R299) -/

/-- A doubleword of a descriptor. -/
def dword (v i : Nat) : Nat := v / 2 ^ (64 * i) % 2 ^ 64
/-- An entry taken in the core's threshold queue. -/
def pushThreshold (c : Cmd) : M Unit := modC fun k => { k with thrq := k.thrq ++ [c] }
/-- A threshold command of the core that moves. -/
def thresholdCmd (id : Nat) (start : Option Word) (count : Option Post) (w : Work) : M Cmd := do
  return { id := id, issuer := ← issuerNow, start := start, moment := false, count := count, started := false, progress := 0, wrote := 0,
           held := none, work := w }
/-- The checks on one tarn operand: in the window under R116, its range in one tarn; 4-byte alignment; checks 4 and 5 of R117. -/
def tarnOperand (ptr : Word) (n : Nat) (aligned : Bool) : M Unit := do
  require (inWindow (ptrVa ptr)) 0x07 ptr
  operandCheck ptr n aligned
/-- A queue of four commands has room, or the freeze (R281). -/
def thresholdRoom (n : Nat) : M Unit := do
  let k ← getC
  if k.thrq.length ≥ 4 then freeze .engine
  lockRoom n

/-- `tload` (R283, R297). -/
def execTload (g : Sel) (a b : SReg) (s : State) : Host.Outcome State Fault Refusal :=
  issue (.tload g a b) (do
    let x ← rs a
    let y ← rs b
    if ← follows then return next
    require (!x.2) 0x0E (w64 a.toNat)
    require (!y.2) 0x0E (w64 b.toNat)
    let n := y.1.toNat
    let d : TloadDesc := { addr := x.1, row0 := bits n 26 6, nr := bits n 20 6 + 1, col0 := bits n 15 5, nc := bits n 10 5 + 1,
                           clr := n.testBit 4 }
    let size := 16 * d.nr * d.nc
    require (x.1.toNat % 16 == 0) 0x03 x.1
    let s ← get
    let k := s.core s.cur
    let va := x.1.toNat
    require (bits va 57 7 == 0 && inWindow va && !spanFault s.cur va size) 0x07 x.1
    if k.level == .user && reservedShare va size then trap 0x05 x.1
    match (windowPlace (chipOf s.cur) va).bind (s.tarnFault s.cur k.level) with
    | some c => trap c x.1
    | none => pure ()
    let pb := n.testBit 9
    require (bits n 32 32 == 0 && bits n 0 4 == 0 && (pb || bits n 5 4 == 0) && decide (d.row0 + d.nr ≤ 64) && decide (d.col0 + d.nc ≤ 32) &&
      decide (d.col0 + d.nc ≤ k.columns s.cur)) 0x01 y.1
    thresholdRoom 2
    if pb then rootFree (bits n 5 4)
    let id ← newCmd
    addLock id [← operandSpan x.1 size] false false
    addLock id (columnSpans k.rect (pondOf s.cur) d.col0 d.nc) true false
    let count ← (if pb then do return some (← postBytes (bits n 5 4) size) else pure none)
    pushThreshold (← thresholdCmd id none count (.tload d))
    return next) s

/-- The fields of a `teval` descriptor, strides in force. -/
def tevalFields (v : Nat) : TevalDesc :=
  let x := dword v 3
  let nf := bits x 22 10 + 1
  let nc := bits x 11 5 + 1
  { fptr := w64 (dword v 0), lptr := w64 (dword v 1), fstr := (if bits (dword v 2) 0 32 = 0 then 4 * nf else bits (dword v 2) 0 32),
    lstr := (if bits (dword v 2) 32 32 = 0 then 4 * nc else bits (dword v 2) 32 32), ns := bits x 32 16 + 1, nf := nf, int := x.testBit 21,
    col0 := bits x 16 5, nc := nc, pairs := BitVec.ofNat 16 (dword v 4) }
/-- Bytes of the feature range. -/
def TevalDesc.fSpan (d : TevalDesc) : Nat := (d.ns - 1) * d.fstr + 4 * d.nf
/-- Bytes of the index range. -/
def TevalDesc.lSpan (d : TevalDesc) : Nat := (d.ns - 1) * d.lstr + 4 * d.nc
/-- A field breaks R285, or a PAIRS bit R294, or a column R291; the overlap of ranges apart. -/
def tevalBroken (v columns : Nat) : Bool :=
  let d := tevalFields v
  let x := dword v 3
  bits (dword v 0) 57 7 != 0 || bits (dword v 1) 57 7 != 0 || bits x 48 16 != 0 || bits x 0 6 != 0 || (!x.testBit 10 && bits x 6 4 != 0) ||
  bits (dword v 4) 16 48 != 0 || dword v 5 != 0 || dword v 6 != 0 || dword v 7 != 0 || decide (d.col0 + d.nc > 32) ||
  decide (d.col0 + d.nc > columns) ||
  ((List.range 16).any fun q => d.pairs.getLsbD q && !(decide (d.col0 ≤ 2 * q) && decide (2 * q + 1 < d.col0 + d.nc))) ||
  decide (d.lstr < 4 * d.nc)

/-- `teval` (R286, R298). -/
def tevalIssue (a : SReg) (lit : Option Word32) : M Done := do
  let x ← rs a
  if ← follows then return next
  let v ← descriptor a x 64
  let s ← get
  let k := s.core s.cur
  let d := tevalFields v
  let meet ← operandsMeet d.fptr d.fSpan d.lptr d.lSpan
  require (!tevalBroken v (k.columns s.cur) && !meet) 0x01 x.1
  tarnOperand d.fptr d.fSpan (ptrVa d.fptr % 4 == 0 && d.fstr % 4 == 0)
  tarnOperand d.lptr d.lSpan (ptrVa d.lptr % 4 == 0 && d.lstr % 4 == 0)
  let start ← startMoment lit
  thresholdRoom 3
  let pb := (dword v 3).testBit 10
  let bar := bits (dword v 3) 6 4
  if pb then rootFree bar
  let id ← newCmd
  addLock id [← operandSpan d.fptr d.fSpan] false false
  addLock id [← operandSpan d.lptr d.lSpan] true false
  addLock id (columnSpans k.rect (pondOf s.cur) d.col0 d.nc) false false
  let count ← (if pb then do return some (← postBytes bar (4 * d.ns * d.nc)) else pure none)
  pushThreshold (← thresholdCmd id start count (.teval d))
  return next
/-- `teval` (R286). -/
def execTeval (g : Sel) (a : SReg) (s : State) : Host.Outcome State Fault Refusal := issue (.teval g a) (tevalIssue a none) s
/-- `teval` with a start offset (R35). -/
def execTevalClk (g : Sel) (a : SReg) (clk : Word32) (s : State) : Host.Outcome State Fault Refusal :=
  issue (.tevalClk g a clk) (tevalIssue a (some clk)) s

/-- The fields of a `tlv` descriptor, strides in force. -/
def tlvFields (v : Nat) : TlvDesc :=
  let x := dword v 4
  let nt := bits x 11 5 + 1
  { iptr := w64 (dword v 0), vptr := w64 (dword v 1), optr := w64 (dword v 2),
    istr := (if bits (dword v 3) 32 32 = 0 then 4 * nt else bits (dword v 3) 32 32), vstr := bits (dword v 3) 0 32,
    ns := bits x 32 16 + 1, ln := bits x 16 7 + 1, nt := nt }
/-- Bytes of the index range. -/
def TlvDesc.iSpan (d : TlvDesc) : Nat := (d.ns - 1) * d.istr + 4 * d.nt
/-- Bytes of the value range. -/
def TlvDesc.vSpan (d : TlvDesc) : Nat := (d.nt - 1) * d.vstr + 4 * d.ln
/-- A field breaks R287; the overlap of ranges apart. -/
def tlvBroken (v : Nat) : Bool :=
  let d := tlvFields v
  let x := dword v 4
  bits (dword v 0) 57 7 != 0 || bits (dword v 1) 57 7 != 0 || bits (dword v 2) 57 7 != 0 || bits x 48 16 != 0 || bits x 23 9 != 0 ||
  bits x 0 6 != 0 || (!x.testBit 10 && bits x 6 4 != 0) || dword v 5 != 0 || dword v 6 != 0 || dword v 7 != 0 || d.vstr == 0 || d.vstr % 4 != 0

/-- `tlv` (R288, R299). -/
def execTlv (g : Sel) (a : SReg) (s : State) : Host.Outcome State Fault Refusal :=
  issue (.tlv g a) (do
    let x ← rs a
    if ← follows then return next
    let v ← descriptor a x 64
    let d := tlvFields v
    let onIndex ← operandsMeet d.optr (4 * d.ns) d.iptr d.iSpan
    let onValue ← operandsMeet d.optr (4 * d.ns) d.vptr d.vSpan
    require (!(tlvBroken v || onIndex || onValue)) 0x01 x.1
    tarnOperand d.iptr d.iSpan (ptrVa d.iptr % 4 == 0 && d.istr % 4 == 0)
    tarnOperand d.vptr d.vSpan (ptrVa d.vptr % 4 == 0)
    tarnOperand d.optr (4 * d.ns) (ptrVa d.optr % 4 == 0)
    thresholdRoom 3
    let pb := (dword v 4).testBit 10
    let bar := bits (dword v 4) 6 4
    if pb then rootFree bar
    let id ← newCmd
    addLock id [← operandSpan d.iptr d.iSpan] false false
    addLock id [← operandSpan d.vptr d.vSpan] false false
    addLock id [← operandSpan d.optr (4 * d.ns)] true false
    let count ← (if pb then do return some (← postBytes bar (4 * d.ns)) else pure none)
    pushThreshold (← thresholdCmd id none count (.tlv d))
    return next) s

/-! ## Choosing the next command (R295) -/

/-- A command with a start offset is due at its core. -/
def Core.due (k : Core) (x : Cmd) : Bool :=
  !x.started && match x.start with
    | some t => !k.csrs.taskclk.ult t
    | none => false
/-- The head of a pond's threshold queue that may start without an offset. -/
def State.thrReady (s : State) (pond n : Nat) : Option Cmd :=
  let c := pondCore pond n
  match (s.core c).thrq with
  | x :: _ => if !x.started && x.start.isNone && s.mayRun c x then some x else none
  | [] => none
/-- The head of a pond's threshold queue is a `teval` whose start moment has come and whose core lets it start (R295). -/
def State.dueTeval (s : State) (pond n : Nat) : Bool :=
  let c := pondCore pond n
  match (s.core c).thrq with
  | x :: _ => (s.core c).due x && s.headsGo c
  | [] => false
/-- The array taken by a command. -/
def State.takeArray (s : State) (pond n : Nat) (x : Cmd) : State :=
  (s.modCmd (pondCore pond n) x.id fun y => { y with started := true }).modPond pond fun p =>
    { p with thrRunning := some x.id, thrNext := (n + 1) % 8 }
/-- `THRESHOLD_COMMAND_START` (R295): with the array free and no `teval` due at its start moment, the next ready head of the round. -/
def execThresholdCommandStart (pond : Nat) (s : State) : Host.Outcome State Fault Refusal :=
  let p := s.pond pond
  if p.thrRunning.isSome || (List.range 8).any (s.dueTeval pond) then .next s
  else match findFirst (fun n => (s.thrReady pond n).isSome) ((List.range 8).map fun i => (p.thrNext + i) % 8) with
    | some n => match s.thrReady pond n with
      | some x => .next (s.takeArray pond n x)
      | none => .next s
    | none => .next s

/-! ## Runs (R282-R284, R288, R293, R294) -/

/-- The running head of a core's threshold queue whose work is still to be done. -/
def State.thrHead (s : State) (c : Nat) : Option Cmd :=
  match (s.core c).thrq with
  | x :: _ => if x.started && x.progress = 0 then some x else none
  | [] => none

/-- A cell made not valid: its other bits stay, its poison flag is clear (R283, R293, R301). -/
def ThrCell.off (c : ThrCell) : ThrCell := { c with info := c.info &&& ~~~0x80000000, poison := false }
/-- A cell of a pond written; one that is all zero and clean is not listed. -/
def Pond.setCell (p : Pond) (key : Nat) (c : ThrCell) : Pond :=
  { p with cells := if c.mask == 0 && c.info == 0 && !c.poison then del p.cells key else put p.cells key c }
/-- The cells of a `tload` written, image by image: the first malformed image. -/
def loadCells (i : Issuer) (d : TloadDesc) (cols : List Nat) : List Nat → U (Option Nat)
  | [] => return none
  | n :: rest => do
    let va := d.addr.toNat + 16 * n
    let x ← readU i.agent va 16
    let info := x.1 / 2 ^ 64
    let bad := bits info 10 20 != 0
    let cell : ThrCell := { mask := w64 x.1, info := w64 info, poison := x.2.1 }
    let key := 64 * (nth cols (n / d.nr)).getD 0 + d.row0 + n % d.nr
    modify fun s => s.modPond (pondOf i.core) fun p => p.setCell key (if bad then cell.off else cell)
    let r ← loadCells i d cols rest
    return if bad then some va else r

/-- What a threshold run leaves: its bytes but the last unit landed, its energy, its work marked done (R289). -/
def State.thrRan (s : State) (c : Nat) (x : Cmd) (bytes last energy : Nat) : State :=
  ((s.landed c x.id (bytes - last)).spend c energy).modCmd c x.id fun y => { y with progress := 1, wrote := last }

/-- `TLOAD_RUN` (R283, R293). -/
def execTloadRun (c : Nat) (s : State) : Host.Outcome State Fault Refusal :=
  match s.thrHead c with
  | some x => match x.work with
    | .tload d => .next (s.unitStep c x.id (do
        let cols := s.lockedColumns (pondOf c) x.id
        if d.clr then
          modify fun s => s.modPond (pondOf c) fun p => p.cells.foldl (fun q (e : Nat × ThrCell) =>
            if cols.contains (e.1 / 64) && !(decide (d.row0 ≤ e.1 % 64) && decide (e.1 % 64 < d.row0 + d.nr)) then q.setCell e.1 e.2.off else q) p
        let bad ← loadCells x.issuer d cols (List.range (d.nr * d.nc))
        modify fun s =>
          let s1 := s.thrRan c x (16 * d.nr * d.nc) 16 0
          match bad with
          | some va => s1.raiseFor x.issuer 0x01 (w64 va)
          | none => s1))
    | _ => .next s
  | none => .next s

/-- A sample's features with their marks. -/
def readFeatures (a : Agent) : Nat → Nat → U (List (Nat × Bool))
  | _, 0 => return []
  | va, n + 1 => do
    let x ← readU a va 4
    let r ← readFeatures a (va + 4) n
    return (x.1, x.2.1) :: r

/-- A cell consulted for a sample (R284, R293): the leaf vector and whether poison was seen. -/
def consult (d : TevalDesc) (f : List (Nat × Bool)) (v : Word × Bool) (cell : ThrCell) : Word × Bool :=
  let info := cell.info.toNat
  if cell.poison then (v.1, true)
  else if !info.testBit 31 then v
  else
    let thr := bits info 32 32
    match nth f (bits info 0 10) with
    | none => (if info.testBit 30 then v.1 else v.1 &&& cell.mask, v.2)
    | some x =>
      if x.2 || (!d.int && fp32.isPoison x.1) then (v.1, true)
      else
        let e := fp32.decode x.1
        let t := if d.int then decide (signed 32 x.1 ≤ signed 32 thr)
          else if e.isNan then info.testBit 30
          else !(fp32.decode thr).isNan && !ltExact (fp32.decode thr) e
        (if t then v.1 else v.1 &&& cell.mask, v.2)
/-- A column's leaf vector for a sample. -/
def columnVector (d : TevalDesc) (cells : List (Nat × ThrCell)) (f : List (Nat × Bool)) (col : Nat) : Word × Bool :=
  (cells.filter fun e => e.1 / 64 == col).foldl (fun v e => consult d f v e.2) (BitVec.allOnes 64, false)
/-- The lowest set bit of a vector of n bits, or 2^32 − 1 (R284, R294). -/
def lowestBit (n v : Nat) : Nat := (findFirst (fun i => v.testBit i) (List.range n)).getD 0xFFFFFFFF
/-- The index words of a sample (R284, R294), with their marks. -/
def sampleWords (d : TevalDesc) (cells : List (Nat × ThrCell)) (cols : List Nat) (f : List (Nat × Bool)) : List (Nat × Bool) :=
  (List.range d.nc).map fun j =>
    let c := d.col0 + j
    let vec (j : Nat) : Word × Bool := columnVector d cells f ((nth cols j).getD 0)
    if d.pairs.getLsbD (c / 2) then
      let lo := vec (c / 2 * 2 - d.col0)
      let hi := vec (c / 2 * 2 + 1 - d.col0)
      (lowestBit 128 (lo.1.toNat + 2 ^ 64 * hi.1.toNat), lo.2 || hi.2)
    else (lowestBit 64 (vec j).1.toNat, (vec j).2)
/-- Words written from an address on, 4 bytes each. -/
def writeWords (a : Agent) : Nat → List (Nat × Bool) → U Unit
  | _, [] => pure ()
  | va, x :: rest => do
    writeU a va 4 x.1 x.2
    writeWords a (va + 4) rest

/-- `TEVAL_RUN` (R284, R286, R294). -/
def execTevalRun (c : Nat) (s : State) : Host.Outcome State Fault Refusal :=
  match s.thrHead c with
  | some x => match x.work with
    | .teval d => .next (s.unitStep c x.id (do
        let cols := s.lockedColumns (pondOf c) x.id
        let cells := (s.pond (pondOf c)).cells
        (List.range d.ns).forM fun n => do
          let f ← readFeatures x.issuer.agent (ptrVa d.fptr + n * d.fstr) d.nf
          writeWords x.issuer.agent (ptrVa d.lptr + n * d.lstr) (sampleWords d cells cols f)
        modify fun s => s.thrRan c x (4 * d.ns * d.nc) 4 (200 * d.ns)))
    | _ => .next s
  | none => .next s

/-- A tree's contribution to a sample's sum (R288): its value and whether it poisons the sum. -/
def leafValue (a : Agent) (d : TlvDesc) (n t : Nat) : U (Nat × Bool) := do
  let i ← readU a (ptrVa d.iptr + n * d.istr + 4 * t) 4
  if i.2.1 then return (0, true)
  else if i.1 < d.ln then
    let v ← readU a (ptrVa d.vptr + t * d.vstr + 4 * i.1) 4
    return (v.1, v.2.1 || fp32.isPoison v.1)
  else return (fp32.nan, false)
/-- The sum of a sample's leaf values, in increasing tree order (R202, R288). -/
def sumTrees (a : Agent) (d : TlvDesc) (n : Nat) : List Nat → Nat × Bool → U (Nat × Bool)
  | [], acc => return acc
  | t :: rest, acc => do
    let v ← leafValue a d n t
    sumTrees a d n rest (if t = 0 then (if (fp32.decode v.1).isNan then fp32.nan else v.1) else addF32 acc.1 v.1, acc.2 || v.2)
/-- `TLV_RUN` (R288). -/
def execTlvRun (c : Nat) (s : State) : Host.Outcome State Fault Refusal :=
  match s.thrHead c with
  | some x => match x.work with
    | .tlv d => .next (s.unitStep c x.id (do
        (List.range d.ns).forM fun n => do
          let r ← sumTrees x.issuer.agent d n (List.range d.nt) (0, false)
          writeU x.issuer.agent (ptrVa d.optr + 4 * n) 4 (if r.2 then 0x7FFFFFFF else r.1) r.2
        modify fun s => s.thrRan c x (4 * d.ns) 4 (200 * d.ns * d.nt)))
    | _ => .next s
  | none => .next s

/-- `THRESHOLD_COMPLETION` (R289): the locks are released, and only then the last bytes land. -/
def execThresholdCompletion (c : Nat) (s : State) : Host.Outcome State Fault Refusal :=
  match (s.core c).thrq with
  | x :: _ =>
    if x.started && x.progress ≠ 0 then
      let s1 := (s.endCmd c x).modPond (pondOf c) fun p => { p with thrRunning := none }
      .next (s1.land x.count x.wrote)
    else .next s
  | [] => .next s

/-! ## Start moments (R35-R37) -/

/-- A command is at the head of its queue or channel. -/
def Core.atHead (k : Core) (x : Cmd) : Bool := ((k.queueOf x.id).head?.map fun y => y.id) == some x.id
/-- An offset command at its start moment (R36): its conditions are judged there once, and one that fails is cancelled with a timing
fault. From then on its unit takes it as soon as that is free, and its core waits for it (R37); of two `teval`s that are due the lower
local index takes the array (R295). -/
def State.offsetStart (s : State) (c : Nat) (x : Cmd) : State :=
  let pond := pondOf c
  if !x.moment && !s.startClear c x then ((s.withdraw pond x).modCore c fun k => k.remove x true).raise c 0x0B x.issuer.pc
  else
    let y : Cmd := { x with moment := true }
    let s1 := s.modCmd c x.id fun z => { z with moment := true }
    match x.work with
    | .teval _ =>
      if (s1.core c).atHead x && (s1.pond pond).thrRunning.isNone && s1.mayRun c y && !(List.range (localIndex c)).any (s1.dueTeval pond)
      then s1.takeArray pond (localIndex c) y else s1
    | _ => s1

end Sys2Proof.Machine
end

