-- ==== Sys2Proof/Machine/Starts.lean ====
section
/-!
DEFINITION. What falls due at a core's instruction boundary: the start moments of its offset commands (R35-R37) and the checkpoint of
its redundancy pair (R314-R316).
-/
namespace Sys2Proof.Machine

/-! ## Start moments (R35-R37) -/

/-- A `coll` whose start moment has come and that has not been handed to its spring. -/
def Coll.due (x : Coll) (k : Core) : Bool :=
  x.active && !x.handed && match x.start with
    | some t => !k.csrs.taskclk.ult t
    | none => false
/-- A `coll` at its start moment (R36, R37): its conditions are judged there once; cancelled with a timing fault where an
operand is locked, handed to its spring, or left waiting while the spring's queue is full (R265). -/
def State.collStart (s : State) (x : Coll) : State :=
  if !x.moment && !s.locksFree (pondOf x.issuer.core) x.id then (s.failColl x .cancelled).raise x.issuer.core 0x0B x.issuer.pc
  else
    let full := decide (s.springColls x.issuer.part ((s.part x.issuer.part).homeSpring (ptrVa x.desc.src)) ≥ 64)
    s.modColl x.id fun y => { y with moment := true, handed := !full }
/-- The commands of a core whose start moment has come, in issue order. -/
def State.dueIds (s : State) (c : Nat) : List Nat :=
  let k := s.core c
  let l := (k.cmds.filter fun x => k.due x).foldl (fun l x => insertNat l x.id) []
  (s.colls.filter fun x => x.issuer.core == c && !s.kept x.issuer && x.due k).foldl (fun l x => insertNat l x.id) l
/-- One of them at its start moment. -/
def State.startDue (s : State) (c id : Nat) : State :=
  match (s.core c).cmd id with
  | some x => s.offsetStart c x
  | none => match s.coll id with
    | some x => s.collStart x
    | none => s
/-- `ENGINE_OFFSET_START` (R35-R37): the core is frozen while a command whose start moment has come cannot start. -/
def execEngineOffsetStart (c : Nat) (s : State) : Host.Outcome State Fault Refusal :=
  let s1 := (s.dueIds c).foldl (fun st id => st.startDue c id) s
  let k := s1.core c
  let since := match k.freeze with
    | some z => if z.kind = .engine then z.since else s1.fabric
    | none => s1.fabric
  let held : Option Freeze := if (s1.dueIds c).isEmpty then
      (match k.freeze with
        | some z => if z.kind = .engine then none else some z
        | none => none)
    else some { kind := .engine, pc := k.pc, since := since }
  .next (s1.modCore c fun k => { k with freeze := held })

/-! ## Checkpoints of a pair (R314-R316) -/

/-- Logged stores performed in program order as far as they go (R315). -/
def State.drainFrom (s : State) : List Logged → State × List Logged
  | [] => (s, [])
  | e :: rest =>
    match rawWrite e.ea e.size e.data.toNat e.poison s with
    | .ok _ s1 => s1.drainFrom rest
    | .error _ _ => (s, e :: rest)
/-- The launch of a core is being stopped (R345). -/
def State.beingStopped (s : State) (c : Nat) : Bool :=
  let t := (s.core c).task
  s.launches.any fun l => l.part == t.part && l.queue == t.queue && l.seq == t.seq && l.stopping
/-- A checkpoint of agreeing cores begins: the comparison is made, the log is still to drain. -/
def Core.agreed (k : Core) : Core :=
  { k with group := { k.group with sinceCheck := 0, print := 0, popped := [], woke := false, disagreed := 0 } }
/-- The checkpoint is complete: the core goes on from it. -/
def Core.record (k : Core) : Core :=
  let fz : Option Freeze := match k.freeze with
    | some z => if z.kind = .checkpoint then none else some z
    | none => none
  { k with freeze := fz, group := { k.group with saved := some k.checkpoint } }
/-- A core back at its checkpoint (R316): registers, `TASKCLK` and `BUDGET`, the results on their way, its section and its packets, the
words popped since and the wake taken since offered again. Its tiles, which engine commands alone write, stay: those commands are
performed once (R315). -/
def Core.rollBack (k : Core) : Core :=
  match k.group.saved with
  | none => k
  | some p =>
    let inq := k.group.popped.reverse.foldl (fun (v : Vector (List InWord) 4) e => v.setIfInBounds e.1 (e.2 :: v.toArray.getD e.1 [])) k.inq
    { k with
      regs := { p.regs with a := k.regs.a, ap := k.regs.ap }
      csrs := { p.csrs with ebud := k.csrs.ebud, equota := k.csrs.equota }
      pc := p.pc
      sect := p.sect
      wake := k.wake || k.group.woke
      loopOn := p.loopOn
      frameOn := p.frameOn
      outq := p.outq
      frame := p.frame
      cyc := p.cyc
      ready := p.ready
      inq := inq
      freeze := none
      group := { k.group with storeLog := [], stream := [], fed := [], sinceCheck := 0, print := 0, popped := [], woke := false,
                              disagreed := k.group.disagreed + 1 } }
/-- Both cores of a pair back at their checkpoint, and the checkpoint's address (R316). -/
def State.rollBack (s : State) (c f : Nat) : State × Word :=
  ((s.modCore c Core.rollBack).modCore f Core.rollBack, match (s.core c).group.saved with
    | some p => p.pc
    | none => 0)
/-- The third disagreement at one checkpoint (R311, R316, R339): from the checkpoint, both cores are killed and the leader takes echo
divergence there. -/
def State.diverge (s : State) (c f : Nat) : State :=
  let r := s.rollBack c f
  let s1 := (r.1.countError c 16 r.2.toNat).countError f 16 r.2.toNat
  (s1.kill f 0x18 r.2 4).enterTrap c 0x18 r.2 r.2

/-- `PAIR_CHECKPOINT` (R314-R316): the leader, held at a checkpoint or about to be stopped (R345), and its follower that has executed
the whole stream compare fingerprints; `upset` is what a soft error changed in the follower's. A log that finds no room goes on
draining at the next step, with nothing left to compare. -/
def execPairCheckpoint (c : Nat) (upset : BitVec 64) (s : State) : Host.Outcome State Fault Refusal :=
  let k := s.core c
  let f := k.group.partner
  let q := s.core f
  let held := s.checkHeld c || s.beingStopped c
  if !(k.run == .running && k.level == .user && k.group.pair == .leader && q.group.pair == .follower && q.group.stream.isEmpty && held)
  then .next s
  else
    let draining := k.group.sinceCheck == 0 && !k.group.storeLog.isEmpty
    if draining || k.group.print == q.group.print ^^^ upset then
      let s1 := (s.modCore c Core.agreed).modCore f Core.agreed
      let d := State.drainFrom { s1 with cur := c } k.group.storeLog
      let s2 := ({ d.1 with cur := s.cur }).modCore c fun k => { k with group := { k.group with storeLog := d.2 } }
      .next (if d.2.isEmpty then (s2.modCore c Core.record).modCore f Core.record else s2)
    else if k.group.disagreed ≥ 2 then .next (s.diverge c f)
    else
      let r := s.rollBack c f
      .next ((r.1.countError c 1 r.2.toNat).countError f 1 r.2.toNat)

end Sys2Proof.Machine
end

