-- ==== Sys2Proof/Machine/Launches.lean ====
section
/-!
DEFINITION. The launch sequencer: records and image descriptors (R357-R360), placement and the start of a launch (R23, R25, R84, R258,
R292, R358, R362), stopping one and resuming it (R47, R301, R345-R348, R363), admission rounds (R362, R363), completion (R361).
-/
namespace Sys2Proof.Machine

/-! ## Records (R357-R359) -/

/-- Doubleword `i` of a record or image descriptor. -/
def word8 (r : Vector Word 8) (i : Nat) : Nat := (r.toArray.getD i 0).toNat
/-- PRIO of a record. -/
def recPrio (r : Vector Word 8) : Nat := bits (word8 r 2) 30 2
/-- FIXED of a record. -/
def recFixed (r : Vector Word 8) : Bool := (word8 r 2).testBit 29
/-- The width of a record's rectangle. -/
def recW (r : Vector Word 8) : Nat := 2 ^ bits (word8 r 2) 21 4
/-- The height of a record's rectangle. -/
def recH (r : Vector Word 8) : Nat := 2 ^ bits (word8 r 2) 25 4
/-- X0 of a record. -/
def recX (r : Vector Word 8) : Nat := bits (word8 r 2) 0 11
/-- Y0 of a record. -/
def recY (r : Vector Word 8) : Nat := bits (word8 r 2) 11 10
/-- RESTART of a record. -/
def recRestart (r : Vector Word 8) : Bool := (word8 r 2).testBit 32
/-- CLASS of a record. -/
def recClass (r : Vector Word 8) : RelClass :=
  match bits (word8 r 2) 33 2 with
  | 0 => .prot
  | 1 => .detect
  | _ => .none

/-- A queue descriptor breaks R357. -/
def State.queueBroken (s : State) (p q : Nat) : Bool :=
  let d (i : Nat) : Nat := s.queueDesc p q i
  bits (d 0) 57 7 != 0 || decide (d 0 % 64 > 12) || bits (d 1) 57 7 != 0 || d 1 % 8 != 0 || decide (bits (d 2) 32 32 > 255) ||
  bits (d 2) 16 16 != 0 || bits (d 4) 0 32 == 0 || decide (bits (d 4) 0 32 ≥ 2 ^ 31) || bits (d 5) 57 7 != 0 || d 5 % 1024 != 0 ||
  bits (d 6) 6 58 != 0 || decide (d 6 % 64 < 12) || decide (d 6 % 64 > 40) || d 7 != 0
/-- A record breaks R358. -/
def recordBroken (r : Vector Word 8) : Bool :=
  let d (i : Nat) : Nat := word8 r i
  let k := d 4 % 32
  bits (d 0) 57 7 != 0 || d 0 % 64 != 0 || bits (d 1) 57 7 != 0 || d 1 % 8 != 0 || bits (d 2) 39 25 != 0 || decide (bits (d 2) 35 4 > 8) ||
  bits (d 2) 33 2 == 3 || decide (bits (d 2) 25 4 > 9) || decide (bits (d 2) 21 4 > 10) || decide (recY r > 511) || decide (recX r > 1279) ||
  recX r % recW r != 0 || recY r % recH r != 0 || (!recFixed r && (recX r != 0 || recY r != 0)) || d 3 % 2 ^ 32 == 0 ||
  bits (d 4) 57 7 != 0 || bits (d 4) 5 7 != 0 || !(k == 0 || (decide (12 ≤ k) && decide (k ≤ 24)))
/-- NRING of an image descriptor. -/
def imgRings (e : Vector Word 8) : Nat := bits (word8 e 2) 16 4
/-- TLEN of an image descriptor. -/
def imgLen (e : Vector Word 8) : Nat := bits (word8 e 2) 0 16
/-- An image descriptor breaks R359 in a field that no limit of rings and lengths judges, or differs from its record's shape or class. -/
def imageBroken (r e : Vector Word 8) : Bool :=
  let d (i : Nat) : Nat := word8 e i
  bits (d 0) 57 7 != 0 || d 0 % 4 != 0 || bits (d 1) 57 7 != 0 || bits (d 2) 20 44 != 0 ||
  ((List.range 4).any fun j => bits (d (3 + j)) 43 21 != 0 || bits (d (3 + j)) 24 8 != 0 || (decide (imgRings e ≤ j) && d (3 + j) != 0)) ||
  bits (d 7) 42 22 != 0 || bits (d 7) 40 2 == 3 || decide (bits (d 7) 36 4 > 9) || decide (bits (d 7) 32 4 > 10) || d 7 % 2 ^ 32 == 0 ||
  bits (d 7) 36 4 != bits (word8 r 2) 25 4 || bits (d 7) 32 4 != bits (word8 r 2) 21 4 || bits (d 7) 40 2 != bits (word8 r 2) 33 2
/-- Ring `j` of an image descriptor: its share offset, slots and slot size. -/
def imgRing (e : Vector Word 8) (j : Nat) : Nat × Nat × Nat :=
  let d := word8 e (3 + j)
  (bits d 0 16, 2 ^ bits d 16 8, 64 * bits d 32 11)
/-- More than 4 rings, too long an image, or a ring that breaks R38. -/
def ringsBroken (e : Vector Word 8) : Bool :=
  decide (imgRings e > 4) || decide (imgLen e > 16384) ||
  (List.range (Nat.min (imgRings e) 4)).any fun j =>
    let r := imgRing e j
    decide (bits (word8 e (3 + j)) 16 8 > 7) || r.2.2 == 0 || decide (r.2.2 > 16320) || r.1 % 64 != 0 ||
    decide (r.1 + 8 * r.2.1 + r.2.1 * r.2.2 > imgLen e)

/-! ## Rectangles (R23, R362) -/

/-- Two rectangles share a core. -/
def rectsMeet (a b : Nat × Nat × Nat × Nat) : Bool :=
  decide (a.1 < b.1 + b.2.2.1) && decide (b.1 < a.1 + a.2.2.1) && decide (a.2.1 < b.2.1 + b.2.2.2) && decide (b.2.1 < a.2.1 + a.2.2.2)
/-- The chiplets under a rectangle inside the core grid. -/
def rectChips (r : Nat × Nat × Nat × Nat) : List Nat :=
  let x0 := r.1 / 64
  let y0 := r.2.1 / 32
  ((List.range ((r.2.1 + r.2.2.2 - 1) / 32 + 1 - y0)).map fun j =>
    (List.range ((r.1 + r.2.2.1 - 1) / 64 + 1 - x0)).map fun i => x0 + i + 20 * (y0 + j)).flatten
/-- A rectangle lies inside the grid on chiplets of a partition that pass a test. -/
def State.rectOn (s : State) (p : Nat) (r : Nat × Nat × Nat × Nat) (f : Chip → Bool) : Bool :=
  decide (r.1 + r.2.2.1 ≤ 1280) && decide (r.2.1 + r.2.2.2 ≤ 512) &&
  (rectChips r).all fun n => (s.part p).chips.contains n && f (s.chip n)
/-- The aligned positions of a size in increasing y, then increasing x. -/
def positions (w h : Nat) : List (Nat × Nat × Nat × Nat) :=
  ((List.range (512 / h)).map fun j => (List.range (1280 / w)).map fun i => (w * i, h * j, w, h)).flatten
/-- The rectangle of a launch. -/
def Launch.rect (l : Launch) : Nat × Nat × Nat × Nat := (l.x, l.y, l.w, l.h)
/-- No core of a rectangle is held by a running launch, those of a list aside. -/
def State.rectFree (s : State) (r : Nat × Nat × Nat × Nat) (aside : List (Nat × Nat × Nat)) : Bool :=
  s.launches.all fun l => l.state != .running || aside.contains (l.part, l.queue, l.seq) || !rectsMeet l.rect r
/-- Where a waiting launch fits, those of a list being gone and some rectangles promised to others (R362 step 5). -/
def State.placeBeside (s : State) (l : Launch) (aside : List (Nat × Nat × Nat)) (taken : List (Nat × Nat × Nat × Nat)) :
    Option (Nat × Nat × Nat × Nat) :=
  let fits (r : Nat × Nat × Nat × Nat) : Bool :=
    s.rectOn l.part r (fun h => h.state == 6) && s.rectFree r aside && !taken.any (rectsMeet r)
  if l.state == .preempted then (if fits l.rect then some l.rect else none)
  else if recFixed l.record then
    let r := (recX l.record, recY l.record, recW l.record, recH l.record)
    if fits r then some r else none
  else findFirst fits (positions (recW l.record) (recH l.record))
/-- Where a waiting launch fits now, those of a list being gone (R362 step 5). -/
def State.place (s : State) (l : Launch) (aside : List (Nat × Nat × Nat)) : Option (Nat × Nat × Nat × Nat) := s.placeBeside l aside []
/-- A record's rectangle can lie in the partition (R23). -/
def State.canLie (s : State) (p : Nat) (r : Vector Word 8) : Bool :=
  let ok (x : Nat × Nat × Nat × Nat) : Bool := s.rectOn p x fun h => h.state != 7
  if recFixed r then ok (recX r, recY r, recW r, recH r) else (positions (recW r) (recH r)).any ok

/-! ## Handling a record (R360) -/

/-- SRC of the events of a partition's sequencer (R368). -/
def edgeSrc (p : Nat) : Nat := 0xFFFF0 + (Config.edgeOf p).toNat
/-- An event of a launch. -/
def State.launchEvent (s : State) (p q seq type cause : Nat) : State := s.post p (edgeSrc p) type cause q seq 0
/-- Doublewords read from an address on, or nothing where a translation faults. -/
def State.fetch8 (s : State) (a : Agent) (va : Nat) : State × Option (Vector Word 8) :=
  match (readU a va 64) s with
  | .ok x s1 => (s1, some (recordOf x.1))
  | .error _ s1 => (s1, none)
/-- The checks of a record read from its slot, from the fields of R358 on: its image descriptor, or the state that rejects it. -/
def State.judge (s : State) (p q : Nat) (r : Vector Word 8) : State × (Nat ⊕ Vector Word 8) :=
  let a := s.sequencer p q
  let nctr := bits (s.control p 0x210) 32 17
  let sig := bits (word8 r 5) 48 16
  let wait := bits (word8 r 5) 0 16
  if recordBroken r then (s, .inl 0x10)
  else match s.fetch8 a (word8 r 0) with
    | (s1, none) => (s1, .inl 0x13)
    | (s1, some e) =>
      match readU a (word8 r 1) 8 s1 with
      | .error _ s2 => (s2, .inl 0x13)
      | .ok _ s2 =>
        if imageBroken r e then (s2, .inl 0x10)
        else if ringsBroken e then (s2, .inl 0x14)
        else if (wait != 0 && decide (nctr ≤ wait)) || (sig != 0 && decide (nctr ≤ sig)) then (s2, .inl 0x15)
        else if !s.canLie p r then (s2, .inl 0x11)
        else if recClass r == .prot && recW r == 1 then (s2, .inl 0x12)
        else if 4096 * recW r * recH r > 2 ^ (s.queueDesc p q 6 % 64) then (s2, .inl 0x17)
        else (s2, .inr e)
/-- `LAUNCH_RECORD_HANDLING` (R360): the oldest queued record of a queue is accepted or rejected. Reading a record that `lnch` queued
is an acquire (R152). -/
def execLaunchRecordHandling (p q : Nat) (s : State) : Host.Outcome State Fault Refusal :=
  match ((s.part p).queues.toArray.getD q LaunchQueue.reset).queued with
  | [] => .next s
  | x :: rest =>
    let s0 := s.modQueue p q fun l => { l with queued := rest }
    let s1 := match x.rel with
      | some rel => (s0.flushRecorded rel.core).1
      | none => s0
    let j : State × (Nat ⊕ (Vector Word 8 × Vector Word 8)) :=
      if s1.queueBroken p q then (s1, .inl 0x16)
      else match s1.fetch8 (s1.sequencer p q) (s1.slotAddr p q x.seq) with
        | (s2, none) => (s2, .inl 0x13)
        | (s2, some r) => match s2.judge p q r with
          | (s3, .inl st) => (s3, .inl st)
          | (s3, .inr e) => (s3, .inr (r, e))
    match j with
    | (s2, .inl st) =>
      .next (((s2.setStatus p q x.seq st).launchEvent p q x.seq 9 st).modQueue p q fun l =>
        { l with openSeqs := l.openSeqs.filter fun n => n != x.seq })
    | (s2, .inr (r, e)) =>
      let l : Launch := { part := p, queue := q, seq := x.seq, state := .accepted, record := r, image := e, x := 0, y := 0, w := recW r,
                          h := recH r, accepted := s2.gtime, started := 0, stopping := false, saved := [], barriers := [], locks := [],
                          packets := [], columns := [], aside := [] }
      .next ((State.setStatus { s2 with launches := s2.launches ++ [l] } p q x.seq 0x02).launchEvent p q x.seq 1 0)

/-! ## Starting a launch (R362 step 6) -/

/-- The launch is the one given. -/
def Launch.is (l : Launch) (p q seq : Nat) : Bool := l.part == p && l.queue == q && l.seq == seq
/-- A launch changed. -/
def State.setLaunch (s : State) (l : Launch) : State :=
  { s with launches := s.launches.map fun x => if x.is l.part l.queue l.seq then l else x }
/-- The cores of a rectangle by launch index (R228). -/
def rectCores (r : Nat × Nat × Nat × Nat) : List Nat :=
  ((List.range r.2.2.2).map fun j => (List.range r.2.2.1).map fun i => coreAt (r.1 + i) (r.2.1 + j)).flatten
/-- The ponds of a rectangle in row-major order (R301). -/
def rectPonds (r : Nat × Nat × Nat × Nat) : List Nat :=
  let x0 := r.1 / 4
  let y0 := r.2.1 / 2
  ((List.range ((r.2.1 + r.2.2.2 - 1) / 2 + 1 - y0)).map fun j =>
    (List.range ((r.1 + r.2.2.1 - 1) / 4 + 1 - x0)).map fun i => x0 + i + 320 * (y0 + j)).flatten
/-- Columns a launch names in each of its ponds: 4k (R291). -/
def rectColumns (r : Nat × Nat × Nat × Nat) : Nat := 4 * (Nat.min r.2.2.1 4 * Nat.min r.2.2.2 2)
/-- Every cell of a launch's columns cleared (R292). -/
def State.clearColumns (s : State) (r : Nat × Nat × Nat × Nat) : State :=
  (rectPonds r).foldl (fun st n =>
    let cols := (List.range (rectColumns r)).map (physColumn r n)
    st.modPond n fun p => { p with cells := p.cells.filter fun e => !cols.contains (e.1 / 64) }) s
/-- `RECT` of a launch (R24). -/
def Launch.rectWord (l : Launch) : Word := w64 (l.x + 2 ^ 11 * l.y + 2 ^ 21 * Nat.log2 l.w + 2 ^ 25 * Nat.log2 l.h)
/-- The task of a core of a launch (R25, R228, R358). The two cores of a pair of a prot launch run one task (R313), each with the `sp` and
the seed of its own launch index (log entry 70). -/
def State.launchTask (s : State) (l : Launch) (c : Nat) : Task :=
  let d (i : Nat) : Nat := word8 l.record i
  let qd (i : Nat) : Nat := s.queueDesc l.part l.queue i
  let n := xOf c - l.x + l.w * (yOf c - l.y)
  let seed := rngSeed (d 6 + 2 ^ 64 * d 7) n
  let k := d 4 % 32
  { part := l.part, queue := l.queue, seq := l.seq, cls := recClass l.record, budget := BitVec.ofNat 32 (d 3)
    cap := if bits (d 2) 35 4 = 0 then 8 else bits (d 2) 35 4
    entry := w64 (bits (word8 l.image 0) 0 57), args := w64 (d 1)
    sp := if k = 0 then 0 else w64 (bits (d 4) 12 45 * 4096 + (n + 1) * 2 ^ k)
    seed0 := w64 seed, seed1 := w64 (seed / 2 ^ 64), index := n, restart := recRestart l.record
    grant := BitVec.ofNat 32 (qd 4), rect := l.rectWord, asid := BitVec.ofNat 16 (qd 2), ebud := BitVec.ofNat 32 (d 3 / 2 ^ 32)
    bartmo := BitVec.ofNat 32 (qd 4 / 2 ^ 32), xvec := w64 (s.control l.part 0x220) }
/-- The words of a `.tarn` image: offset, bytes, value, mark. -/
def readTarn (a : Agent) (va len : Nat) : U (List (Nat × Nat × Nat × Bool)) :=
  (List.range ((len + 3) / 4)).mapM fun i => do
    let n := Nat.min 4 (len - 4 * i)
    let v ← readU a (va + 4 * i) n
    return (4 * i, n, v.1, v.2.1)
/-- An image copied into a core's share (R84). -/
def State.loadShare (s : State) (c : Nat) (img : List (Nat × Nat × Nat × Bool)) : State :=
  img.foldl (fun st e => (st.writePlace (sharePlace c e.1) e.2.1 e.2.2.1 e.2.2.2).untag true 0 0 (sharePlace c e.1) e.2.1) s
/-- The rings of a launch: one per ring of the image and share (R258). -/
def Launch.rings (l : Launch) : List Ring :=
  ((rectCores l.rect).map fun c => (List.range (Nat.min (imgRings l.image) 4)).map fun j =>
    let r := imgRing l.image j
    { part := l.part, queue := l.queue, seq := l.seq, base := sharePlace c r.1, slots := r.2.1, size := r.2.2 : Ring }).flatten
/-- A core's L1 as the sequencer leaves it for a new task: the acquire at `.dev` (R152), or everything given up where the core's last
task was another partition's. -/
def State.freshL1 (s : State) (p c : Nat) : State :=
  if (s.core c).task.part = p then (s.dropReleased c).1 else ((s.l1Of c).foldl (fun st l => (st.l1Drop c l).1) s)
/-- Threshold commands that an ended task has left running on a rectangle's cores are complete (R292, R311; DESIGN CHOICE: log entry
85). -/
def State.arrayQuiet (s : State) (r : Nat × Nat × Nat × Nat) : Bool :=
  s.cores.all fun e => !(inRect r e.1 && e.2.thrq.any fun x => x.started)
/-- No engine command that a task has left on a rectangle's cores still runs (DESIGN CHOICE: log entry 85). -/
def State.enginesQuiet (s : State) (r : Nat × Nat × Nat × Nat) : Bool :=
  s.cores.all fun e => !(inRect r e.1 && e.2.cmds.any fun x => x.started)
/-- The images that other stopped launches keep in the shares of a launch's cores put aside (R331, R346; DESIGN CHOICE: log entry 89). -/
def State.putAside (s : State) (l : Launch) (cores : List Nat) : State :=
  cores.foldl (fun st c =>
    let keeps (x : Launch) : Bool :=
      !x.is l.part l.queue l.seq && x.state == .preempted && (x.saved.any fun e => e.1 == c) && (find x.aside c).isNone
    if st.launches.any keeps then
      { st with launches := st.launches.map fun x => if keeps x then { x with aside := put x.aside c (st.saveHalf c) } else x }
    else st) s
/-- The side logs of cores at the start of a task: empty. -/
def State.clearLogs (s : State) (cores : List Nat) : State :=
  cores.foldl (fun st c => (List.range 16).foldl (fun st i => if st.slogSt c i = 0 then st else st.slogDrop c i) st) s
/-- A launch's own images back in its cores' shares. -/
def State.takeBack (s : State) (l : Launch) : State := l.aside.foldl (fun st e => st.setHalf e.1 e.2) s
/-- A launch started on a rectangle, or nothing where its `.tarn` image faults in translation or an earlier launch's threshold commands
still run there. -/
def State.startLaunch (s : State) (l0 : Launch) (r : Nat × Nat × Nat × Nat) : Option State :=
  if !s.arrayQuiet r then none else
  let l : Launch := { l0 with state := .running, x := r.1, y := r.2.1, started := s.gtime, stopping := false, saved := [], barriers := [],
                              locks := [], packets := [], columns := [], aside := [] }
  match readTarn (s.sequencer l.part l.queue) (bits (word8 l.image 1) 0 57) (imgLen l.image) s with
  | .error _ _ => none
  | .ok img s1 =>
    let cores := rectCores r
    let s2 := cores.foldl (fun st c =>
      ((st.freshL1 l.part c).modCore c fun k => k.start c (s.launchTask l c)).loadShare c img) (((s1.setLaunch l).putAside l cores).clearLogs cores)
    let s3 := { s2 with rings := l.rings ++ s2.rings }
    some ((s3.clearColumns r).setStatus l.part l.queue l.seq 0x03)

/-! ## Stopping (R47, R345-R348) -/

/-- The core is at a boundary where its thread may be stopped (R47, R345): at user level, outside an open packet, its results in place;
a row as a whole with its stream executed, a pair after a checkpoint. -/
def State.mayStop (s : State) (c : Nat) : Bool :=
  let k := s.core c
  k.run == .running && k.level == .user && !k.storing && k.outq.toArray.all (fun o => o.isNone) && k.late.isNone &&
  (s.members c).all (fun f => let q := s.core f
    q.group.stream.isEmpty && q.level == .user && q.outq.toArray.all (fun o => o.isNone) && q.late.isNone) &&
  !(k.group.fwd == .follower && (s.core (k.rowLeader c)).run == .running) &&
  !(k.group.pair == .leader && k.unchecked (s.core k.group.partner)) &&
  !(k.group.pair == .follower && (s.core k.group.partner).run == .running)
/-- A core stopped at its boundary (R47, R332): its partials merged and its dirty bytes written back, for which it waits where its side
log is full (R130, R137, R330), what it waited at kept with the time it had waited. -/
def State.stopCore (s : State) (c : Nat) : State :=
  match s.arriveHome c with
  | (s1, false) => s1
  | (s1, true) => s1.modCore c fun k =>
    { k with run := .stopped, freeze := none, partway := none, waitSince := s.fabric - k.waitSince, pages := k.pages.map fun h => { h with anew := true } }
/-- A pair's leader about to be stopped has a checkpoint to take first (R345). -/
def State.wantsCheckpoint (s : State) (c : Nat) : Bool :=
  let k := s.core c
  k.level == .user && k.group.pair == .leader && k.outq.toArray.all (fun o => o.isNone) && k.unchecked (s.core k.group.partner)

/-- The fields of area 1 (R346). -/
def Core.area1 (k : Core) : List (Nat × Nat × Nat) :=
  let x := k.csrs
  let role := match k.group.fwd with
    | .none => 0
    | .leader => 1
    | .follower => 2
    | .released => 3
  let pair := match k.group.pair with
    | .none => 0
    | .leader => 1
    | .follower => 2
  let ix (l : List Nat) : List (Nat × Nat) := l.zip (List.range l.length)
  let poison (l : List InWord) : Nat := (l.zip (List.range l.length)).foldl (fun n e => if e.1.poison then n + 2 ^ e.2 else n) 0
  k.frameImage ++
  [(0x080, 8, x.taskclk.toNat), (0x088, 8, x.budget.toNat + 2 ^ 32 * x.equota.toNat), (0x090, 8, x.fpctl.toNat + 2 ^ 32 * x.fpflags.toNat),
   (0x098, 8, x.b8fmt.toNat + 2 ^ 32 * x.shape.toNat + 2 ^ 40 * k.gen.toNat + 2 ^ 56 * k.wake.toNat),
   (0x0A0, 8, x.rngs0.toNat), (0x0A8, 8, x.rngs1.toNat), (0x0B0, 8, x.ebud.toNat + 2 ^ 32 * x.bartmo.toNat), (0x0B8, 8, x.asid.toNat),
   (0x0C0, 8, x.saveptr.toNat), (0x0C8, 8, k.group.fwdDesc.toNat + 2 ^ 32 * role + 2 ^ 34 * pair), (0x0D0, 8, k.group.pairDesc.toNat),
   (0x0D8, 8, 0)] ++
  ((List.range 16).map fun b => (0x0E0 + 4 * b, 4, (k.bind.toArray.getD b 0).toNat)) ++
  [(0x120, 8, k.pend.foldl (fun n e => n + 2 ^ e.1) 0)] ++
  ((ix boundaryOrder).map fun e => (0x128 + 8 * e.2, 8, match findFirst (fun x => x.1 == e.1) k.pend with
    | some y => y.2.toNat
    | none => 0)) ++
  [(0x188, 120, 0), (0x200, 128, k.regs.ap[0].toNat), (0x280, 128, k.regs.ap[1].toNat),
   (0x300, 8, bits k.qstat 0 24 + 2 ^ 28 * bits k.qstat 28 4)] ++
  ((List.range 4).map fun q => (0x308 + 4 * q, 4, poison (k.inq.toArray.getD q []))) ++
  [(0x318, 232, 0)] ++
  ((List.range 4).map fun q => ((List.range 32).map fun i =>
    (0x400 + 256 * q + 8 * i, 8, match nth (k.inq.toArray.getD q []) i with
      | some w => w.word.toNat
      | none => 0))).flatten ++
  [(0x800, 2048, 0)]
/-- A stopped context written to its save areas (R346). -/
def State.saveImage (s : State) (c : Nat) (k : Core) : State :=
  let p := sharePlace c 0
  ((s.writeImage (p + 0x6000) (k.area0 k.pc)).writeImage (p + 0x7000) k.area1).writeImage (p + 0x4000)
    [(0, 4096, k.regs.a[0].toNat), (0x1000, 4096, k.regs.a[1].toNat)]
/-- A context reloaded from its save areas; what the device keeps itself stays (R346, R347). -/
def State.loadImage (s : State) (c : Nat) (k0 : Core) : Core :=
  let p := sharePlace c 0x7000
  let w (o n : Nat) : Nat := s.bytes (p + o) n
  let k1 := s.reloadFrame p (s.reloadArea0 (sharePlace c 0x6000) k0)
  let x := k1.csrs
  let count := w 0x300 8
  let bind : Vector (BitVec 32) 16 := Vector.ofFn fun b : Fin 16 =>
    let d : BitVec 32 := BitVec.ofNat 32 (w (0x0E0 + 4 * b.val) 4)
    match subRect x.rect (d.setWidth 64) with
    | some r => if inRect r c then d else 0
    | none => 0
  let inq : Vector (List InWord) 4 := Vector.ofFn fun q : Fin 4 =>
    (List.range (Nat.min 32 (bits count (6 * q.val) 6))).map fun i =>
      let v := w64 (w (0x400 + 256 * q.val + 8 * i) 8)
      let po := (w (0x308 + 4 * q.val) 4).testBit i
      let fresh : InWord := { word := v, poison := po, err := false, rel := none }
      let y := match nth k0.inq[q] i with
        | some o => if o.word == v && o.poison == po then o else fresh
        | none => fresh
      if i = 0 then { y with err := count.testBit (28 + q.val) } else y
  { k1 with
    pc := csrKept 0x101 (w64 (s.bytes (sharePlace c 0x6000) 8))
    wake := (w 0x098 8).testBit 56
    bind := bind
    inq := inq
    pend := boundaryOrder.zip (List.range 12) |>.filterMap fun e =>
      if (w 0x120 8).testBit e.1 then some (e.1, w64 (w (0x128 + 8 * e.2) 8)) else none
    regs := { k1.regs with
      a := #v[BitVec.ofNat 32768 (s.bytes (sharePlace c 0x4000) 4096), BitVec.ofNat 32768 (s.bytes (sharePlace c 0x5000) 4096)]
      ap := #v[BitVec.ofNat 1024 (w 0x200 128), BitVec.ofNat 1024 (w 0x280 128)] }
    csrs := { x with
      taskclk := w64 (w 0x080 8)
      budget := BitVec.ofNat 32 (w 0x088 4)
      equota := BitVec.ofNat 32 (w 0x08C 4)
      fpctl := BitVec.ofNat 32 (w 0x090 4)
      fpflags := BitVec.ofNat 32 (w 0x094 4)
      b8fmt := BitVec.ofNat 32 (w 0x098 4)
      shape := BitVec.ofNat 8 (w 0x09C 1)
      rngs0 := w64 (w 0x0A0 8)
      rngs1 := w64 (w 0x0A8 8)
      ebud := BitVec.ofNat 32 (w 0x0B0 4)
      bartmo := BitVec.ofNat 32 (w 0x0B4 4)
      asid := BitVec.ofNat 16 (w 0x0B8 2)
      saveptr := w64 (w 0x0C0 8) } }

/-- Cell `r` of a physical column as 16 bytes with its mark (R282). -/
def Pond.cellImage (p : Pond) (col r : Nat) : Nat × Bool :=
  match find p.cells (64 * col + r) with
  | some c => (c.mask.toNat + 2 ^ 64 * c.info.toNat, c.poison)
  | none => (0, false)
/-- The address at which launch column `c` of the `n`-th pond of a launch is saved (R301). -/
def State.columnVa (s : State) (l : Launch) (n c : Nat) : Nat :=
  bits (s.queueDesc l.part l.queue 5) 10 47 * 1024 + l.seq % s.slots l.part l.queue * 2 ^ (s.queueDesc l.part l.queue 6 % 64) +
  (rectColumns l.rect * n + c) * 1024
/-- The columns of a launch that hold a valid or poisoned cell (R301): place in its ponds, pond, launch column. -/
def State.usedColumns (s : State) (l : Launch) : List (Nat × Nat × Nat) :=
  let ponds := rectPonds l.rect
  ((ponds.zip (List.range ponds.length)).map fun e =>
    ((List.range (rectColumns l.rect)).filter fun c => (s.pond e.1).cells.any fun x =>
      x.1 / 64 == physColumn l.rect e.1 c && (x.2.info.getLsbD 31 || x.2.poison)).map fun c =>
      (e.2, e.1, c)).flatten
/-- Columns saved (R301 step 3). -/
def State.saveColumns (s : State) (l : Launch) : State :=
  (s.usedColumns l).foldl (fun st e => st.doU (do
    for r in List.range 64 do
      let x := (s.pond e.2.1).cellImage (physColumn l.rect e.2.1 e.2.2) r
      writeU (s.sequencer l.part l.queue) (s.columnVa l e.1 e.2.2 + 16 * r) 16 x.1 x.2)) s
/-- A column restored from its save area (R301 step 5). -/
def loadColumn (a : Agent) (va pond col : Nat) : U Unit := do
  for r in List.range 64 do
    let x ← readU a (va + 16 * r) 16
    modify fun s => s.modPond pond fun p => p.setCell (64 * col + r) { mask := w64 x.1, info := w64 (x.1 / 2 ^ 64), poison := x.2.1 }
/-- The saved columns of a launch restored. -/
def State.loadColumns (s : State) (l : Launch) : State :=
  let ponds := rectPonds l.rect
  l.columns.foldl (fun st e =>
    let n := (ponds.findIdx? fun x => x == e.1).getD 0
    st.doU (loadColumn (s.sequencer l.part l.queue) (s.columnVa l n e.2) e.1 (physColumn l.rect e.1 e.2))) s

/-- A packet between cores of a launch that cannot enter because its destination is being stopped and pops nothing, or that waits
behind such a packet (R345). -/
def State.stuckPackets (s : State) (cores : List Nat) : List Packet → List Packet → List Packet
  | _, [] => []
  | before, p :: rest =>
    let behind := before.any fun q => q.src == p.src && q.dst == p.dst && (q.queue == p.queue || p.queue == 4)
    let full := p.queue != 4 && decide (((s.core p.dst).inq.toArray.getD p.queue []).length + p.words.length > 32)
    if !p.ring && cores.contains p.src && cores.contains p.dst && (behind || full) then p :: s.stuckPackets cores (p :: before) rest
    else s.stuckPackets cores before rest
/-- A launch that is being stopped is stopped: every core stopped or ended, no started command left, its packets arrived or stuck. -/
def State.stopDone (s : State) (l : Launch) : Bool :=
  let cores := rectCores l.rect
  let stuck := s.stuckPackets cores [] s.packets
  cores.all (fun c => (match (s.core c).run with
    | .running => false
    | _ => true) && (s.core c).cmds.all fun x => !x.started) &&
  s.packets.all fun p => !cores.contains p.src || stuck.contains p
/-- The cycle of a phase's first arrival exchanged with the time passed since, at a cycle: done twice it lets the timeout pause (R51). -/
def Barrier.flip (now : Nat) (b : Barrier) : Barrier :=
  match b.first with
  | some t => { b with first := some (now - t.1, t.2) }
  | none => b
/-- A stopped launch put away (R301, R345, R346, R348): images and columns saved; its queued commands, locks, barrier instances and stuck
packets kept with it; its cores, ponds and roots left empty. -/
def State.putAway (s : State) (l : Launch) : State :=
  let cores := rectCores l.rect
  let ponds := rectPonds l.rect
  let mine (b : Barrier) : Bool := b.name.part == l.part && b.name.queue == l.queue && b.name.seq == l.seq
  let stuck := s.stuckPackets cores [] s.packets
  let ids := (cores.map fun c => (s.core c).cmds.map fun x => x.id).flatten
  let s1 := s.saveColumns l
  let kept : Launch := { l with
    state := .preempted, stopping := false
    saved := cores.map fun c => (c, s1.core c)
    barriers := (s1.barriers.filter mine).map (Barrier.flip s1.fabric)
    locks := (ponds.map fun n => ((s1.pond n).locks.filter fun k => cores.contains k.core).map fun k => (n, k)).flatten
    packets := stuck.map fun p => { p with reach := some (p.reach.getD s.fabric) }
    columns := (s1.usedColumns l).map fun e => (e.2.1, e.2.2) }
  let s2 := cores.foldl (fun st c => match (s1.core c).run with
    | .stopped => st.saveImage c (s1.core c)
    | _ => st) s1
  let s3 := cores.foldl (fun st c => st.setCore c { Core.reset c with gen := (s1.core c).gen, task := (s1.core c).task }) s2
  let s4 := ponds.foldl (fun st n => st.modPond n fun p => { p with locks := p.locks.filter fun k => !cores.contains k.core }) s3
  let s5 := { s4 with
    barriers := s4.barriers.filter fun b => !mine b
    packets := s4.packets.filter fun p => !stuck.contains p
    landings := s4.landings.filter fun x => !ids.contains x.1 }
  ((s5.clearColumns l.rect).setLaunch kept).setStatus l.part l.queue l.seq 0x04
/-- The landings in ring slots that a core's commands have registered (R38, R254). -/
def Core.ringLandings (k : Core) (c : Nat) : List (Nat × Nat × Word) :=
  k.cmds.filterMap fun x => match x.work with
    | .copy d => match d.ring, windowPlace (chipOf c) (ptrVa d.dst) with
      | some (n, slots, _), some base => some (x.id, base + 8 * (n.toNat % slots), n)
      | _, _ => none
    | _ => none
/-- A launch's barrier instances back at their roots: a root holds again what it held, unless it holds another launch's that is not
idle (R167, R347). -/
def State.restoreRoots (s : State) (l : List Barrier) : State :=
  l.foldl (fun st b => if b.held then st.openRoot b.name else st)
    { s with barriers := s.barriers ++ l.map fun b => { b.flip s.fabric with held := false } }
/-- A stopped launch resumed on its rectangle (R50, R301, R345, R347, R348): its withdrawn commands' locks are registered anew, in
their order, and those of every `coll` that has not ended. Of the L1 lines its cores still hold, which R137 lets be present or gone, the managed ones stay and the released ones go (DESIGN
CHOICE: log entry 42). -/
def State.resume (s : State) (l : Launch) : State :=
  let live (e : Nat × Lock) : Bool := match s.coll e.2.cmd with
    | some x => x.active && (e.2.write || x.own.isNone)
    | none => l.saved.any fun k => k.2.cmds.any fun x => x.id == e.2.cmd
  let back : Launch := { l with state := .running, saved := [], barriers := [], locks := [], packets := [], columns := [], aside := [] }
  let s1 := l.saved.foldl (fun st e =>
    let k := e.2
    match k.run with
    | .stopped => ((st.freshL1 l.part e.1).setCore e.1
        { st.loadImage e.1 k with run := .running, level := .user, freeze := none, slice := 0, late := none,
                                  waitSince := s.fabric - k.waitSince }).slogSync e.1
    | _ => st.setCore e.1 { k with slice := 0 }) ((s.putAside l (l.saved.map fun e => e.1)).takeBack l)
  let s2 := (l.locks.filter live).foldl (fun st e => st.modPond e.1 fun p => p.register s.fabric e.2) s1
  let s3 := { s2.restoreRoots l.barriers with
    packets := l.packets ++ s2.packets
    landings := s2.landings ++ l.saved.flatMap fun (e : Nat × Core) => e.2.ringLandings e.1 }
  (((s3.clearColumns l.rect).loadColumns l).setLaunch back).setStatus l.part l.queue l.seq 0x03

/-! ## Admission (R362, R363) -/

/-- Effective priority (R362 step 2). -/
def State.effective (s : State) (l : Launch) : Nat :=
  let age := bits (s.queueDesc l.part l.queue 3) 32 32
  if age = 0 then recPrio l.record else Nat.min 3 (recPrio l.record + (s.gtime - l.accepted) / (1000 * age))
/-- A launch's awaited counter has reached WAITVAL, read as an acquire (R361, R362). -/
def State.counterMet (s : State) (l : Launch) : State × Bool :=
  let ix := bits (word8 l.record 5) 0 16
  if ix = 0 then (s, true)
  else match readU (s.sequencer l.part l.queue) (s.control l.part 0x218 + 8 * ix) 8 s with
    | .ok v s1 => (s1, decide (bits (word8 l.record 5) 16 32 ≤ v.1))
    | .error _ _ => (s, false)
/-- The heads of a partition's queues that are accepted and whose counters have come: with WEIGHT of their queue. -/
def State.heads (s : State) (p : Nat) : State × List (Launch × Nat) :=
  (List.range 8).foldl (fun r q =>
    let w := bits (r.1.queueDesc p q 2) 32 32
    match findFirst (fun l => l.part == p && l.queue == q && l.state == .accepted) r.1.launches with
    | none => r
    | some l =>
      if w = 0 || r.1.queueBroken p q then r
      else match r.1.counterMet l with
        | (s1, true) => (s1, r.2 ++ [(l, w)])
        | (s1, false) => (s1, r.2)) (s, [])
/-- The greatest of some numbers, one more than each (0: there is none). -/
def topOf (l : List Nat) : Nat := l.foldl (fun m n => Nat.max m (n + 1)) 0
/-- The head whose turn it is among those of the highest level (R362 step 3). -/
def State.pickHead (s : State) (p : Nat) (l : List (Launch × Nat)) : Option (Launch × Nat) :=
  let x := s.part p
  let held := if x.rrLeft = 0 then none else findFirst (fun e => e.1.queue == x.rrQueue) l
  match held with
  | some e => some e
  | none => (List.range 8).foldl (fun r i => match r with
      | some e => some e
      | none => findFirst (fun e => e.1.queue == (x.rrQueue + 1 + i) % 8) l) none
/-- The turn after an admission from a queue. -/
def Part.took (x : Part) (q w : Nat) : Part :=
  if x.rrQueue = q && x.rrLeft ≠ 0 then { x with rrLeft := x.rrLeft - 1 } else { x with rrQueue := q, rrLeft := w - 1 }
/-- A launch of the partition is being stopped. -/
def State.anyStopping (s : State) (p : Nat) : Bool := s.launches.any fun l => l.part == p && l.stopping
/-- Resumptions and admissions one after another as long as one is possible (R362 steps 1 to 6). While launches are being stopped for a
waiting one of a higher level, no pre-empted launch takes what is freed for it; none of its own level or below passes it all the same
(step 4; DESIGN CHOICE: log entry 92). A head that cannot start yet (its image faults: log entry 42; log entry 85) is passed over. -/
def State.admitNext (s : State) (p : Nat) (failed : List Nat) : Nat → State
  | 0 => s
  | fuel + 1 =>
    let h := s.heads p
    let s0 := h.1
    let fits := h.2.filter fun e => !failed.contains e.1.queue && (s0.place e.1 []).isSome
    let top := topOf (fits.map fun e => s0.effective e.1)
    let back := s0.launches.filter fun l =>
      l.part == p && l.state == .preempted && (s0.place l []).isSome && s0.enginesQuiet l.rect
    let topBack := topOf (back.map s0.effective)
    let waiting := topOf ((h.2.filter fun e => (s0.place e.1 []).isNone).map fun e => s0.effective e.1)
    if back.isEmpty && fits.isEmpty then s0
    else if topBack ≥ top then
      match findFirst (fun l => s0.effective l + 1 == topBack) back with
      | some l => if s0.anyStopping p && decide (topBack < waiting) then s0 else (s0.resume l).admitNext p failed fuel
      | none => s0
    else match s0.pickHead p (fits.filter fun e => s0.effective e.1 + 1 == top) with
      | none => s0
      | some (l, w) => match (s0.place l []).bind (s0.startLaunch l) with
        | some s1 => (s1.modPart p fun x => x.took l.queue w).admitNext p failed fuel
        | none => s0.admitNext p (l.queue :: failed) fuel
/-- A launch's slice count (R363). -/
def State.sliceOf (s : State) (l : Launch) : Nat := (rectCores l.rect).foldl (fun n c => Nat.max n (s.core c).slice) 0
/-- A list in the order of a test for "goes before". -/
def insertBy {α : Type} (before : α → α → Bool) (x : α) : List α → List α
  | [] => [x]
  | y :: rest => if before x y then x :: y :: rest else y :: insertBy before x rest
/-- A list put in order. -/
def orderBy {α : Type} (before : α → α → Bool) (l : List α) : List α := l.foldl (fun r x => insertBy before x r) []
/-- A launch by its names. -/
def Launch.key (l : Launch) : Nat × Nat × Nat := (l.part, l.queue, l.seq)
/-- The launches to stop for a waiting one beside those that stop already (R363), and where it then fits beside what others are promised:
those that qualify, the lowest PRIO first, then the longest run, until it fits. -/
def State.victims (s : State) (w : Launch) (taken : List (Nat × Nat × Nat × Nat)) : Option (List Launch × (Nat × Nat × Nat × Nat)) :=
  let slice (l : Launch) : Nat := if s.queueDesc l.part l.queue 3 % 2 ^ 32 = 0 then 2 ^ 20 else s.queueDesc l.part l.queue 3 % 2 ^ 32
  let needs (l : Launch) : Bool := !recFixed w.record || rectsMeet l.rect (recX w.record, recY w.record, recW w.record, recH w.record)
  let cands := s.launches.filter fun l =>
    l.part == w.part && l.state == .running && !l.stopping && decide (recPrio l.record < s.effective w) && decide (slice l ≤ s.sliceOf l) && needs l
  let sorted := orderBy (fun a b => decide (recPrio a.record < recPrio b.record) ||
    (recPrio a.record == recPrio b.record && decide (a.started < b.started))) cands
  let going := (s.launches.filter fun l => l.stopping).map Launch.key
  (List.range (sorted.length + 1)).foldl (fun r n => match r with
    | some x => some x
    | none => (s.placeBeside w (going ++ (sorted.take n).map Launch.key) taken).map fun x => (sorted.take n, x)) none
/-- Pre-emption for the waiting heads, the highest level first (R363): each is promised the rectangle it will have once what qualifies
for it is stopped. -/
def State.preempt (s : State) (p : Nat) : State :=
  let h := s.heads p
  let s0 := h.1
  let waiting := h.2.filter fun e =>
    let age := bits (s0.queueDesc p e.1.queue 3) 32 32
    (s0.place e.1 []).isNone && decide (1000 * age ≤ s0.gtime - e.1.accepted)
  let order := orderBy (fun a b => decide (s0.effective a.1 > s0.effective b.1)) waiting
  (order.foldl (fun (r : State × List (Nat × Nat × Nat × Nat)) e => match r.1.victims e.1 r.2 with
    | none => r
    | some (l, x) => (l.foldl (fun st y => st.setLaunch { y with stopping := true }) r.1, x :: r.2)) (s0, [])).1
/-- The cores of launches being stopped that stand at a boundary stopped, a row's or pair's leader before its followers. -/
def State.stopCores (s : State) (p : Nat) : State :=
  (s.launches.filter fun l => l.part == p && l.stopping).foldl (fun st l =>
    (rectCores l.rect).foldl (fun st c => if st.mayStop c then st.stopCore c else st) st) s
/-- The stops of a partition that are complete carried out. -/
def State.finishStops (s : State) (p : Nat) : State :=
  s.launches.foldl (fun st l => if l.part == p && l.stopping && st.stopDone l then st.putAway l else st) s

/-- Chiplets and channels added since the last round join (R364). -/
def Part.join (x : Part) : Part :=
  if x.joinChips.isEmpty && x.joinChans.isEmpty then x
  else { x with
    ownGen := x.ownGen + 1
    chips := x.joinChips.foldl insertNat x.chips, joinChips := []
    chans := x.joinChans.foldl insertNat x.chans, joinChans := [] }

/-- `ADMISSION_ROUND` (R362, R363, R364): what was added joins, stops that are complete are carried out, launches resume and start, and
what a waiting launch may pre-empt begins to stop. -/
def execAdmissionRound (p : Nat) (s : State) : Host.Outcome State Fault Refusal :=
  let s0 := s.modPart p fun x => { x.join with round := s.gtime }
  let s1 := (s0.stopCores p).finishStops p
  let s2 := s1.admitNext p [] (s1.launches.length + 9)
  .next ((s2.preempt p).stopCores p)

/-! ## Completion (R361, R312) -/

/-- What the device holds of a launch beside its cores removed: rings, barrier instances, packets (R258). -/
def State.clearLaunch (s : State) (l : Launch) : State :=
  let cores := rectCores l.rect
  State.setPackets { s with
    rings := s.rings.filter fun r => !(r.part == l.part && r.queue == l.queue && r.seq == l.seq)
    barriers := s.barriers.filter fun b => !(b.name.part == l.part && b.name.queue == l.queue && b.name.seq == l.seq) }
    (s.packets.filter fun p => !(cores.contains p.src && (p.ring || cores.contains p.dst)))
/-- A launch's final state (R360, R361): status, one event, and for a completed one its counter. -/
def State.finalState (s : State) (l : Launch) (failed : Bool) : State :=
  let sig := bits (word8 l.record 5) 48 16
  let s1 := { s with launches := s.launches.filter fun x => !x.is l.part l.queue l.seq }
  let s2 := if failed || sig = 0 then s1 else
    s1.doU (counterAdd (s.sequencer l.part l.queue) (s.control l.part 0x218 + 8 * sig) 1)
  ((s2.setStatus l.part l.queue l.seq (if failed then 0x06 else 0x05)).launchEvent l.part l.queue l.seq (if failed then 3 else 2) 0).modQueue
    l.part l.queue fun x => { x with openSeqs := x.openSeqs.filter fun n => n != l.seq }
/-- `LAUNCH_COMPLETION` (R27, R312, R361): every task has ended. -/
def execLaunchCompletion (p q seq : Nat) (s : State) : Host.Outcome State Fault Refusal :=
  match findFirst (fun l => l.is p q seq && l.state == .running) s.launches with
  | none => .next s
  | some l =>
    let cores := rectCores l.rect
    let ended (c : Nat) : Bool := match (s.core c).run with
      | .ended _ => true
      | _ => false
    if !cores.all ended then .next s
    else
      let failed := cores.any fun c => (s.core c).run == .ended true
      let s1 := cores.foldl (fun st c => st.modCore c fun k => { k with run := .idle }) s
      .next ((s1.clearLaunch l).finalState l failed)

end Sys2Proof.Machine
end

