-- ==== Sys2Proof/Machine/Springs.lean ====
section
/-!
DEFINITION. The supervisor's commands to the springs: the range-table commit (R142, R143, R146), the class command (R303-R306), probe
and edit (R320, R321), the maintenance block (R333-R335); accesses of the host and errors of its link (R161, R337, R383); and errors
found in the background (R307).
-/
namespace Sys2Proof.Machine

/-- A doubleword of a partition's range-table page (R142). -/
def State.page (s : State) (p off : Nat) : Nat := s.bytes (ctlPlace p off) 8
/-- A doubleword of the page written by the Frarin. -/
def State.setPage (s : State) (p off v : Nat) : State := s.writeClean (ctlPlace p off) 8 (v % 2 ^ 64)
/-- A status doubleword: the low 56 bits of the generation and the result. -/
def State.setResult (s : State) (p off gen result : Nat) : State := s.setPage p off (gen % 2 ^ 56 * 256 + result)

/-! ## The range table (R142, R143, R146) -/

/-- Doubleword `i` of entry `n` as written. -/
def State.entryWord (s : State) (p n i : Nat) : Nat := s.page p (32 * n + 8 * i)
/-- An entry's fields. -/
def State.entryAt (s : State) (p n : Nat) : RangeEntry :=
  let w (i : Nat) : Nat := s.entryWord p n i
  { slot := n, coh := (w 0).testBit 62, place := bits (w 0) 60 2, base := bits (w 0) 12 45, last := bits (w 1) 12 45, slice := bits (w 2) 38 13,
    slog := bits (w 2) 34 4, sil := bits (w 2) 30 4, spr := BitVec.ofNat 32 (bits (w 3) 32 32), mil := bits (w 3) 28 4 }
/-- A valid entry breaks R143. -/
def State.entryBroken (s : State) (p n : Nat) : Bool :=
  let w (i : Nat) : Nat := s.entryWord p n i
  let e := s.entryAt p n
  e.place == 3 || bits (w 0) 57 3 != 0 || bits (w 0) 0 12 != 0 || bits (w 1) 57 7 != 0 || bits (w 1) 0 12 != 0 || decide (e.last < e.base) ||
  bits (w 2) 51 13 != 0 || bits (w 2) 0 30 != 0 || decide (e.slice > 5119) || e.slice % 2 ^ e.slog != 0 || decide (e.slog > 12) ||
  (e.place == 1 && e.slog != 0) || e.spr == 0 || decide (e.mil > 9) || bits (w 3) 0 28 != 0
/-- Two ranges share a page. -/
def RangeEntry.overlaps (a b : RangeEntry) : Bool := decide (a.base ≤ b.last) && decide (b.base ≤ a.last)
/-- Two entries of a list overlap. -/
def anyOverlap : List RangeEntry → Bool
  | [] => false
  | e :: rest => rest.any (fun x => x.overlaps e) || anyOverlap rest
/-- A slice or a spring of an entry's sets is not the partition's. -/
def Part.lacks (q : Part) (e : RangeEntry) : Bool :=
  (List.range (2 ^ e.slog)).any (fun i => !q.chips.contains ((e.slice + i) / 16)) ||
  (List.range 32).any fun i => e.spr.getLsbD i && !q.springs.contains i

/-- A line of a core's L1 written back by mask and dropped, its update-only partials merged; bytes that find the side log full stay on
their way. -/
def State.l1Flush (s : State) (c : Nat) (l : L1Line) : State :=
  if l.updateOnly then (s.mergeLine c l).1
  else match s.cleanHome c l with
    | (s1, true) => s1.l1Set c l none
    | (s1, false) => (s1.l1Drop c l).1
/-- The L1 and L2 lines of a partition that a test of addresses picks written back by mask and dropped (R146). -/
def State.flushLines (s : State) (p : Nat) (f : Nat → Bool) : State :=
  let s1 := s.l1.foldl (fun st e =>
    if (st.core e.1).task.part = p then
      let st1 := (st.settle e.1 fun w => f (w.line * 64)).1
      e.2.foldl (fun st l => if f (l.line * 64) then st.l1Flush e.1 l else st) st1
    else st) s
  s1.l2.foldl (fun st x => if x.part == p && f (x.line * 64) then st.l2Evict x else st) s1

/-- A launch of a partition is running or pre-empted. -/
def State.launchHeld (s : State) (p : Nat) : Bool :=
  s.launches.any fun l => l.part == p && (l.state == .running || l.state == .preempted)
/-- First-touch homes carried over to a new table for the slots whose entry did not change (R145). -/
def keepTouched (old new : List RangeEntry) (l : List Touch) : List Touch :=
  l.filter fun t => new.any fun e => e.slot == t.slot && old.contains e

/-- A commit (R146). -/
def State.commit (s : State) (p : Nat) : State :=
  let gen := s.page p 0x800
  if gen = 0 then s
  else
    let q := s.part p
    let valid := (List.range 64).filter fun n => (s.entryWord p n 0).testBit 63
    let new := valid.map fun n => s.entryAt p n
    let old := q.table
    let result := if s.launchHeld p then 2 else if anyOverlap new then 3 else if new.any q.lacks then 4
      else if valid.any (fun n => s.entryBroken p n) then 5 else 1
    if result ≠ 1 then s.setResult p 0x808 gen result
    else
      let changed := (old.filter fun e => !new.contains e) ++ (new.filter fun e => !old.contains e)
      let s1 := s.flushLines p fun va => changed.any fun e => decide (e.base ≤ va / 4096) && decide (va / 4096 ≤ e.last)
      (s1.modPart p fun x => { x with table := new, touched := keepTouched old new x.touched }).setResult p 0x808 gen 1
/-- `RANGE_TABLE_COMMIT` (R142, R146). -/
def execRangeTableCommit (p : Nat) (s : State) : Host.Outcome State Fault Refusal := .next (s.takeCmd p 0x800 fun s => s.commit p)

/-! ## Classes (R303, R305, R306) -/

/-- Raw bytes of a granule of a class in KiB (R303). -/
def footprint (c : BitVec 2) : Nat :=
  if c = 0 then 2304 else if c = 1 then 2112 else if c = 2 then 2048 else 0
/-- An address range of a spring holds a byte of a granule. -/
def meetsGranule (lo n g : Nat) : Bool := decide (lo < g + 2 ^ 21) && decide (g < lo + n)
/-- A spring's TLB or walk cache translates into a granule at physical address `g`. -/
def Spring.uses (x : Spring) (g : Nat) : Bool :=
  x.tlb.any (fun t => meetsGranule (leafPa t.leaf.toNat 0 t.bits) (2 ^ t.bits) g) || x.walk.any fun w => meetsGranule w.table 4096 g
/-- A granule zeroed, no word left marked (R306). -/
def State.zeroGranule (s : State) (g : Nat) : State :=
  { s with
    mem := s.mem.filter fun c => !(decide (g ≤ c.1) && decide (c.1 < g + 2 ^ 21))
    marks := s.marks.filter fun w => !(decide (g ≤ 4 * w) && decide (4 * w < g + 2 ^ 21))
    latent := s.latent.filter fun u => !(decide (g ≤ 64 * u.1) && decide (64 * u.1 < g + 2 ^ 21)) }

/-- A set-class command (R305, R306). -/
def State.setClassCmd (s : State) (p : Nat) : State :=
  let d := s.page p 0x810
  let gen := s.page p 0x818
  let cls : BitVec 2 := BitVec.ofNat 2 (bits d 20 2)
  let sp := bits d 15 5
  let gran := d % 2 ^ 15
  let g := sp * 2 ^ 36 + gran * 2 ^ 21
  let x := s.spring sp
  let others := (x.classes.filter fun e => e.1 / 1024 == gran / 1024 && e.1 != gran).foldl (fun n e => n + footprint e.2) 0
  let result := if d / 2 ^ 60 ≠ 1 || bits d 22 38 ≠ 0 || gen = 0 then 3
    else if !(s.part p).chans.contains (32 * sp + gran / 1024) then 4
    else if x.uses g then 2
    else if others + footprint cls > 2 ^ 21 then 5 else 1
  if result ≠ 1 then (s.setResult p 0x820 gen result)
  else
    let inside (h : HeldLine) : Bool := match h.frame with
      | some u => decide (g ≤ 64 * u) && decide (64 * u < g + 2 ^ 21)
      | none => false
    let s1 := s.modSpring sp fun y =>
      { y with held := y.held.filter fun h => !inside h
               classes := if cls = 3 then del y.classes gran else put y.classes gran cls }
    ((s1.zeroGranule g).setResult p 0x820 gen 1)
/-- `SET_CLASS` (R305, R306). -/
def execSetClass (p : Nat) (s : State) : Host.Outcome State Fault Refusal := .next (s.takeCmd p 0x810 fun s => s.setClassCmd p)

/-! ## Probe and edit (R320, R321) -/

/-- How a walk without the caches ends: the level and value of the entry it stops at, its address, whether it is a leaf that no check
faults, and the path walked. -/
structure Stopped where
  lvl : Nat
  entry : Nat
  addr : Nat
  leaf : Bool
  deriving DecidableEq, Repr

/-- The walk from a level down to level `dest` (6: to the leaf), through spring memory alone. -/
def State.walkTo (s : State) (p va dest : Nat) : Nat → Nat → Nat → Stopped
  | 0, l, _ => { lvl := l, entry := 0, addr := 0, leaf := false }
  | fuel + 1, l, t =>
    let a := t + 8 * walkIndex va l
    let e := s.bytes a 8
    let bad := s.anyMarked a 8 || s.latent.any fun x => x.1 == a / 64 && x.2
    if l = dest then { lvl := l, entry := e, addr := a, leaf := false }
    else if bad || s.entryCause p va l e ≠ 0 then { lvl := l, entry := e, addr := a, leaf := false }
    else if e.testBit 1 then { lvl := l, entry := e, addr := a, leaf := true }
    else s.walkTo p va dest fuel (l + 1) (bits e 12 36 * 4096)

/-- Translations formed from an entry or from a walk through it dropped, in every spring (R321). -/
def State.forget (s : State) (p addr : Nat) : State :=
  (s.part p).springs.foldl (fun st n => st.modSpring n fun g =>
    { g with
      tlb := g.tlb.filter fun t => !(t.part == p && t.path.contains addr)
      walk := g.walk.filter fun w => !(w.part == p && w.path.contains addr) }) s

/-- What a translation command reports, before its status (R321). -/
def State.report (s : State) (p lvl entry : Nat) : State := (s.setPage p 0x870 lvl).setPage p 0x878 entry
/-- The arguments of a translation command are bad (R320); `lvlOk` judges LEVEL. -/
def State.badCommand (s : State) (p cmd : Nat) (lvlOk : Nat → Bool) : Bool :=
  let d := s.page p 0x840
  d / 2 ^ 60 != cmd || bits d 19 41 != 0 || !lvlOk (bits d 16 3) || bits (s.page p 0x848) 57 7 != 0 || s.page p 0x860 == 0

/-- A probe (R320, R321). -/
def State.probeCmd (s : State) (p : Nat) : State :=
  let gen := s.page p 0x860
  let va := s.page p 0x848
  if s.badCommand p 1 (fun l => l == 0) then (s.setResult p 0x868 gen 3)
  else match find (s.part p).roots (s.page p 0x840 % 2 ^ 16) with
    | none => ((s.report p 0 0).setResult p 0x868 gen 6)
    | some root =>
      let r := s.walkTo p va 6 5 1 root
      ((s.report p r.lvl r.entry).setResult p 0x868 gen (if r.leaf then 1 else 6))
/-- An edit (R320, R321). -/
def State.editCmd (s : State) (p : Nat) : State :=
  let gen := s.page p 0x860
  let va := s.page p 0x848
  let dest := bits (s.page p 0x840) 16 3
  if s.badCommand p 2 (fun l => 1 ≤ l && l ≤ 5) then (s.setResult p 0x868 gen 3)
  else match find (s.part p).roots (s.page p 0x840 % 2 ^ 16) with
    | none => ((s.report p 0 0).setResult p 0x868 gen 6)
    | some root =>
      let r := s.walkTo p va dest 5 1 root
      if r.lvl ≠ dest then ((s.report p r.lvl r.entry).setResult p 0x868 gen 6)
      else
        let clr := s.page p 0x850
        let new := (r.entry - (r.entry &&& clr)) ||| s.page p 0x858
        ((((s.writeClean r.addr 8 new).forget p r.addr).report p r.lvl r.entry).setResult p 0x868 gen 1)
/-- The translation command that doubleword 0 holds when the spring reads it (R320): one that is neither probe nor edit gives result 3. -/
def State.translationCmd (s : State) (p : Nat) : State := if s.page p 0x840 / 2 ^ 60 = 2 then s.editCmd p else s.probeCmd p
/-- `PROBE` (R320, R321): the command that waits is handled, by what its doubleword 0 holds. -/
def execProbe (p : Nat) (s : State) : Host.Outcome State Fault Refusal := .next (s.takeCmd p 0x840 fun s => s.translationCmd p)
/-- `EDIT` (R320, R321): the command that waits is handled, by what its doubleword 0 holds. -/
def execEdit (p : Nat) (s : State) : Host.Outcome State Fault Refusal := .next (s.takeCmd p 0x840 fun s => s.translationCmd p)

/-! ## The maintenance block (R333-R335) -/

/-- ASID of the block. -/
def State.maintAsid (s : State) (p : Nat) : BitVec 16 := BitVec.ofNat 16 (s.page p 0x880)
/-- The arguments of a maintenance command are bad (R333). -/
def State.badMaintenance (s : State) (p cmd : Nat) : Bool :=
  let d := s.page p 0x880
  let a1 := s.page p 0x888
  let a2 := s.page p 0x890
  d / 2 ^ 60 != cmd || bits d 16 44 != 0 || s.page p 0x898 != 0 || s.page p 0x8A0 == 0 ||
  (cmd == 5 && d % 2 ^ 16 != 0) || (cmd == 1 && a1 != 0) || (decide (2 ≤ cmd) && decide (cmd ≤ 4) && bits a1 57 7 != 0) ||
  ((cmd == 2 || cmd == 3) && (a2 == 0 || decide (a2 > 2 ^ 40)))
/-- The status of a maintenance command. -/
def State.maintResult (s : State) (p result : Nat) : State := s.setResult p 0x8A8 (s.page p 0x8A0) result
/-- Translations that a test picks dropped in every spring of a partition; a walk-cache entry is judged by the range it covers. -/
def State.dropTranslations (s : State) (p : Nat) (ft : TlbEntry → Bool) (fw : WalkEntry → Bool) : State :=
  (s.part p).springs.foldl (fun st n => st.modSpring n fun g =>
    { g with tlb := g.tlb.filter fun t => !(t.part == p && ft t), walk := g.walk.filter fun w => !(w.part == p && fw w) }) s
/-- Two ranges of addresses share a byte. -/
def rangesMeet (a n b m : Nat) : Bool := decide (a < b + m) && decide (b < a + n)

/-- A set-root command (R334). -/
def State.setRootCmd (s : State) (p : Nat) : State :=
  let asid := s.maintAsid p
  let t := s.page p 0x890
  if s.badMaintenance p 1 || (t != 0 && (t % 4096 != 0 || t ≥ 2 ^ 48 || !s.tableOk p t)) then (s.maintResult p 3)
  else
    let s1 := s.modPart p fun q => { q with roots := if t = 0 then del q.roots asid.toNat else put q.roots asid.toNat t }
    ((s1.dropTranslations p (fun x => x.asid == asid || x.leaf.toNat.testBit 6) (fun w => w.asid == asid)).maintResult p 1)
/-- An invalidate command (R334). -/
def State.invalidateCmd (s : State) (p : Nat) : State :=
  let asid := s.maintAsid p
  let va := s.page p 0x888
  let n := s.page p 0x890
  if s.badMaintenance p 2 then (s.maintResult p 3)
  else ((s.dropTranslations p
    (fun x => (x.asid == asid || x.leaf.toNat.testBit 6) && rangesMeet x.base (2 ^ x.bits) va n)
    (fun w => w.asid == asid && rangesMeet (w.pfx * 2 ^ (57 - 9 * w.level)) (2 ^ (57 - 9 * w.level)) va n)).maintResult p 1)
/-- A clean command (R334). -/
def State.cleanCmd (s : State) (p : Nat) : State :=
  let asid := s.maintAsid p
  let va := s.page p 0x888
  let n := s.page p 0x890
  if s.badMaintenance p 3 then (s.maintResult p 3)
  else ((s.l2.foldl (fun st x =>
    if x.part == p && x.asid == asid && rangesMeet (x.line * 64) 64 va n then st.l2Evict x else st) s).maintResult p 1)

/-- Every byte, mark and error of a frame copied to another (R335). -/
def State.copyFrame (s : State) (old new n : Nat) : State :=
  let inside (lo a : Nat) : Bool := decide (lo ≤ a) && decide (a < lo + n)
  let s0 := s.latent.foldl (fun st u => if inside old (64 * u.1) then st.meetError (64 * u.1) none 0 else st) s
  { s0 with
    mem := (s0.mem.filter fun c => inside old c.1).foldl (fun m c => put m (c.1 - old + new) c.2) (s0.mem.filter fun c => !inside new c.1)
    marks := (s0.marks.filter fun w => inside old (4 * w)).foldl (fun m w => insertNat m (w - old / 4 + new / 4))
      (s0.marks.filter fun w => !inside new (4 * w))
    latent := s0.latent.filter fun u => !inside new (64 * u.1) }
/-- A migrate command (R335): refused, or begun, so that its spring holds the write-backs to the old frame from now on (R159), and ended
in a later turn of its own. -/
def State.migrateCmd (s : State) (p : Nat) : State :=
  let asid := s.maintAsid p
  let va := s.page p 0x888
  let new := s.page p 0x890
  if s.badMaintenance p 4 then s.maintResult p 3
  else match find (s.part p).roots asid.toNat with
    | none => s.maintResult p 5
    | some root =>
      let r := s.walkTo p va 6 5 1 root
      if !r.leaf then s.maintResult p 5
      else
        let n := leafSize r.lvl
        let old := bits r.entry 12 36 * 4096
        let cls := bits r.entry 10 2
        let fits := new % n == 0 && decide (new < 2 ^ 41) && decide (old < 2 ^ 41) && new / 2 ^ 36 == old / 2 ^ 36 &&
          (s.part p).ownsPa new && s.frameOk p va new r.lvl cls
        let sp := old / 2 ^ 36
        if !fits then s.maintResult p 3
        else if (s.spring sp).moving.isSome then s.maintResult p 2
        else
          let m : Migration := { part := p, asid := asid, va := va, entry := r.addr, old := old, new := new, size := n, gen := s.page p 0x8A0 }
          (s.modSpring sp fun g => { g with moving := some m }).startCmd p 0x8A8 sp (.migrate p)
/-- The end of a migration that runs in a spring, among a partition's commands that wait: after those written before it began. -/
def Part.migrationDue (q : Part) : Option (Nat × Nat) :=
  match findFirst (fun e => e.1 == 0x880 || e.1 == 0x8A8) q.pendingCmds with
  | some e => if e.1 = 0x8A8 then some e else none
  | none => none
/-- A spring's migration ended (R335 steps 2 to 4): every byte and mark is in the new frame, the leaf and the TLB entries formed from it
name it, and the held write-backs are applied to it in arrival order (R159). -/
def State.migrated (s : State) (p sp : Nat) : State :=
  let g := s.spring sp
  match g.moving with
  | none => s
  | some m =>
    let old := s.bytes m.entry 8
    let e := old - bits old 12 36 * 4096 + m.new
    let s1 := (s.copyFrame m.old m.new m.size).writeClean m.entry 8 e
    let s2 := (s1.part p).springs.foldl (fun st i => st.modSpring i fun g =>
      { g with tlb := g.tlb.map fun t => if t.part == p && t.addr == m.entry then { t with leaf := w64 e } else t }) s1
    let s3 := g.held.foldl (fun st h => match h.frame with
      | some u => st.writeLine (64 * u - m.old + m.new) h.data h.mask (if bits e 10 2 = 2 then 0 else h.marks)
      | none => st) s2
    (s3.modSpring sp fun g => { g with moving := none, held := g.held.filter fun h => h.frame.isNone }).setResult p 0x8A8 m.gen 1
/-- An answer command (R334). -/
def State.answerCmd (s : State) (p : Nat) : State :=
  if s.badMaintenance p 5 then (s.maintResult p 3)
  else ((s.deliver p (w64 (s.page p 0x888)) (w64 (s.page p 0x890))).maintResult p 1)
/-- The maintenance command that doubleword 0 holds when it is read (R333): one that is none of the five gives result 3. -/
def State.maintCmd (s : State) (p : Nat) : State :=
  match s.page p 0x880 / 2 ^ 60 with
  | 2 => s.invalidateCmd p
  | 3 => s.cleanCmd p
  | 4 => s.migrateCmd p
  | 5 => s.answerCmd p
  | _ => s.setRootCmd p
/-- `SET_ROOT` (R334): the command that waits is handled, by what its doubleword 0 holds. -/
def execSetRoot (p : Nat) (s : State) : Host.Outcome State Fault Refusal := .next (s.takeCmd p 0x880 fun s => s.maintCmd p)
/-- `INVALIDATE` (R334): the command that waits is handled, by what its doubleword 0 holds. -/
def execInvalidate (p : Nat) (s : State) : Host.Outcome State Fault Refusal := .next (s.takeCmd p 0x880 fun s => s.maintCmd p)
/-- `CLEAN` (R334): the command that waits is handled, by what its doubleword 0 holds. -/
def execClean (p : Nat) (s : State) : Host.Outcome State Fault Refusal := .next (s.takeCmd p 0x880 fun s => s.maintCmd p)
/-- `MIGRATE` (R159, R335): the command that waits is handled, by what its doubleword 0 holds; where the end of a migration comes first,
that. -/
def execMigrate (p : Nat) (s : State) : Host.Outcome State Fault Refusal :=
  match (s.part p).migrationDue with
  | some e => .next ((s.modPart p fun q => { q with pendingCmds := dropFirst (fun x => x == e) q.pendingCmds }).migrated p e.2)
  | none => .next (s.takeCmd p 0x880 fun s => s.maintCmd p)
/-- `ANSWER` (R334): the command that waits is handled, by what its doubleword 0 holds. -/
def execAnswer (p : Nat) (s : State) : Host.Outcome State Fault Refusal := .next (s.takeCmd p 0x880 fun s => s.maintCmd p)

/-! ## The host's accesses (R161, R337, R383) -/

/-- HVA of the launch control page. -/
def State.hva (s : State) (p : Nat) : Nat := s.control p 0x228 % 2 ^ 57
/-- The host as an agent of a partition, of supervisor level, under HASID (R161). -/
def State.hostAgent (s : State) (p : Nat) : Agent :=
  { part := p, asid := BitVec.ofNat 16 (s.control p 0x230), user := false, chip := 0, cls := 0, who := none }
/-- The bytes of a mask written one by one. -/
def hostWrite (a : Agent) (va : Nat) (data : BitVec 512) (mask : BitVec 64) : U Unit :=
  (List.range 64).forM fun i =>
    if mask.getLsbD i then writeU a (va + i) 1 (bits data.toNat (8 * i) 8) false else pure ()
/-- The partition and offset of 64 bytes of host physical addresses inside a decoder's range (R161). -/
def State.decoded (s : State) (h : Nat) : Option (Nat × Nat) :=
  (findFirst (fun (d : Nat × Nat × Nat) => decide (d.2.1 ≤ h) && decide (h + 64 ≤ d.2.1 + d.2.2)) s.dev.decoders).map fun d => (d.1, h - d.2.1)
/-- Whose L1 partials or L2 lines hold the line of host memory at a frame address for a partition: ASID and line. -/
def State.heldAt (s : State) (p pa : Nat) : List (BitVec 16 × Nat) :=
  let names := ((s.l1.filter fun e => (s.core e.1).task.part == p).flatMap fun e => (e.2.filter L1Line.updateOnly).map fun l => (l.asid, l.line)) ++
    (s.l2.filter fun x => x.part == p).map fun x => (x.asid, x.line)
  names.filter fun e =>
    let q : Req := { part := p, asid := e.1, user := false, r := false, w := false, x := false, who := none }
    match (s.translate q (64 * e.2)).2 with
    | .ok a _ => a / 64 == pa / 64
    | .fault _ _ => false
/-- The host's read through CXL.cache of a line of its own memory (R160): at its home slice where the device holds it, its partials merged
first, else as it is. -/
def State.hostSnoop (s : State) (p pa : Nat) : State × (BitVec 512 × Bool) :=
  match s.heldAt p pa with
  | (asid, line) :: _ =>
    match readU { part := p, asid := asid, user := false, chip := 0, cls := 2, who := none } (64 * line) 64 s with
    | .ok r s1 => (s1, (BitVec.ofNat 512 r.1, r.2.1))
    | .error h _ => (s.tried h, (0, true))
  | [] => (s, (BitVec.ofNat 512 (s.bytes (pa / 64 * 64) 64), false))
/-- `HOST_MEMORY_ACCESS` (R161, R383): 64 bytes at a host physical address, read or written by mask, that come on a partition's selective
stream; `keyed` says whether under its key. A read at the frame address of a line of host memory (R325: 2^47 and above) is one through
CXL.cache (R160). -/
def execHostMemoryAccess (p addr : Nat) (keyed w : Bool) (data : BitVec 512) (mask : BitVec 64) (s : State) :
    Host.Outcome State Fault Refusal :=
  let d := s.decoded addr
  let va := s.hva p + (d.getD (0, 0)).2
  let reply (s : State) (x : BitVec 512) (poison : Bool) : State := { s with dev := { s.dev with hostReply := some (x, poison) } }
  if 2 ^ 47 ≤ addr && !w && keyed && (s.part p).keyed && (s.part p).live then
    let r := s.hostSnoop p addr
    .next (reply r.1 r.2.1 r.2.2)
  else if !((d.map fun e => e.1) == some p && keyed && (s.part p).keyed && (s.part p).live && (s.control p 0x230).testBit 63 && decide (va + 64 ≤ 2 ^ 57)) then
    let s1 := { s with dev := { s.dev with blocked := s.dev.blocked + 1 } }
    .next (if w then s1 else reply s1 (BitVec.allOnes 512) false)
  else
    let a := s.hostAgent p
    let m : U Unit :=
      if inWindow va || inWindow (va + 63) then throw (.fault va 0x04 1 (a.req (!w) w))
      else if w then hostWrite a va data mask
      else do
        let r ← readU a va 64
        modify fun s => reply s (BitVec.ofNat 512 r.1) r.2.1
    match m s with
    | .ok _ s1 => .next s1
    | .error (.fault x c l q) _ =>
      let s1 := if inWindow x then s else s.tried (.fault x c l q)
      .next (if w then s1.post p (0xFFF00 + (s.part p).homeSpring va) 6 0 0 0 (w64 x) else reply s1 0 true)
    | .error .busy _ => .next s

/-- `HOST_LINK_ERROR` (R337): the fill of a line of host memory for a core's read ends with an error and is delivered as poison, or the
write-back of such a line does and is discarded, its slice keeping a line that a command has pinned (R240). -/
def execHostLinkError (c : Nat) (p : Nat) (asid : BitVec 16) (va : Nat) (w : Bool) (s : State) : Host.Outcome State Fault Refusal :=
  let line := va % 2 ^ 57 / 64
  let q : Req := { part := p, asid := asid, user := false, r := !w, w := w, x := false, who := some c }
  match s.l2Get p asid line, w with
  | some x, true =>
    match s.translate q (line * 64) with
    | (s1, .ok pa _) =>
      if pa ≥ 2 ^ 47 && x.dirty != 0 then
        let s2 := if s1.pinned x then s1.l2Put { x with dirty := 0 }
          else { s1 with l2 := dropFirst (fun l => l.part == p && l.asid == asid && l.line == line) s1.l2 }
        .next (s2.post p (0xFFF00 + (s1.part p).homeSpring va) 6 0 0 0 (w64 (line * 64)))
      else .next s
    | (_, .fault _ _) => .next s
  | none, false =>
    match s.translate q (line * 64) with
    | (s1, .ok pa cls) =>
      if pa ≥ 2 ^ 47 then
        let x : L2Line := { part := p, asid := asid, line := line, data := BitVec.ofNat 512 (s1.bytes (pa / 64 * 64) 64), dirty := 0,
                            marks := BitVec.allOnes 16, cls := BitVec.ofNat 2 cls, err := none }
        let s2 := s1.l2Room p (chipOf c) va (some c)
        .next ((({ s2 with l2 := x :: s2.l2 }).spend c 1600).countError c 16 va)
      else .next s
    | (_, .fault _ _) => .next s
  | _, _ => .next s

/-- An error that has arisen in a place (R307): one in storage that holds nothing there is none. -/
def State.addError (s : State) (x : ErrorPlace) (bad : Bool) : State :=
  match x with
  | .unit n => { s with latent := s.latent ++ [(n, bad)] }
  | .slice n =>
    match nth s.l2 n with
    | some l => s.l2Put { l with err := some bad }
    | none => s
  | .l1 c n =>
    match nth (s.l1Of c) n with
    | some l => s.l1Set c l (some { l with err := some bad })
    | none => s
  | .flit c => s.modCore c fun k => { k with flit := some bad }
/-- An error in a place found by the hardware itself: corrected, or the unit's words marked, and counted by the management controller. -/
def State.scrub (s : State) (x : ErrorPlace) : State :=
  let count (s : State) (bad : Bool) : State := s.countMet none bad 0
  match x with
  | .unit n => s.meetError (64 * n) none 0
  | .slice n =>
    match nth s.l2 n with
    | some l => s.l2Meet l none 0
    | none => s
  | .l1 c n =>
    match nth (s.l1Of c) n with
    | some l => match l.err with
      | some bad => count (s.l1Set c l (some (l.disturbed bad))) bad
      | none => s
    | none => s
  | .flit _ => s
/-- `BACKGROUND_ERROR` (R307): an error of checked storage or of a flit: one that has arisen and that nobody has met, or one found by
eviction, refresh or background scrub, which the management controller counts. -/
def execBackgroundError (place : ErrorPlace) (bad found : Bool) (s : State) : Host.Outcome State Fault Refusal :=
  let s1 := s.addError place bad
  .next (if found then s1.scrub place else s1)

end Sys2Proof.Machine
end

