-- ==== Sys2Proof/Machine/Partitions.lean ====
section
/-!
DEFINITION. Partitions: reset and the loss of a chiplet (R361, R366), ownership (R364), creation and destruction (R142, R279, R356, R382).
-/
namespace Sys2Proof.Machine

/-! ## Stopping a launch for good -/

/-- Cores and their engines stopped: tasks, commands, locks, what runs at their ponds; their collectives cancelled. -/
def State.tearCores (s : State) (cores : List Nat) : State :=
  let ids := (cores.map fun c => (s.core c).cmds.map fun x => x.id).flatten
  let s1 := s.colls.foldl (fun st x => if x.active && cores.contains x.issuer.core && !st.kept x.issuer then st.failColl x .cancelled else st) s
  let s2 := (cores.foldl (fun l c => insertNat l (pondOf c)) []).foldl (fun st n => st.modPond n fun p =>
    { p with
      locks := p.locks.filter fun k => !cores.contains k.core
      pins := p.pins.filter fun k => !ids.contains k.cmd
      grant := (match p.grant with
        | some g => if cores.contains (pondCore n g.1) then none else some g
        | none => none)
      thrRunning := (match p.thrRunning with
        | some i => if ids.contains i then none else some i
        | none => none) }) s1
  let s3 := { s2 with landings := s2.landings.filter fun x => !ids.contains x.1 }
  cores.foldl (fun st c => st.modCore c fun k => { Core.reset c with gen := k.gen + 1, task := k.task }) s3
/-- The cores and engines of a launch on a rectangle stopped, and what the device holds of it gone. -/
def State.tearDown (s : State) (l : Launch) : State := (s.tearCores (rectCores l.rect)).clearLaunch l
/-- A stopped launch's kept contexts dropped with its rings: their unended collectives are cancelled. -/
def State.dropKept (s : State) (l : Launch) : State :=
  let mine (x : Coll) : Bool := l.saved.any fun e => e.1 == x.issuer.core && e.2.gen == x.issuer.gen
  let s1 := s.colls.foldl (fun st x => if x.active && mine x then st.failColl x .cancelled else st) s
  { s1 with rings := s1.rings.filter fun r => !(r.part == l.part && r.queue == l.queue && r.seq == l.seq) }.setLaunch
    { l with saved := [], barriers := [], locks := [], packets := [], columns := [], aside := [] }
/-- A launch running or pre-empted stopped for good. -/
def State.stopLaunch (s : State) (l : Launch) : State := if l.state == .running then s.tearDown l else s.dropKept l
/-- A launch whose rectangle is a given one from now on (R361). -/
def Launch.fixedAt (l : Launch) : Launch :=
  let d := word8 l.record 2
  { l with record := l.record.setIfInBounds 2 (w64 (d - bits d 0 21 + l.x + 2 ^ 11 * l.y + if d.testBit 29 then 0 else 2 ^ 29)) }
/-- A launch back among the accepted ones. -/
def Launch.again (l : Launch) : Launch :=
  { l with state := .accepted, stopping := false, saved := [], barriers := [], locks := [], packets := [], columns := [], aside := [] }
/-- A launch waits to start again: its status says accepted. -/
def State.waitAgain (s : State) (l : Launch) : State := (s.setLaunch l.again).setStatus l.part l.queue l.seq 0x02

/-! ## Partition reset (R361, R366) -/

/-- A launch after a partition reset: from task start on its rectangle, or failed. -/
def State.afterReset (s : State) (l : Launch) : State :=
  if !recRestart l.record then s.finalState l true
  else
    let free := { s with launches := s.launches.filter fun x => !x.is l.part l.queue l.seq }.rectFree l.rect []
    match (if free then s.startLaunch l.again l.rect else none) with
    | some s1 => s1
    | none => s.waitAgain l.fixedAt
/-- `PARTITION_RESET` (R366): cores and engines stop, L1 and L2 contents are discarded, generations advance, the network drops the
partition's flits, every slot's collectives count from 0 again (R266); then R361. -/
def execPartitionReset (p : Nat) (s : State) : Host.Outcome State Fault Refusal :=
  let held := s.launches.filter fun l => l.part == p && (l.state == .running || l.state == .preempted)
  let order := (held.filter fun l => l.state == .running) ++ held.filter fun l => l.state != .running
  let idle := s.tearCores ((s.cores.filter fun e => e.2.task.part == p && e.2.run == .idle).map fun e => e.1)
  let s1 := order.foldl (fun st l => st.stopLaunch l) idle
  let s2 := State.setPackets { s1 with
    l1 := s1.l1.filter fun e => (s1.core e.1).task.part != p
    l2 := s1.l2.filter fun x => x.part != p
    flights := s1.flights.filter fun w => w.part != p
    tags := s1.tags.filter fun t => t.tarn || t.part != p
    arrivals := s1.arrivals.filter fun a => a.part != p } (s1.packets.filter fun x => x.part != p)
  let s3 := s2.modPart p fun x => { x with handles := x.handles.map fun e => (e.1, { e.2 with colls := 0 }) }
  .next (order.foldl (fun st l => st.afterReset (l.again)) s3)

/-! ## Losing a chiplet (R361) -/

/-- A launch without a rectangle of its own, so that a new one is found for it (R361). -/
def Launch.unfixed (l : Launch) : Launch :=
  let d := word8 l.record 2
  { l with record := l.record.setIfInBounds 2 (w64 (d - bits d 0 21 - bits d 29 1 * 2 ^ 29)) }
/-- The launches that hold a chiplet restart on a new rectangle, or fail. -/
def State.loseChip (s : State) (n : Nat) : State :=
  (s.launches.filter fun l => (l.state == .running || l.state == .preempted) && (rectChips l.rect).contains n).foldl (fun st l =>
    let st1 := st.stopLaunch l
    if recRestart l.record then st1.waitAgain l.unfixed else st1.finalState l true) s

/-! ## Ownership (R364) -/

/-- Some partition owns a chiplet, or will at its next round. -/
def State.chipTaken (s : State) (n : Nat) : Bool := s.parts.any fun e => e.2.chips.contains n || e.2.joinChips.contains n
/-- Some partition owns a channel, or will at its next round. -/
def State.chanTaken (s : State) (n : Nat) : Bool := s.parts.any fun e => e.2.chans.contains n || e.2.joinChans.contains n
/-- The partition's L2 lines in a chiplet's slices written back by mask and dropped. -/
def State.flushChip (s : State) (p n : Nat) : State :=
  s.l2.foldl (fun st x => if x.part == p && (st.part p).homeSlice n (x.line * 64) / 16 == n then st.l2Evict x else st) s
/-- A granule whose key is gone reads as noise (R382). -/
def State.toNoise (s : State) (g : Nat) : State :=
  { s with mem := (List.range (2 ^ 21)).foldl (fun m i => writeByte m (g + i) (Config.noise s.stepNo (g + i))) s.mem }
/-- A channel that has left its partition: its 1024 granules are noise to its next owner (R303, R317, R382). -/
def State.channelNoise (s : State) (n : Nat) : State :=
  (List.range 1024).foldl (fun st g => st.toNoise ((1024 * n + g) * 2 ^ 21)) s
/-- `OWNERSHIP_CHANGE` (R364, R382): a chiplet or channel added, to join at the next admission round, or removed unless that is refused. The
key under which a channel that leaves was encrypted is destroyed, so its bytes are noise from then on, and the bytes that stay are under a
new key of the partition's (log entry 46). -/
def execOwnershipChange (p : Nat) (add chan : Bool) (n : Nat) (s : State) : Host.Outcome State Fault Refusal :=
  let x := s.part p
  if !x.live then .next s
  else match add, chan with
  | true, false =>
    .next (if decide (n < Config.numChips) && !s.chipTaken n then s.modPart p fun y => { y with joinChips := y.joinChips ++ [n] } else s)
  | true, true =>
    .next (if decide (n < 1024) && !s.chanTaken n then s.modPart p fun y => { y with joinChans := y.joinChans ++ [n] } else s)
  | false, false =>
    let busy := s.launches.any fun l => l.part == p && (l.state == .running || l.state == .preempted) && (rectChips l.rect).contains n
    .next (if busy || !x.chips.contains n then s
      else (s.flushChip p n).modPart p fun y => { y with chips := y.chips.filter (fun c => c != n), ownGen := y.ownGen + 1 })
  | false, true =>
    let backed := (s.spring (n / 32)).classes.any fun e => e.1 / 1024 == n % 32
    .next (if backed || !x.chans.contains n then s
      else (s.channelNoise n).modPart p fun y => { y with
        chans := y.chans.filter (fun c => c != n), ownGen := y.ownGen + 1, memKey := some (Config.memoryKey p s.stepNo) })

/-! ## Creation and destruction (R142, R356, R382) -/

/-- The router shares of the live partitions and of one more add up to at most 256 on each network (R365). -/
def State.sharesFit (s : State) (shares : Nat × Nat) : Bool :=
  let live := s.parts.filter fun e => e.2.live
  decide (live.foldl (fun n e => n + e.2.cachedShare) shares.1 ≤ 256) && decide (live.foldl (fun n e => n + e.2.messageShare) shares.2 ≤ 256)
/-- What the controller may write at 0x210, with HTAB and CTAB addresses (R356): HSLOTS in 20 bits, NCTR 1 to 65,536, zeros elsewhere. -/
def slotsOk (slots htab ctab : Word) : Bool :=
  let n := bits slots.toNat 32 17
  decide (1 ≤ n) && decide (n ≤ 65536) && slots.toNat == bits slots.toNat 0 20 + 2 ^ 32 * n && decide (htab.toNat < 2 ^ 57) && decide (ctab.toNat < 2 ^ 57)
/-- `PARTITION_CREATION` (R142, R279, R356, R382): the controller's choices are operands; it owns existing chiplets and
channels only, its router shares fit beside the others' (R365), its peer table names the partition itself once, by the number `self`, and
HSLOTS and NCTR, HTAB and CTAB are what R356 lets them be. Both pages are zeroed, then what the controller writes into the launch control
page: RTAB, HTAB, HSLOTS and NCTR, CTAB. -/
def execPartitionCreation (p self : Nat) (chips chans : List Nat) (peers : List Peer) (shares : Nat × Nat) (springs : List (Nat × Nat))
    (htab slots ctab : Word) (s : State) : Host.Outcome State Fault Refusal :=
  let x := s.part p
  if x.live || !decide (p < Config.numParts) || chips.any (fun n => s.chipTaken n || decide (n ≥ Config.numChips)) ||
      chans.any (fun n => s.chanTaken n || decide (n ≥ 1024)) || !s.sharesFit shares || ((peers.filter fun e => e.own).map fun e => e.num) != [self] ||
      !slotsOk slots htab ctab then .next s
  else
    let lo := ctlPlace p 0
    let inside (a : Nat) : Bool := decide (lo ≤ a) && decide (a < lo + 8192)
    let s1 := { s with mem := s.mem.filter fun c => !inside c.1, marks := s.marks.filter fun w => !inside (4 * w) }
    let s2 := s1.modPart p fun y =>
      { Part.reset with
        live := true, ownGen := y.ownGen + 1, chips := chips.foldl insertNat [], chans := chans.foldl insertNat [], peers := peers
        cachedShare := shares.1, messageShare := shares.2, springShares := springs, memKey := some (Config.memoryKey p s.stepNo) }
    .next ((((s2.writeClean (ctlPlace p 0x1200) 8 0x0001000000000000).writeClean (ctlPlace p 0x1208) 8 htab.toNat).writeClean
      (ctlPlace p 0x1210) 8 slots.toNat).writeClean (ctlPlace p 0x1218) 8 ctab.toNat)

/-- A spring without what it holds for a partition. -/
def Spring.without (g : Spring) (p : Nat) : Spring :=
  { g with
    tlb := g.tlb.filter fun t => t.part != p
    walk := g.walk.filter fun w => w.part != p
    reqs := g.reqs.filter fun r => r.part != p
    kept := g.kept.filter fun r => r.part != p
    held := g.held.filter fun h => h.part != p
    moving := g.moving.filter fun m => m.part != p }
/-- `PARTITION_DESTRUCTION` (R382): its launches end, its key is destroyed, what it owned is free. -/
def execPartitionDestruction (p : Nat) (s : State) : Host.Outcome State Fault Refusal :=
  if !(s.part p).live then .next s
  else
    let s1 : State := (s.launches.filter fun l => l.part == p).foldl (fun st l => if l.state == .accepted then st else st.stopLaunch l) s
    let s2 : State := (s1.part p).chans.foldl State.channelNoise s1
    let s3 := { s2 with
      launches := s2.launches.filter fun l => l.part != p
      l1 := s2.l1.filter fun e => (s2.core e.1).task.part != p
      l2 := s2.l2.filter fun x => x.part != p
      flights := s2.flights.filter fun w => w.part != p
      tags := s2.tags.filter fun t => t.tarn || t.part != p
      packets := s2.packets.filter fun x => x.part != p
      colls := s2.colls.filter fun x => x.issuer.part != p
      arrivals := s2.arrivals.filter fun a => a.part != p
      springs := s2.springs.map fun (e : Nat × Spring) => (e.1, e.2.without p) }
    .next (s3.modPart p fun y => { Part.reset with ownGen := y.ownGen + 1 })

end Sys2Proof.Machine
end

