-- ==== Sys2Proof/Machine/BringUp.lean ====
section
/-!
DEFINITION. Bringing up a window (R350-R353, R373-R377): clocks, the states of a chiplet, spare sites, network select; the root of
trust's boot (R380).
-/
namespace Sys2Proof.Machine

/-! ## The window and its neighbours (R350) -/

/-- A chiplet lies in a rectangle of chiplets. -/
def inWindowRect (r : Nat × Nat × Nat × Nat) (n : Nat) : Bool :=
  decide (r.1 ≤ n % 20) && decide (n % 20 < r.1 + r.2.2.1) && decide (r.2.1 ≤ n / 20) && decide (n / 20 < r.2.1 + r.2.2.2)
/-- A chiplet is of the window. -/
def State.inWin (s : State) (n : Nat) : Bool :=
  match s.dev.window with
  | some r => inWindowRect r n
  | none => false
/-- The chiplets of the window. -/
def State.windowChips (s : State) : List Nat := (List.range Config.numChips).filter s.inWin
/-- The neighbours of a chiplet inside the window, each by the direction it lies in: 0 W, 1 N, 2 E, 3 S. -/
def State.neighbours (s : State) (n : Nat) : List (Nat × Nat) :=
  let x := n % 20
  let l := (if x = 0 then [] else [(0, n - 1)]) ++ (if n < 20 then [] else [(1, n - 20)]) ++ (if x = 19 then [] else [(2, n + 1)]) ++ [(3, n + 20)]
  l.filter fun e => s.inWin e.2
/-- The direction from which a chiplet in a direction is seen. -/
def facing (d : Nat) : Nat := (d + 2) % 4

/-! ## Sites (R375) -/

/-- A site of a row is dead. -/
def State.siteDead (s : State) (row site : Nat) : Bool := Config.waferDead.contains (row, site) || s.dev.deadSites.contains (row, site)
/-- Dead sites of a row. -/
def State.deadCount (s : State) (row : Nat) : Nat := ((List.range 21).filter (s.siteDead row)).length

/-! ## Fencing (R374) -/

/-- A chiplet FENCED with the reason its record gives, unless it is DARK; a logical column of the window that its row has no site for is
fenced all the same (R350, R375). One that had not reached TRAINED makes its site a dead one, if its own check and not its row fenced it
(log entry 50). -/
def State.fence (s : State) (n reason : Nat) : State :=
  let h := s.chip n
  if (h.state = 0 && ((siteOf n).isSome || !s.inWin n)) || h.state = 7 || decide (n ≥ Config.numChips) then s
  else
    let early := decide (h.state.toNat < 4)
    let s1 := s.modChip n fun h => { h with state := 7, fail := reason, since := s.fabric, cut := early }
    let s2 := match siteOf n with
      | some i => if early && reason != 10 then { s1 with dev := { s1.dev with deadSites := s1.dev.deadSites ++ [(n / 20, i)] } } else s1
      | none => s1
    s2.loseChip n
/-- A row with two or more dead sites is degraded: reported, its last logical columns fenced (R375). -/
def State.degrade (s : State) (row : Nat) : State :=
  let d := s.deadCount row
  if d < 2 then s
  else
    let s1 := { s with dev := { s.dev with degradedRows := insertNat s.dev.degradedRows row } }
    (List.range (Nat.min 20 (d - 1))).foldl (fun st i => st.fence (20 * row + 19 - i) 10) s1
/-- A chiplet fenced, with what that makes of its row. -/
def State.fenceAndRow (s : State) (n reason : Nat) : State := (s.fence n reason).degrade (n / 20)

/-! ## Clocks (R350, R351) -/

/-- `EDGE_SOURCE_START` (R350): the controller starts an edge source for a window, which the first start names: a rectangle whose offset
is a multiple of its size in each axis (log entry 50). With no accepted firmware the device stays DARK (R380). -/
def execEdgeSourceStart (src x y w h : Nat) (s : State) : Host.Outcome State Fault Refusal :=
  let r := (x, y, w, h)
  let ok := s.dev.firmware && decide (src < 32) && decide (0 < w) && decide (0 < h) && decide (x + w ≤ 20) && decide (y + h ≤ 16) && x % w == 0 && y % h == 0 &&
    !s.dev.started.contains src && (match s.dev.window with
      | some q => q == r
      | none => true)
  if !ok then .next s
  else
    let row := src % 16
    let chip := 20 * row + if src < 16 then x else x + w - 1
    let fresh := s.dev.window.isNone
    let clocks := if inWindowRect r chip
      then s.dev.clocks ++ [{ chip := chip, dir := if src < 16 then 0 else 2, src := BitVec.ofNat 8 src, at_ := s.fabric }] else s.dev.clocks
    let s1 := { s with dev := { s.dev with window := some r, started := insertNat s.dev.started src, clocks := clocks } }
    .next (if fresh then (List.range h).foldl (fun st j => st.degrade (y + j)) s1 else s1)

/-- One clock reaches a chiplet ahead of another (R351). -/
def Clock.before (a b : Clock) : Bool :=
  decide (a.at_ < b.at_) || (a.at_ == b.at_ && (decide (a.src.toNat < b.src.toNat) || (a.src == b.src && decide (a.dir.toNat < b.dir.toNat))))
/-- The clock a chiplet locks to. -/
def firstClock : List Clock → Option Clock
  | [] => none
  | c :: rest => match firstClock rest with
    | some d => if d.before c then some d else some c
    | none => some c
/-- Links between two chiplets. -/
def chipGap (a b : Nat) : Nat := (a % 20 - b % 20) + (b % 20 - a % 20) + (a / 20 - b / 20) + (b / 20 - a / 20)
/-- A clock has locked a chiplet, whatever its state is now. -/
def Chip.clocked (h : Chip) : Bool := h.state != 0 && h.src != 0xFF
/-- A clock that another chiplet has still to lock to, or to present, can reach a chiplet at or before a cycle (R351). -/
def State.clockComing (s : State) (n at_ : Nat) : Bool :=
  s.windowChips.any fun m =>
    let h := s.chip m
    let far := 4096 * chipGap m n
    m != n && ((h.clocked && !h.presented && decide (h.locked + far ≤ at_)) ||
      (h.state == 0 && s.dev.clocks.any fun c => c.chip == m && decide (c.at_ + far ≤ at_)))
/-- `CLOCK_ARRIVAL` (R351, R374, R375), once the fabric cycle in which the first clock reaches a DARK chiplet of the window is over: where
that clock is valid, which is left open (log entry 50), the chiplet locks to it, and is fenced at once if its row has turned out to lack its
column. One that the controller has left DARK when it wrote `NSEL` stays so (R353, R374). -/
def execClockArrival (chip : Nat) (s : State) : Host.Outcome State Fault Refusal :=
  match firstClock (s.dev.clocks.filter fun c => c.chip == chip && decide (c.at_ < s.fabric)) with
  | none => .next s
  | some c =>
    if (s.chip chip).state != 0 || !s.inWin chip || s.clockComing chip c.at_ || s.dev.routed || s.dev.degraded then .next s
    else if Config.clockValid s.stepNo
    then .next ((State.modChip { s with dev := { s.dev with clocks := s.dev.clocks.filter fun x => x.chip != chip } } chip fun h =>
      { h with state := 1, src := c.src, dir := c.dir, since := c.at_, locked := c.at_ }).degrade (chip / 20))
    else .next { s with dev := { s.dev with clocks := dropFirst (fun x => x == c) s.dev.clocks } }
/-- `CLOCK_FORWARD` (R351): 4096 fabric cycles after it locked, a chiplet presents its clock to its neighbours in the window. -/
def execClockForward (chip : Nat) (s : State) : Host.Outcome State Fault Refusal :=
  let h := s.chip chip
  if !h.clocked || h.presented || s.fabric < h.locked + 4096 then .next s
  else
    let out := (s.neighbours chip).map fun e =>
      ({ chip := e.2, dir := BitVec.ofNat 2 (facing e.1), src := h.src, at_ := h.locked + 4096 } : Clock)
    .next (State.modChip { s with dev := { s.dev with clocks := s.dev.clocks ++ out.filter fun c => (s.chip c.chip).state == 0 } } chip
      fun h => { h with presented := true })

/-! ## The states of a chiplet (R374) -/

/-- A chiplet moved on to a state. -/
def State.enter (s : State) (n : Nat) (st : BitVec 3) : State := s.modChip n fun h => { h with state := st, since := s.fabric }
/-- A window chiplet left DARK (R353): every neighbour of it has presented its clock, and none has locked it or waits for it. A chiplet
FENCED for want of a site never has a clock and is passed over (log entry 50). -/
def State.leftDark (s : State) (n : Nat) : Bool :=
  s.inWin n && (s.chip n).state == 0 && !(s.neighbours n).isEmpty && !(s.dev.clocks.any fun c => c.chip == n) &&
    (s.neighbours n).all fun e => (s.chip e.2).presented || ((s.chip e.2).state == 7 && (s.chip e.2).src == 0xFF)
/-- A chiplet is passed over as a neighbour: FENCED or left DARK. -/
def State.passedOver (s : State) (n : Nat) : Bool := (s.chip n).state == 7 || s.leftDark n

/-- A chiplet is in a state and has not exceeded the state's limit of 2^20 fabric cycles, beyond which it can only be fenced (R374). -/
def State.standsIn (s : State) (n : Nat) (st : BitVec 3) : Bool := (s.chip n).state == st && decide (s.fabric ≤ (s.chip n).since + 2 ^ 20)
/-- `CONFIGURED` (R374): the configuration image's digest is the one the root of trust signed, or the chiplet is fenced (FAIL 9). -/
def execConfigured (chip : Nat) (image digest : List Byte) (s : State) : Host.Outcome State Fault Refusal :=
  if !s.standsIn chip 1 then .next s
  else .next (if Config.digest image = digest then s.enter chip 2 else s.fenceAndRow chip 9)
/-- `TESTED` (R374): the self-test passes, or the chiplet is fenced (FAIL 8). -/
def execTested (chip : Nat) (ok : Bool) (s : State) : Host.Outcome State Fault Refusal :=
  if !s.standsIn chip 2 then .next s else .next (if ok then s.enter chip 3 else s.fenceAndRow chip 8)
/-- DEAD of one edge of a chiplet (R376). -/
def deadEdge (d : BitVec 16) (e : Nat) : Nat := bits d.toNat (4 * e) 4
/-- `TRAINED` (R352, R374): every data bond to a window neighbour that is at least TESTED, and not FENCED, has trained, or is recorded dead
on both ends; `dead` is what training found. -/
def execTrained (chip : Nat) (dead : BitVec 16) (s : State) : Host.Outcome State Fault Refusal :=
  if !s.standsIn chip 3 then .next s
  else
    let ends := (s.neighbours chip).filter fun e => decide (3 ≤ (s.chip e.2).state.toNat) && (s.chip e.2).state != 7
    let s1 := ends.foldl (fun st e =>
      let f := deadEdge dead e.1
      (st.modChip chip fun h => { h with dead := h.dead ||| BitVec.ofNat 16 (f * 2 ^ (4 * e.1)) }).modChip e.2 fun h =>
        { h with dead := h.dead ||| BitVec.ofNat 16 (f * 2 ^ (4 * facing e.1)) }) s
    .next (s1.enter chip 4)
/-- `FORWARDING` (R353, R374): the controller releases a trained chiplet after the last `NSEL` write. -/
def execForwarding (chip : Nat) (s : State) : Host.Outcome State Fault Refusal :=
  .next (if s.standsIn chip 4 && s.dev.routed && !s.dev.degraded then s.enter chip 5 else s)
/-- `READY` (R374). -/
def execReady (chip : Nat) (s : State) : Host.Outcome State Fault Refusal :=
  let go := (s.neighbours chip).all fun e => s.passedOver e.2 || decide (5 ≤ (s.chip e.2).state.toNat)
  .next (if s.standsIn chip 5 && go then s.enter chip 6 else s)
/-- `STATE_LIMIT_EXPIRY` (R374): more than 2^20 fabric cycles in a state that has a limit. -/
def execStateLimitExpiry (chip : Nat) (s : State) : Host.Outcome State Fault Refusal :=
  let h := s.chip chip
  .next (if h.state != 0 && h.state != 6 && h.state != 7 && decide (h.since + 2 ^ 20 < s.fabric) then s.fenceAndRow chip h.state.toNat else s)
/-- `FENCED` (R374, R376): the controller fences a chiplet; the reason is a degraded row (10) or its command (11). -/
def execFenced (chip reason : Nat) (s : State) : Host.Outcome State Fault Refusal :=
  .next (s.fenceAndRow chip (if reason = 10 then 10 else 11))

/-! ## Network select (R353) -/

/-- The steps of a path along a row from a column to another, then none: chiplet and direction. -/
def alongRow (y x : Nat) : Nat → Nat → List (Nat × Nat)
  | 0, _ => []
  | fuel + 1, dest =>
    if x = dest then []
    else if x < dest then (20 * y + x, 2) :: alongRow y (x + 1) fuel dest else (20 * y + x, 0) :: alongRow y (x - 1) fuel dest
/-- The steps of a path along a column. -/
def alongColumn (x y : Nat) : Nat → Nat → List (Nat × Nat)
  | 0, _ => []
  | fuel + 1, dest =>
    if y = dest then []
    else if y < dest then (20 * y + x, 3) :: alongColumn x (y + 1) fuel dest else (20 * y + x, 1) :: alongColumn x (y - 1) fuel dest
/-- The XY path from a chiplet to another. -/
def pathXy (a b : Nat) : List (Nat × Nat) := alongRow (a / 20) (a % 20) 20 (b % 20) ++ alongColumn (b % 20) (a / 20) 16 (b / 20)
/-- The YX path. -/
def pathYx (a b : Nat) : List (Nat × Nat) := alongColumn (a % 20) (a / 20) 16 (b / 20) ++ alongRow (b / 20) (a % 20) 20 (b % 20)
/-- A chiplet all of whose bonds count as dead (R353, R374). -/
def State.cutOff (s : State) (n : Nat) : Bool := (s.chip n).cut || s.leftDark n
/-- The chiplet one step in a direction. -/
def stepTo (n d : Nat) : Nat := if d = 0 then n - 1 else if d = 1 then n - 20 else if d = 2 then n + 1 else n + 20
/-- A bond of a plane is dead: plane 0 cached XY, 1 cached YX, 2 message XY, 3 message YX. -/
def State.bondDead (s : State) (n d plane : Nat) : Bool :=
  s.cutOff n || s.cutOff (stepTo n d) || (deadEdge (s.chip n).dead d).testBit plane || (deadEdge (s.chip (stepTo n d)).dead (facing d)).testBit plane
/-- A path crosses a dead bond of a plane. -/
def State.blocked (s : State) (path : List (Nat × Nat)) (plane : Nat) : Bool := path.any fun e => s.bondDead e.1 e.2 plane
/-- The select bit of a pair on a network (0 cached, 1 message), or nothing where both paths are blocked. -/
def State.select (s : State) (net a b : Nat) : Option Bool :=
  let xy := s.blocked (pathXy a b) (2 * net)
  let yx := s.blocked (pathYx a b) (2 * net + 1)
  if xy && yx then none else some (xy && !yx)
/-- The chiplets that have routes: those of the window that are not cut off. -/
def State.routedChips (s : State) : List Nat := s.windowChips.filter fun n => !s.cutOff n
/-- The `NSEL` bits of a chiplet on a network. -/
def State.nselOf (s : State) (net a : Nat) (l : List Nat) : BitVec 320 :=
  BitVec.ofNat 320 (l.foldl (fun m b => if s.select net a b = some true then m ||| 2 ^ b else m) 0)
/-- `NSEL_WRITE` (R353): with every chiplet of the window in TRAINED that is neither FENCED nor left DARK, the controller writes every
`NSEL`, or reports the window degraded. -/
def execNselWrite (s : State) : Host.Outcome State Fault Refusal :=
  let l := s.routedChips
  let due := s.dev.window.isSome && !s.dev.routed && !s.dev.degraded && s.windowChips.all fun n => s.passedOver n || (s.chip n).state == 4
  if !due then .next s
  else if l.any (fun a => l.any fun b => (s.select 0 a b).isNone || (s.select 1 a b).isNone)
  then .next { s with dev := { s.dev with degraded := true } }
  else
    let s1 := l.foldl (fun st a => st.modChip a fun h => { h with nselCached := s.nselOf 0 a l, nselMessage := s.nselOf 1 a l }) s
    .next { s1 with dev := { s1.dev with routed := true } }

/-! ## The root of trust (R380) -/

/-- The measurement extended by a digest. -/
def measured (m : BitVec 512) (d : List Byte) : BitVec 512 := Config.shake256 (natBytes 64 m.toNat ++ d)
/-- `ROOT_OF_TRUST_BOOT` (R380): each image with its signature. Where one fails, nothing runs and the device stays DARK. -/
def execRootOfTrustBoot (images : List (List Byte × List Byte)) (s : State) : Host.Outcome State Fault Refusal :=
  if s.dev.booted then .next s
  else
    let good := images.all fun i => Config.falconVerify i.2 (Config.digest i.1)
    let m := images.foldl (fun m i => measured m (Config.digest i.1)) s.dev.measure
    .next { s with dev := { s.dev with booted := true, firmware := good && !images.isEmpty, measure := m } }

end Sys2Proof.Machine
end

