-- ==== Sys2Proof/Machine/HostPort.lean ====
section
/-!
DEFINITION. The virtual functions: their registers (R367, R381), doorbells and answers, the writing of events (R368), the attestation
report (R381); what the physical function reads (R376, R383).
-/
namespace Sys2Proof.Machine

/-- A virtual function that serves a partition whose selective stream is keyed; any other takes configuration requests only (R367,
R378). -/
def State.vfLive (s : State) (v : Nat) : Bool := decide (v < 32) && (s.part v).live && (s.part v).keyed
/-- A VF's registers changed. -/
def State.modVf (s : State) (v : Nat) (f : Vf → Vf) : State := s.modPart v fun p => { p with vf := f p.vf }

/-! ## Doorbells and answers -/

/-- The effect of a doorbell (R360, R367): the window's record is queued, and the register reads what was given. -/
def State.ring (s : State) (v q : Nat) : State :=
  if !(s.vfLive v && decide (q < 8)) then s
  else
    let r := s.queueRecord v q ((s.part v).vf.windows.toArray.getD q (Vector.replicate 8 0)) none
    r.1.modQueue v q fun l => { l with given := r.2 }
/-- `DOORBELL` (R367). -/
def execDoorbell (v q : Nat) (s : State) : Host.Outcome State Fault Refusal := .next (s.ring v q)
/-- `VF_ANSWER` (R329, R367): a write of 0x088 delivers the answer whose dword 0 stands at 0x080. -/
def execVfAnswer (v : Nat) (data : Word) (s : State) : Host.Outcome State Fault Refusal :=
  .next (if s.vfLive v then s.deliver v (s.part v).vf.answer data else s)

/-! ## The other registers (R367) -/

/-- The requests of a partition that springs keep because its fault queue was full, written as far as there is room (R328). -/
def State.writeKept (s : State) (p : Nat) : State :=
  (s.part p).springs.foldl (fun st n =>
    let mine := (st.spring n).kept.filter fun r => r.part == p
    mine.foldl State.writeFault (st.modSpring n fun g => { g with kept := g.kept.filter fun r => r.part != p })) s
/-- A list of bytes with 8 replaced from a position on. -/
def setBytes (l : List Byte) (off : Nat) (d : Word) : List Byte :=
  (List.range l.length).map fun i =>
    if off ≤ i && i < off + 8 then BitVec.ofNat 8 (d.toNat / 2 ^ (8 * (i - off))) else (l.toArray.getD i 0)
/-- A queue's log2 of entries: values outside 4 to 16 leave the register as it is. -/
def logOf (old d : Word) : Word := if 4 ≤ d.toNat && d.toNat ≤ 16 then d else old
/-- The nonce's last doubleword written (R381): a report is asked for. -/
def Vf.ask (x : Vf) (d : Word) : Vf := { x with nonce := setBytes x.nonce 24 d, ready := false, asked := true }
/-- A write of a register without a row of its own; any other offset ignores it. -/
def Vf.write (x : Vf) (off : Nat) (d : Word) : Vf :=
  let q := (off - 0x200) / 64
  let i := off % 64 / 8
  if off % 8 ≠ 0 then x
  else match off with
    | 0x040 => { x with faultBase := d &&& ~~~0xFFF }
    | 0x048 => { x with faultLog := logOf x.faultLog d }
    | 0x058 => { x with faultCons := d.setWidth 32 }
    | 0x060 => { x with eventBase := d &&& ~~~0xFFF }
    | 0x068 => { x with eventLog := logOf x.eventLog d }
    | 0x078 => { x with eventCons := d.setWidth 32 }
    | 0x080 => { x with answer := d }
    | 0x100 | 0x108 | 0x110 => { x with nonce := setBytes x.nonce (off - 0x100) d }
    | 0x120 => { x with page := d.setWidth 3 }
    | _ => if 0x200 ≤ off && off < 0x400 then
        { x with windows := x.windows.setIfInBounds q ((x.windows.toArray.getD q (Vector.replicate 8 0)).setIfInBounds i d) }
      else x
/-- `REGISTER_WRITE` (R367): a write of the fault queue's consumer index or size can make room for requests that are kept (R328). A
doorbell, an answer and the nonce's last doubleword have rows of their own and come there. -/
def execRegisterWrite (v off : Nat) (data : Word) (s : State) : Host.Outcome State Fault Refusal :=
  if !s.vfLive v then .next s
  else
    let s1 := s.modVf v fun x => x.write off data
    .next (if off = 0x048 || off = 0x058 then s1.writeKept v else s1)

/-! ## Reads (R367, R376, R381, R383) -/

/-- Bytes as a number, little-endian. -/
def bytesNat (l : List Byte) : Nat := l.foldr (fun b n => b.toNat + 256 * n) 0
/-- A doubleword read from a VF's BAR 0. -/
def State.vfRead (s : State) (v off : Nat) : Word :=
  let p := s.part v
  let x := p.vf
  if !s.vfLive v || off % 8 ≠ 0 then 0
  else match off with
    | 0x040 => x.faultBase
    | 0x048 => x.faultLog
    | 0x050 => x.faultProd.setWidth 64
    | 0x058 => x.faultCons.setWidth 64
    | 0x060 => x.eventBase
    | 0x068 => x.eventLog
    | 0x070 => x.eventProd.setWidth 64
    | 0x078 => x.eventCons.setWidth 64
    | 0x120 => x.page.setWidth 64
    | 0x128 => if x.ready then w64 (2 ^ 63 + x.report.length % 2 ^ 16) else 0
    | _ =>
      if off < 0x040 then (p.queues.toArray.getD (off / 8) LaunchQueue.reset).given
      else if 0x400 ≤ off && off < 0x800 && x.ready then w64 (bytesNat ((x.report.drop (1024 * x.page.toNat + (off - 0x400))).take 8))
      else 0
/-- The bring-up record of a logical chiplet, which the physical function reads (R376): SITE is the site its row gives it (R375). -/
def Chip.record (h : Chip) (n : Nat) : Nat :=
  h.dead.toNat * 2 ^ 64 + h.fail % 2 ^ 32 * 2 ^ 32 + (siteOf n).getD 0 * 2 ^ 24 + h.src.toNat * 2 ^ 16 + h.dir.toNat * 2 ^ 8 + h.state.toNat
/-- A doubleword read from the physical function's BAR 2: bring-up records, and the count of blocked accesses (R376, R383). -/
def State.pfRead (s : State) (off : Nat) : Word :=
  if off < 0x1400 then w64 ((s.chip (off / 16)).record (off / 16) / 2 ^ (64 * (off % 16 / 8))) else if off = 0x1400 then s.dev.blocked else 0

/-! ## Events (R367, R368) -/

/-- The 32 bytes of an event (R368). -/
def Event.record (e : Event) : Nat :=
  e.time % 2 ^ 64 + 2 ^ 64 * (e.src % 2 ^ 20 * 2 ^ 44 + e.type % 2 ^ 8 * 2 ^ 36 + e.cause % 2 ^ 8 * 2 ^ 28) +
  2 ^ 128 * (e.queue % 2 ^ 3 * 2 ^ 61 + e.seq % 2 ^ 61) + 2 ^ 192 * e.val.toNat
/-- An event is written before another. -/
def Event.before (a b : Event) : Bool := decide (a.time < b.time) || (a.time == b.time && decide (a.src < b.src))
/-- The event written next. -/
def firstEvent : List Event → Option Event
  | [] => none
  | e :: rest => match firstEvent rest with
    | some f => if f.before e then some f else some e
    | none => some e
/-- The event queue has room; one that the host has not set up has none. -/
def Vf.eventRoom (v : Vf) : Bool :=
  decide (4 ≤ v.eventLog.toNat) && decide (inUse v.eventProd v.eventCons < 2 ^ (v.eventLog.toNat % 32))
/-- `EVENT_WRITE` (R367, R368): the earliest event, held for 2 µs, is written to its slot in host memory; then the producer index
advances, with a signal where the queue was seen empty. -/
def execEventWrite (p : Nat) (s : State) : Host.Outcome State Fault Refusal :=
  let v := (s.part p).vf
  match firstEvent (s.part p).events with
  | none => .next s
  | some e =>
    if s.gtime < e.time + 2000 || !v.eventRoom then .next s
    else
      let a := hostPlace (v.eventBase.toNat + 32 * (v.eventProd.toNat % 2 ^ (v.eventLog.toNat % 32)))
      let seen := v.eventProd == v.eventCons
      .next ((s.writeClean a 32 e.record).modPart p fun q =>
        { q with
          events := dropFirst (fun x => x == e) q.events
          vf := { q.vf with eventProd := q.vf.eventProd + 1, msix := if seen then q.vf.msix ||| 1 else q.vf.msix } })

/-! ## Attestation (R381) -/

/-- `ATTESTATION_REQUEST` (R381): the nonce's last doubleword is written. -/
def execAttestationRequest (v : Nat) (data : Word) (s : State) : Host.Outcome State Fault Refusal :=
  .next (if s.vfLive v then s.modVf v fun x => x.ask data else s)
/-- Bytes padded with zeros to a multiple of 8. -/
def pad8 (l : List Byte) : List Byte := l ++ List.replicate ((8 - l.length % 8) % 8) 0
/-- A map with a bit for each number of a list. -/
def bitMap (l : List Nat) : Nat := l.foldl (fun m i => m ||| 2 ^ i) 0
/-- The report of a partition, which describes it as it stands (R381). -/
def State.attest (s : State) (v : Nat) : List Byte :=
  let p := s.part v
  let cert := Config.certificate
  let head := p.vf.nonce ++ natBytes 64 s.dev.measure.toNat ++ natBytes 8 (v % 32) ++ natBytes 8 p.ownGen.toNat ++
    natBytes 8 (p.cachedShare % 2 ^ 9 + p.messageShare % 2 ^ 9 * 2 ^ 16) ++ natBytes 40 (bitMap p.chips) ++ natBytes 128 (bitMap p.chans) ++
    natBytes 8 (cert.length % 2 ^ 16)
  let body := pad8 (head ++ cert)
  let n := Config.sigLen s.stepNo % 1463
  let sig := Config.falconSign (Config.digest (body ++ natBytes 8 n)) s.stepNo
  body ++ natBytes 8 n ++ (sig ++ List.replicate n 0).take n
/-- `ATTESTATION_REPORT_READY` (R381). -/
def execAttestationReportReady (v : Nat) (s : State) : Host.Outcome State Fault Refusal :=
  .next (if s.vfLive v && (s.part v).vf.asked then s.modVf v fun x => { x with ready := true, asked := false, report := s.attest v } else s)

end Sys2Proof.Machine
end

