-- ==== Sys2Proof/Machine/Power.lean ====
section
/-!
DEFINITION. Energy periods (R349, R371), byte budgets (R370), clocks and temperature (R372), router shares (R365).
-/
namespace Sys2Proof.Machine

/-! ## Energy (R349, R371) -/

/-- `EQUOTA` at the start of a period: the grant plus what is overdrawn. -/
def refill (grant quota : BitVec 32) : BitVec 32 := if quota.slt 0 then grant + quota else grant
/-- A core's context refilled. -/
def Core.refillCore (k : Core) : Core :=
  if k.run == .running || k.run == .stopped then { k with csrs := { k.csrs with equota := refill k.task.grant k.csrs.equota } } else k
/-- A kept context's `EQUOTA` in its saved image (R346) refilled. -/
def State.refillSaved (s : State) (c : Nat) (k : Core) : State :=
  let p := sharePlace c 0x708C
  (s.onImage c k.gen fun st => (st.writeClean p 4 (refill k.task.grant (BitVec.ofNat 32 (st.bytes p 4))).toNat, ())).1
/-- `ENERGY_PERIOD_START` (R349, R371): at a multiple of 10^8 counts every context's `EQUOTA` is granted anew. -/
def execEnergyPeriodStart (s : State) : Host.Outcome State Fault Refusal :=
  let n := s.gtime / 100000000
  if n ≤ s.dev.period then .next s
  else
    let s1 : State := { s with dev := { s.dev with period := n }, cores := s.cores.map fun e => (e.1, e.2.refillCore) }
    .next (((s1.launches.map fun l => l.saved).flatten).foldl (fun st e => st.refillSaved e.1 e.2) s1)

/-! ## Byte budgets (R370) -/

/-- Bytes a spring moves in a microsecond under its activation cap. -/
def State.springBytes (s : State) (n : Nat) : Nat := Config.springRate n * (s.spring n).capNum / (s.spring n).capDen
/-- `BYTE_BUDGET_INTERVAL` (R370): once per microsecond of global time an arbiter grants each chiplet a byte budget; together they keep to
what the spring moves. -/
def execByteBudgetInterval (spring : Nat) (grants : List (Nat × Nat)) (s : State) : Host.Outcome State Fault Refusal :=
  let n := s.gtime / 1000
  let old := (find s.dev.intervals spring).getD 0
  let sum := grants.foldl (fun t e => t + e.2) 0
  if spring ≥ Config.numSprings || n ≤ old || decide (s.springBytes spring < sum) then .next s
  else .next (State.modSpring { s with dev := { s.dev with intervals := put s.dev.intervals spring n } } spring fun g =>
    { g with budgets := grants })

/-! ## Clocks and temperature (R372) -/

/-- A chiplet's clock set, its cores frozen for at most 2 µs: how long is free. -/
def State.setClock (s : State) (n mhz : Nat) : State :=
  s.modChip n fun h => { h with mhz := mhz, frozenUntil := s.fabric + Config.freeNat s.stepNo % 4001 }
/-- `CLOCK_CHANGE` (R372): from 0.7 to 1.4 GHz in steps of 50 MHz. -/
def execClockChange (chip mhz : Nat) (s : State) : Host.Outcome State Fault Refusal :=
  .next (if chip < Config.numChips ∧ 700 ≤ mhz ∧ mhz ≤ 1400 ∧ mhz % 50 = 0 then s.setClock chip mhz else s)
/-- A share scaled by a spring's factor. -/
def Spring.scaled (g : Spring) (share : Nat) : Nat := share * g.capNum / g.capDen
/-- `SPRING_THERMAL_LIMIT` (R372): the spring's activations are capped to `num / den` of its throughput; every partition's share of it
falls by that factor, and each partition is told its new share. -/
def execSpringThermalLimit (spring num den : Nat) (s : State) : Host.Outcome State Fault Refusal :=
  if spring ≥ Config.numSprings || num = 0 || decide (den < num) then .next s
  else
    let s1 := s.modSpring spring fun g => { g with hot := true, capNum := num, capDen := den }
    .next (s1.parts.foldl (fun st e => match find e.2.springShares spring with
      | some sh => if e.2.live then st.post e.1 (0xFFF00 + spring) 8 0 0 0 (w64 ((s1.spring spring).scaled sh)) else st
      | none => st) s1)
/-- The core an event about a chiplet names: one of its cores, which one is left open. -/
def chipSrc (chip free : Nat) : Nat := coreAt (chip % 20 * 64 + free % 64) (chip / 20 * 32 + free / 64 % 32)
/-- `CHIPLET_THERMAL_LIMIT` (R372): a step down in frequency, and an event of type 0x07 whose VAL and exact source the spec leaves
open. -/
def execChipletThermalLimit (chip : Nat) (s : State) : Host.Outcome State Fault Refusal :=
  if chip ≥ Config.numChips then .next s else
  let s1 := s.setClock chip (Nat.max 700 ((s.chip chip).mhz - 50))
  .next (s1.parts.foldl (fun st e =>
    if e.2.live && e.2.chips.contains chip
    then st.post e.1 (chipSrc chip (Config.freeNat (1024 * s.stepNo + 1))) 7 0 0 0 (w64 (Config.freeNat (1024 * s.stepNo + 2))) else st) s1)

/-! ## Router shares (R365) -/

/-- `TOKEN_BUCKET_REFILL` (R365, R372): every 256 fabric cycles each partition's bucket of a port gains its share on each network, up to
64 flits; of several periods that have passed, one share each. -/
def execTokenBucketRefill (port : Nat) (s : State) : Host.Outcome State Fault Refusal :=
  let last := (find s.dev.refills port).getD 0
  if s.fabric < last + 256 then .next s
  else
    let g := s.spring (Config.portSpring port)
    let gain (t : List (Nat × Nat)) (key share : Nat) : List (Nat × Nat) :=
      put t key (Nat.min 64 ((find t key).getD 0 + (s.fabric - last) / 256 * g.scaled share))
    let tokens := s.parts.foldl (fun t e =>
      if e.2.live then gain (gain t (64 * port + 2 * e.1) e.2.cachedShare) (64 * port + 2 * e.1 + 1) e.2.messageShare else t) s.dev.tokens
    .next { s with dev := { s.dev with tokens := tokens, refills := put s.dev.refills port (last + 256 * ((s.fabric - last) / 256)) } }

end Sys2Proof.Machine
end

