-- ==== Sys2Proof/Machine/Links.lean ====
section
/-!
DEFINITION. Link training and keys (R378, R379): the host port, the selective streams, the scale-out ports and the keys of linked
partitions.
-/
namespace Sys2Proof.Machine

/-- The decoders the host may program (R161): one for each partition at most, base and size multiples of 256 MiB, their ranges apart. -/
def decodersOk (l : List (Nat × Nat × Nat)) : Bool :=
  let n := 2 ^ 28
  (l.all fun d => decide (d.1 < 32) && d.2.1 % n == 0 && d.2.2 % n == 0) &&
  (List.range l.length).all fun i => (List.range i).all fun j =>
    match nth l i, nth l j with
    | some a, some b => a.1 != b.1 && (decide (a.2.1 + a.2.2 ≤ b.2.1) || decide (b.2.1 + b.2.2 ≤ a.2.1))
    | _, _ => true
/-- `HOST_LINK_TRAINING` (R161, R378): x16, x8 or x4 at 64 or 32 GT/s; no other width or speed; `link` is lanes and speed. Over the trained link the host programs the
HDM decoders: partition, base, size (DESIGN CHOICE: log entry 84). -/
def execHostLinkTraining (link : Nat × Nat) (decoders : List (Nat × Nat × Nat)) (s : State) : Host.Outcome State Fault Refusal :=
  let lanes := link.1
  let speed := link.2
  let ok := (lanes == 16 || lanes == 8 || lanes == 4) && (speed == 64 || speed == 32) && decodersOk decoders
  .next (if ok then { s with dev := { s.dev with hostLanes := lanes, hostSpeed := speed, decoders := decoders } } else s)
/-- `IDE_KEYING` (R378): a session over the trained link sets the key of a partition's selective stream, or of the link stream, which the
number 32 names. -/
def execIdeKeying (p : Nat) (s : State) : Host.Outcome State Fault Refusal :=
  .next (if s.dev.hostLanes = 0 then s
    else if p = 32 then { s with dev := { s.dev with linkKey := some (Config.ideKey none s.stepNo) } }
    else if (s.part p).live then s.modPart p fun x => { x with ideKey := some (Config.ideKey (some p) s.stepNo) } else s)

/-- A scale-out port (R379): the device has 32. -/
def State.port (s : State) (n : Nat) : Port := (find s.dev.ports n).getD Port.reset
/-- A scale-out port changed. -/
def State.modPort (s : State) (n : Nat) (f : Port → Port) : State := { s with dev := { s.dev with ports := put s.dev.ports n (f (s.port n)) } }
/-- `SCALE_OUT_TRAINING` (R379): training or retraining ends with the lanes that are left; it takes 4 of the 8. -/
def execScaleOutTraining (port lanes : Nat) (s : State) : Host.Outcome State Fault Refusal :=
  if port ≥ 32 then .next s
  else .next (s.modPort port fun p =>
    if 4 ≤ lanes ∧ lanes ≤ 8 then { lanes := lanes, trained := true, lost := false, lostAt := none }
    else { p with lanes := 0, trained := false, lostAt := p.lostAt.or (if p.trained then some s.fabric else none) })
/-- `LINK_LOST` (R275, R379): a port that has not retrained within 1 ms (2,000,000 fabric cycles) of losing lock is lost, which ends the
collectives whose instances use it; `users` names them. -/
def execLinkLost (port : Nat) (users : List Nat) (s : State) : Host.Outcome State Fault Refusal :=
  match (s.port port).lostAt with
  | none => .next s
  | some t =>
    if (s.port port).trained || s.fabric < t + 2000000 then .next s
    else .next (users.foldl (fun st id => match st.coll id with
      | some x => if x.active then st.failColl x .cancelled else st
      | none => st) (s.modPort port fun p => { p with lost := true }))
/-- `PAIR_KEY_AGREEMENT` (R379): the key of this partition with a linked one, agreed for the first time or anew. -/
def execPairKeyAgreement (p peer : Nat) (s : State) : Host.Outcome State Fault Refusal :=
  .next (if (s.part p).live && (s.part p).peers.any (fun e => e.num == peer && !e.own)
    then s.modPart p fun x => { x with linkKeys := put x.linkKeys peer (Config.pairKey p peer s.stepNo, 0) } else s)
/-- `FLIT_TAG_FAILURE` (R379): a flit whose tag fails is dropped, and the port has to retrain. -/
def execFlitTagFailure (port : Nat) (s : State) : Host.Outcome State Fault Refusal :=
  .next (s.modPort port fun p => if p.trained then { p with trained := false, lostAt := some s.fabric } else p)

end Sys2Proof.Machine
end

