-- ==== Sys2Proof/Machine/Scalar.lean ====
section
/-!
DEFINITION. The scalar instructions of opcodes 0x01 to 0x24 and `nop`: integer arithmetic, shifts, bit fields, literals, compares,
selection, guard logic and fat pointers (R85-R95, R114).
-/
namespace Sys2Proof.Machine

/-! ## Values (R86-R90) -/

/-- The 32-bit result of a `.w` form, sign-extended (R85). -/
def sext32 (x : Word) : Word := (x.setWidth 32).signExtend 64
/-- `add`, `add.w`. -/
def addOp (w : Bool) (a b : Word) : Word := if w then sext32 (a + b) else a + b
/-- `sub`, `sub.w`. -/
def subOp (w : Bool) (a b : Word) : Word := if w then sext32 (a - b) else a - b
/-- `mul`, `mul.w`, `mul.hi`, `mul.hin`. -/
def mulOp (f : BitVec 2) (a b : Word) : Word :=
  match f.toNat with
  | 0 => a * b
  | 1 => sext32 (a * b)
  | 2 => ((a.signExtend 128 * b.signExtend 128) >>> 64).setWidth 64
  | _ => ((a.setWidth 128 * b.setWidth 128) >>> 64).setWidth 64
/-- An operand of a division: `n` unsigned, `w` bits. -/
def divArg (n : Bool) (w : Nat) (x : Word) : Int := if n then ((x.toNat % 2 ^ w : Nat) : Int) else signed w x.toNat
/-- A result of `w` bits, sign-extended to 64 (R85, R87). -/
def divOut (w : Nat) (v : Nat) : Word := if w = 32 then sext32 (w64 v) else w64 v
/-- `div` and its forms (R87). -/
def divOp (f : BitVec 2) (a b : Word) : Word :=
  let w := if f.getLsbD 1 then 32 else 64
  let y := divArg (f.getLsbD 0) w b
  divOut w (if y = 0 then 2 ^ w - 1 else wrapInt w (Int.tdiv (divArg (f.getLsbD 0) w a) y))
/-- `rem` and its forms (R87). -/
def remOp (f : BitVec 2) (a b : Word) : Word :=
  let w := if f.getLsbD 1 then 32 else 64
  let y := divArg (f.getLsbD 0) w b
  divOut w (if y = 0 then a.toNat % 2 ^ w else wrapInt w (Int.tmod (divArg (f.getLsbD 0) w a) y))
/-- `shl` by an amount below its width. -/
def shlOp (w : Bool) (a b : Word) : Word := if w then sext32 (a <<< (b.toNat % 32)) else a <<< (b.toNat % 64)
/-- `shr`. -/
def shrOp (w : Bool) (a b : Word) : Word :=
  if w then ((a.setWidth 32) >>> (b.toNat % 32)).signExtend 64 else a >>> (b.toNat % 64)
/-- `sra`. -/
def sraOp (w : Bool) (a b : Word) : Word :=
  if w then ((a.setWidth 32).sshiftRight (b.toNat % 32)).signExtend 64 else a.sshiftRight (b.toNat % 64)
/-- `rot`. -/
def rotOp (w : Bool) (a b : Word) : Word :=
  if w then ((a.setWidth 32).rotateRight (b.toNat % 32)).signExtend 64 else a.rotateRight (b.toNat % 64)
/-- `min`, `min.n`. -/
def minOp (n : Bool) (a b : Word) : Word := if (if n then b.ult a else b.slt a) then b else a
/-- `max`, `max.n`. -/
def maxOp (n : Bool) (a b : Word) : Word := if (if n then a.ult b else a.slt b) then b else a

/-- Leading zeros among the low `n` bits. -/
def clz (a : Word) : Nat → Nat
  | 0 => 0
  | n + 1 => if a.getLsbD n then 0 else 1 + clz a n
/-- Trailing zeros of `n` bits from bit `i`. -/
def ctz (a : Word) (i : Nat) : Nat → Nat
  | 0 => 0
  | n + 1 => if a.getLsbD i then 0 else 1 + ctz a (i + 1) n
/-- The 64 bits reversed. -/
def bitRev (a : Word) : Word := w64 ((List.range 64).foldl (fun r i => if a.getLsbD i then r + 2 ^ (63 - i) else r) 0)
/-- `bcnt.clz`, `.ctz`, `.popc`, `.brev` (R89). -/
def bcntOp (f : BitVec 2) (a : Word) : Word :=
  match f.toNat with
  | 0 => w64 (clz a 64)
  | 1 => w64 (ctz a 0 64)
  | 2 => w64 (popCount 64 a.toNat)
  | _ => bitRev a

/-- The low bit of a field specification (R89). -/
def fieldLo (b : Word) : Nat := bits b.toNat 0 6
/-- The length of a field specification, 0 standing for 64 (R89). -/
def fieldLen (b : Word) : Nat := if bits b.toNat 6 6 = 0 then 64 else bits b.toNat 6 6
/-- `bfx`, `bfx.n` (R89). -/
def bfxOp (n : Bool) (a b : Word) : Word :=
  let f := bits a.toNat (fieldLo b) (fieldLen b)
  if n then w64 f else BitVec.ofInt 64 (signed (fieldLen b) f)
/-- `bfi` (R89). -/
def bfiOp (d a b : Word) : Word :=
  let m : Word := w64 ((2 ^ fieldLen b - 1) * 2 ^ fieldLo b)
  (d &&& ~~~m) ||| ((a <<< fieldLo b) &&& m)

/-- `gop` (R69, R93). -/
def gopOp (f : BitVec 3) (a b : Bool) : Bool :=
  match f.toNat with
  | 0 => a && b
  | 1 => a || b
  | 2 => a != b
  | 3 => a && !b
  | 4 => a || !b
  | 5 => !(a && b)
  | 6 => !(a || b)
  | _ => a == b

/-- `ptag` (R94). -/
def ptagOp (t : BitVec 4) (b : BitVec 3) (a : Word) : Word :=
  (t.setWidth 64 <<< 60) ||| (b.setWidth 64 <<< 57) ||| (a &&& 0x01FFFFFFFFFFFFFF)

/-- Bytes that `e` elements span behind a pointer (R95), or the trap. -/
def padBytes (a : Word) (e : Int) : Except (Nat × Word) Int :=
  let t := ptrFmt a
  let blg := ptrBlg a
  let half : Int := elemBits t / 4
  if blg = 0 then
    if e * half % 2 ≠ 0 then .error (0x03, BitVec.ofInt 64 e) else .ok (e * half / 2)
  else if t = 11 then .error (0x07, a)
  else
    let n : Int := blockLen blg
    if e % n ≠ 0 then .error (0x03, BitVec.ofInt 64 e) else .ok (e / n * (2 + n * half / 2))

/-! ## Shapes of instructions -/

/-- Two sources, one destination; the poison bits are joined (R85). -/
def alu3 (d a b : SReg) (f : Word → Word → Word) : M Done := do
  let x ← rs a
  let y ← rs b
  ws d (f x.1 y.1) (x.2 || y.2)
  return next
/-- One source, one destination. -/
def alu2 (d a : SReg) (f : Word → Word) : M Done := do
  let x ← rs a
  ws d (f x.1) x.2
  return next
/-- A compare of a register with a second value (R91). -/
def compare (c h : BitVec 3) (a : SReg) (y : M (Word × Bool)) : M Done := do
  let x ← rs a
  let y ← y
  wg h (condInt c x.1 y.1) (x.2 || y.2)
  return next
/-- A fat pointer advanced by an element count (R95), its new address computed in 64 bits (log 12). -/
def advancePtr (d a : SReg) (count : M (Word × Bool)) : M Done := do
  let x ← rs a
  let y ← count
  match padBytes x.1 y.1.toInt with
  | .error (c, v) => trap c v
  | .ok delta => do
    let nva : Word := w64 (ptrVa x.1) + BitVec.ofInt 64 delta
    if nva.slt 0 || decide (nva.toNat ≥ 2 ^ 57) then trap 0x07 x.1
    ws d ((x.1 &&& 0xFE00000000000000) ||| nva) (x.2 || y.2)
    return next
/-- An immediate as a source value. -/
def imm (v : Word) : M (Word × Bool) := pure (v, false)

/-! ## Meanings -/

/-- `nop` (R114). -/
def execNop (s : State) : Host.Outcome State Fault Refusal := issue .nop (pure next) s
/-- `add`, `add.w` (R86). -/
def execAdd (g : Sel) (d a b : SReg) (w : Bool) (s : State) : Host.Outcome State Fault Refusal :=
  issue (.add g d a b w) (alu3 d a b (addOp w)) s
/-- `sub`, `sub.w` (R86). -/
def execSub (g : Sel) (d a b : SReg) (w : Bool) (s : State) : Host.Outcome State Fault Refusal :=
  issue (.sub g d a b w) (alu3 d a b (subOp w)) s
/-- `shl`, `shl.w` (R86). -/
def execShl (g : Sel) (d a b : SReg) (w : Bool) (s : State) : Host.Outcome State Fault Refusal :=
  issue (.shl g d a b w) (alu3 d a b (shlOp w)) s
/-- `shr`, `shr.w` (R86). -/
def execShr (g : Sel) (d a b : SReg) (w : Bool) (s : State) : Host.Outcome State Fault Refusal :=
  issue (.shr g d a b w) (alu3 d a b (shrOp w)) s
/-- `sra`, `sra.w` (R86). -/
def execSra (g : Sel) (d a b : SReg) (w : Bool) (s : State) : Host.Outcome State Fault Refusal :=
  issue (.sra g d a b w) (alu3 d a b (sraOp w)) s
/-- `rot`, `rot.w` (R86). -/
def execRot (g : Sel) (d a b : SReg) (w : Bool) (s : State) : Host.Outcome State Fault Refusal :=
  issue (.rot g d a b w) (alu3 d a b (rotOp w)) s
/-- `min`, `min.n` (R86). -/
def execMin (g : Sel) (d a b : SReg) (n : Bool) (s : State) : Host.Outcome State Fault Refusal :=
  issue (.min g d a b n) (alu3 d a b (minOp n)) s
/-- `max`, `max.n` (R86). -/
def execMax (g : Sel) (d a b : SReg) (n : Bool) (s : State) : Host.Outcome State Fault Refusal :=
  issue (.max g d a b n) (alu3 d a b (maxOp n)) s
/-- `mul` and its forms (R86). -/
def execMul (g : Sel) (d a b : SReg) (f : BitVec 2) (s : State) : Host.Outcome State Fault Refusal :=
  issue (.mul g d a b f) (alu3 d a b (mulOp f)) s
/-- `div` and its forms (R87). -/
def execDiv (g : Sel) (d a b : SReg) (f : BitVec 2) (s : State) : Host.Outcome State Fault Refusal :=
  issue (.div g d a b f) (alu3 d a b (divOp f)) s
/-- `rem` and its forms (R87). -/
def execRem (g : Sel) (d a b : SReg) (f : BitVec 2) (s : State) : Host.Outcome State Fault Refusal :=
  issue (.rem g d a b f) (alu3 d a b (remOp f)) s
/-- `and` (R86). -/
def execAnd (g : Sel) (d a b : SReg) (s : State) : Host.Outcome State Fault Refusal :=
  issue (.and g d a b) (alu3 d a b fun x y => x &&& y) s
/-- `or` (R86). -/
def execOr (g : Sel) (d a b : SReg) (s : State) : Host.Outcome State Fault Refusal :=
  issue (.or g d a b) (alu3 d a b fun x y => x ||| y) s
/-- `xor` (R86). -/
def execXor (g : Sel) (d a b : SReg) (s : State) : Host.Outcome State Fault Refusal :=
  issue (.xor g d a b) (alu3 d a b fun x y => x ^^^ y) s
/-- `andn` (R86). -/
def execAndn (g : Sel) (d a b : SReg) (s : State) : Host.Outcome State Fault Refusal :=
  issue (.andn g d a b) (alu3 d a b fun x y => x &&& ~~~y) s
/-- `cmp` (R91). -/
def execCmp (g : Sel) (c h : BitVec 3) (a b : SReg) (s : State) : Host.Outcome State Fault Refusal :=
  issue (.cmp g c h a b) (compare c h a (rs b)) s
/-- `sel` (R92). -/
def execSel (g : Sel) (d a b : SReg) (n : BitVec 3) (s : State) : Host.Outcome State Fault Refusal :=
  issue (.sel g d a b n) (do
    let x ← rs a
    let y ← rs b
    let r := (← getC).regs
    ws d (if r.guard n.toNat then x.1 else y.1) (x.2 || y.2 || r.guardPoison n.toNat)
    return next) s
/-- `bcnt` (R89). -/
def execBcnt (g : Sel) (d a : SReg) (f : BitVec 2) (s : State) : Host.Outcome State Fault Refusal :=
  issue (.bcnt g d a f) (alu2 d a (bcntOp f)) s
/-- `bfx`, `bfx.n` (R89). -/
def execBfx (g : Sel) (d a b : SReg) (n : Bool) (s : State) : Host.Outcome State Fault Refusal :=
  issue (.bfx g d a b n) (alu3 d a b (bfxOp n)) s
/-- `bfi` (R89): D is read first (R55). -/
def execBfi (g : Sel) (d a b : SReg) (s : State) : Host.Outcome State Fault Refusal :=
  issue (.bfi g d a b) (do
    let z ← rs d
    let x ← rs a
    let y ← rs b
    ws d (bfiOp z.1 x.1 y.1) (z.2 || x.2 || y.2)
    return next) s
/-- `gop` (R93). -/
def execGop (g : Sel) (d a b f : BitVec 3) (s : State) : Host.Outcome State Fault Refusal :=
  issue (.gop g d a b f) (do
    let r := (← getC).regs
    wg d (gopOp f (r.guard a.toNat) (r.guard b.toNat)) (r.guardPoison a.toNat || r.guardPoison b.toNat)
    return next) s
/-- `addi` (R88). -/
def execAddi (g : Sel) (d a : SReg) (i : BitVec 10) (s : State) : Host.Outcome State Fault Refusal :=
  issue (.addi g d a i) (alu2 d a fun x => x + sx i) s
/-- `andi` (R88). -/
def execAndi (g : Sel) (d a : SReg) (i : BitVec 10) (s : State) : Host.Outcome State Fault Refusal :=
  issue (.andi g d a i) (alu2 d a fun x => x &&& sx i) s
/-- `ori` (R88). -/
def execOri (g : Sel) (d a : SReg) (i : BitVec 10) (s : State) : Host.Outcome State Fault Refusal :=
  issue (.ori g d a i) (alu2 d a fun x => x ||| sx i) s
/-- `xori` (R88). -/
def execXori (g : Sel) (d a : SReg) (i : BitVec 10) (s : State) : Host.Outcome State Fault Refusal :=
  issue (.xori g d a i) (alu2 d a fun x => x ^^^ sx i) s
/-- `muli` (R88). -/
def execMuli (g : Sel) (d a : SReg) (i : BitVec 10) (s : State) : Host.Outcome State Fault Refusal :=
  issue (.muli g d a i) (alu2 d a fun x => x * sx i) s
/-- `shli` (R88). -/
def execShli (g : Sel) (d a : SReg) (w : Bool) (n : BitVec 6) (s : State) : Host.Outcome State Fault Refusal :=
  issue (.shli g d a w n) (alu2 d a fun x => shlOp w x (n.setWidth 64)) s
/-- `shri` (R88). -/
def execShri (g : Sel) (d a : SReg) (w : Bool) (n : BitVec 6) (s : State) : Host.Outcome State Fault Refusal :=
  issue (.shri g d a w n) (alu2 d a fun x => shrOp w x (n.setWidth 64)) s
/-- `srai` (R88). -/
def execSrai (g : Sel) (d a : SReg) (w : Bool) (n : BitVec 6) (s : State) : Host.Outcome State Fault Refusal :=
  issue (.srai g d a w n) (alu2 d a fun x => sraOp w x (n.setWidth 64)) s
/-- `cmpi` (R91). -/
def execCmpi (g : Sel) (c h : BitVec 3) (a : SReg) (i : BitVec 10) (s : State) : Host.Outcome State Fault Refusal :=
  issue (.cmpi g c h a i) (compare c h a (imm (sx i))) s
/-- `lit`, `lit.n`, `lit.hi` (R90). -/
def execLit (g : Sel) (d : SReg) (f : BitVec 2) (lit : Word32) (s : State) : Host.Outcome State Fault Refusal :=
  issue (.lit g d f lit) (do
    if f.toNat = 2 then
      let z ← rs d
      ws d ((lit.setWidth 64 <<< 32) ||| (z.1 &&& 0xFFFFFFFF)) z.2
    else ws d (litValue (f.toNat == 1) lit) false
    return next) s
/-- `addk`, `addk.n` (R90). -/
def execAddk (g : Sel) (d a : SReg) (n : Bool) (lit : Word32) (s : State) : Host.Outcome State Fault Refusal :=
  issue (.addk g d a n lit) (alu2 d a fun x => x + litValue n lit) s
/-- `cmpk` (R91). -/
def execCmpk (g : Sel) (c h : BitVec 3) (a : SReg) (n : Bool) (lit : Word32) (s : State) : Host.Outcome State Fault Refusal :=
  issue (.cmpk g c h a n lit) (compare c h a (imm (litValue n lit))) s
/-- `padd` (R95). -/
def execPadd (g : Sel) (d a b : SReg) (s : State) : Host.Outcome State Fault Refusal :=
  issue (.padd g d a b) (advancePtr d a (rs b)) s
/-- `paddi` (R95). -/
def execPaddi (g : Sel) (d a : SReg) (i : BitVec 10) (s : State) : Host.Outcome State Fault Refusal :=
  issue (.paddi g d a i) (advancePtr d a (imm (sx i))) s
/-- `ptag` (R94). -/
def execPtag (g : Sel) (d a : SReg) (t : BitVec 4) (b : BitVec 3) (s : State) : Host.Outcome State Fault Refusal :=
  issue (.ptag g d a t b) (alu2 d a (ptagOp t b)) s

end Sys2Proof.Machine
end

