-- ==== Sys2Proof/Machine/Dispatch.lean ====
section
/-!
DEFINITION. One arm per instruction or step of the table, each one call of its meaning.
-/
namespace Sys2Proof.Machine

/-- The meaning of an instruction. -/
def exec (i : Instr) (s : State) : Host.Outcome State Fault Refusal :=
  match i with
  | .nop => Sys2Proof.Machine.execNop s
  | .add g d a b w => Sys2Proof.Machine.execAdd g d a b w s
  | .sub g d a b w => Sys2Proof.Machine.execSub g d a b w s
  | .mul g d a b f => Sys2Proof.Machine.execMul g d a b f s
  | .div g d a b f => Sys2Proof.Machine.execDiv g d a b f s
  | .rem g d a b f => Sys2Proof.Machine.execRem g d a b f s
  | .and g d a b => Sys2Proof.Machine.execAnd g d a b s
  | .or g d a b => Sys2Proof.Machine.execOr g d a b s
  | .xor g d a b => Sys2Proof.Machine.execXor g d a b s
  | .andn g d a b => Sys2Proof.Machine.execAndn g d a b s
  | .shl g d a b w => Sys2Proof.Machine.execShl g d a b w s
  | .shr g d a b w => Sys2Proof.Machine.execShr g d a b w s
  | .sra g d a b w => Sys2Proof.Machine.execSra g d a b w s
  | .rot g d a b w => Sys2Proof.Machine.execRot g d a b w s
  | .min g d a b n => Sys2Proof.Machine.execMin g d a b n s
  | .max g d a b n => Sys2Proof.Machine.execMax g d a b n s
  | .cmp g c h a b => Sys2Proof.Machine.execCmp g c h a b s
  | .sel g d a b s_ => Sys2Proof.Machine.execSel g d a b s_ s
  | .bcnt g d a f => Sys2Proof.Machine.execBcnt g d a f s
  | .bfx g d a b n => Sys2Proof.Machine.execBfx g d a b n s
  | .bfi g d a b => Sys2Proof.Machine.execBfi g d a b s
  | .gop g d a b f => Sys2Proof.Machine.execGop g d a b f s
  | .addi g d a im => Sys2Proof.Machine.execAddi g d a im s
  | .andi g d a im => Sys2Proof.Machine.execAndi g d a im s
  | .ori g d a im => Sys2Proof.Machine.execOri g d a im s
  | .xori g d a im => Sys2Proof.Machine.execXori g d a im s
  | .shli g d a w s_ => Sys2Proof.Machine.execShli g d a w s_ s
  | .shri g d a w s_ => Sys2Proof.Machine.execShri g d a w s_ s
  | .srai g d a w s_ => Sys2Proof.Machine.execSrai g d a w s_ s
  | .cmpi g c h a im => Sys2Proof.Machine.execCmpi g c h a im s
  | .muli g d a im => Sys2Proof.Machine.execMuli g d a im s
  | .lit g d f lit => Sys2Proof.Machine.execLit g d f lit s
  | .addk g d a n lit => Sys2Proof.Machine.execAddk g d a n lit s
  | .cmpk g c h a n lit => Sys2Proof.Machine.execCmpk g c h a n lit s
  | .padd g d a b => Sys2Proof.Machine.execPadd g d a b s
  | .paddi g d a im => Sys2Proof.Machine.execPaddi g d a im s
  | .ptag g d a t b => Sys2Proof.Machine.execPtag g d a t b s
  | .br g o => Sys2Proof.Machine.execBr g o s
  | .call g o => Sys2Proof.Machine.execCall g o s
  | .jr g d a => Sys2Proof.Machine.execJr g d a s
  | .loop g a l => Sys2Proof.Machine.execLoop g a l s
  | .rpt g n k x y z => Sys2Proof.Machine.execRpt g n k x y z s
  | .halt g => Sys2Proof.Machine.execHalt g s
  | .trap g n => Sys2Proof.Machine.execTrap g n s
  | .eret g => Sys2Proof.Machine.execEret g s
  | .csrr g d c => Sys2Proof.Machine.execCsrr g d c s
  | .csrw g a c => Sys2Proof.Machine.execCsrw g a c s
  | .csrx g d a c => Sys2Proof.Machine.execCsrx g d a c s
  | .step g => Sys2Proof.Machine.execStep g s
  | .fwd g a => Sys2Proof.Machine.execFwd g a s
  | .fwdRel g => Sys2Proof.Machine.execFwdRel g s
  | .fwdJoin g => Sys2Proof.Machine.execFwdJoin g s
  | .echo g a => Sys2Proof.Machine.execEcho g a s
  | .echoEnd g => Sys2Proof.Machine.execEchoEnd g s
  | .lnch g d a q => Sys2Proof.Machine.execLnch g d a q s
  | .evw g a b => Sys2Proof.Machine.execEvw g a b s
  | .evs g a b => Sys2Proof.Machine.execEvs g a b s
  | .ld g d a o s_ => Sys2Proof.Machine.execLd g d a o s_ s
  | .ldTag g d a s_ => Sys2Proof.Machine.execLdTag g d a s_ s
  | .ldz g d a o s_ => Sys2Proof.Machine.execLdz g d a o s_ s
  | .ldzTag g d a s_ => Sys2Proof.Machine.execLdzTag g d a s_ s
  | .st g d a o s_ => Sys2Proof.Machine.execSt g d a o s_ s
  | .lda g d a p s_ => Sys2Proof.Machine.execLda g d a p s_ s
  | .stl g d a p s_ => Sys2Proof.Machine.execStl g d a p s_ s
  | .aadd g d a b z => Sys2Proof.Machine.execAadd g d a b z s
  | .aand g d a b z => Sys2Proof.Machine.execAand g d a b z s
  | .aor g d a b z => Sys2Proof.Machine.execAor g d a b z s
  | .axor g d a b z => Sys2Proof.Machine.execAxor g d a b z s
  | .amin g d a b n z => Sys2Proof.Machine.execAmin g d a b n z s
  | .amax g d a b n z => Sys2Proof.Machine.execAmax g d a b n z s
  | .axch g d a b z => Sys2Proof.Machine.execAxch g d a b z s
  | .acas g d a b z => Sys2Proof.Machine.execAcas g d a b z s
  | .fadda g d a b => Sys2Proof.Machine.execFadda g d a b s
  | .famax g d a b => Sys2Proof.Machine.execFamax g d a b s
  | .famin g d a b => Sys2Proof.Machine.execFamin g d a b s
  | .radd g a b z => Sys2Proof.Machine.execRadd g a b z s
  | .rand g a b z => Sys2Proof.Machine.execRand g a b z s
  | .ror g a b z => Sys2Proof.Machine.execRor g a b z s
  | .rxor g a b z => Sys2Proof.Machine.execRxor g a b z s
  | .rmin g a b n z => Sys2Proof.Machine.execRmin g a b n z s
  | .rmax g a b n z => Sys2Proof.Machine.execRmax g a b n z s
  | .rfadd g a b => Sys2Proof.Machine.execRfadd g a b s
  | .rfmax g a b => Sys2Proof.Machine.execRfmax g a b s
  | .rfmin g a b => Sys2Proof.Machine.execRfmin g a b s
  | .fenceAcq g p => Sys2Proof.Machine.execFenceAcq g p s
  | .fenceRel g p => Sys2Proof.Machine.execFenceRel g p s
  | .fenceFull g p => Sys2Proof.Machine.execFenceFull g p s
  | .wb g a b => Sys2Proof.Machine.execWb g a b s
  | .inv g a b => Sys2Proof.Machine.execInv g a b s
  | .dsc g a b => Sys2Proof.Machine.execDsc g a b s
  | .bar g n a => Sys2Proof.Machine.execBar g n a s
  | .bexp g n a => Sys2Proof.Machine.execBexp g n a s
  | .send g q x b => Sys2Proof.Machine.execSend g q x b s
  | .sendE g q a b => Sys2Proof.Machine.execSendE g q a b s
  | .sendRel g q a b s_ => Sys2Proof.Machine.execSendRel g q a b s_ s
  | .wake g a => Sys2Proof.Machine.execWake g a s
  | .slp g => Sys2Proof.Machine.execSlp g s
  | .cpy g a b u h => Sys2Proof.Machine.execCpy g a b u h s
  | .cpyClk g a b u h clk => Sys2Proof.Machine.execCpyClk g a b u h clk s
  | .cpyqWm g d h => Sys2Proof.Machine.execCpyqWm g d h s
  | .cpyqOut g d h => Sys2Proof.Machine.execCpyqOut g d h s
  | .cpyqSt g d h => Sys2Proof.Machine.execCpyqSt g d h s
  | .mma g a => Sys2Proof.Machine.execMma g a s
  | .mmaClk g a clk => Sys2Proof.Machine.execMmaClk g a clk s
  | .mmsp g a => Sys2Proof.Machine.execMmsp g a s
  | .mmspClk g a clk => Sys2Proof.Machine.execMmspClk g a clk s
  | .mmld g a b t => Sys2Proof.Machine.execMmld g a b t s
  | .mmldV g a b c t => Sys2Proof.Machine.execMmldV g a b c t s
  | .mmst g a b t => Sys2Proof.Machine.execMmst g a b t s
  | .mmstV g a b c t => Sys2Proof.Machine.execMmstV g a b c t s
  | .tload g a b => Sys2Proof.Machine.execTload g a b s
  | .teval g a => Sys2Proof.Machine.execTeval g a s
  | .tevalClk g a clk => Sys2Proof.Machine.execTevalClk g a clk s
  | .tlv g a => Sys2Proof.Machine.execTlv g a s
  | .coll g a b => Sys2Proof.Machine.execColl g a b s
  | .collClk g a b clk => Sys2Proof.Machine.execCollClk g a b clk s
  | .collqSt g d a => Sys2Proof.Machine.execCollqSt g d a s
  | .collqDone g d a => Sys2Proof.Machine.execCollqDone g d a s
  | .rng g d t => Sys2Proof.Machine.execRng g d t s
  | .rngJump g t => Sys2Proof.Machine.execRngJump g t s
  | .vshp g r c => Sys2Proof.Machine.execVshp g r c s
  | .vld g d a b => Sys2Proof.Machine.execVld g d a b s
  | .vldTag g d a b => Sys2Proof.Machine.execVldTag g d a b s
  | .vst g d a b => Sys2Proof.Machine.execVst g d a b s
  | .vgat g d a im => Sys2Proof.Machine.execVgat g d a im s
  | .vsct g d a im => Sys2Proof.Machine.execVsct g d a im s
  | .vadd g d a b t => Sys2Proof.Machine.execVadd g d a b t s
  | .vsub g d a b t => Sys2Proof.Machine.execVsub g d a b t s
  | .vmul g d a b t h => Sys2Proof.Machine.execVmul g d a b t h s
  | .vfma g d a b t f => Sys2Proof.Machine.execVfma g d a b t f s
  | .vmin g d a b t => Sys2Proof.Machine.execVmin g d a b t s
  | .vmax g d a b t => Sys2Proof.Machine.execVmax g d a b t s
  | .vdiv g d a b t => Sys2Proof.Machine.execVdiv g d a b t s
  | .vsqr g d a t => Sys2Proof.Machine.execVsqr g d a t s
  | .vsfn g d a t f => Sys2Proof.Machine.execVsfn g d a t f s
  | .vcvt g d a t s_ => Sys2Proof.Machine.execVcvt g d a t s_ s
  | .vcmp g m a b t c => Sys2Proof.Machine.execVcmp g m a b t c s
  | .vsel g d a b t m => Sys2Proof.Machine.execVsel g d a b t m s
  | .vred g d a t x o => Sys2Proof.Machine.execVred g d a t x o s
  | .vint g d a b t f => Sys2Proof.Machine.execVint g d a b t f s
  | .vmov g d a t => Sys2Proof.Machine.execVmov g d a t s
  | .vmovBc g d s_ t => Sys2Proof.Machine.execVmovBc g d s_ t s
  | .vpermTr g d a t => Sys2Proof.Machine.execVpermTr g d a t s
  | .vpermIdx g d a b t => Sys2Proof.Machine.execVpermIdx g d a b t s
  | .vmsk g d a b f => Sys2Proof.Machine.execVmsk g d a b f s
  | .vectorPrefix m z r v w => Sys2Proof.Machine.execVectorPrefix m z r v w s
  | .illegalWord w => Sys2Proof.Machine.execIllegalWord w s
  | .boundaryEvent => Sys2Proof.Machine.execBoundaryEvent s
  | .lateResultArrival c => Sys2Proof.Machine.execLateResultArrival c s
  | .forwardingStarts c => Sys2Proof.Machine.execForwardingStarts c s
  | .forwardingRejoin c => Sys2Proof.Machine.execForwardingRejoin c s
  | .fwdWaitTimeout c => Sys2Proof.Machine.execFwdWaitTimeout c s
  | .evwTimeout c => Sys2Proof.Machine.execEvwTimeout c s
  | .slpTimeout c => Sys2Proof.Machine.execSlpTimeout c s
  | .engineWaitTimeout c => Sys2Proof.Machine.execEngineWaitTimeout c s
  | .taskEnd c => Sys2Proof.Machine.execTaskEnd c s
  | .barrierRootCycle pond num => Sys2Proof.Machine.execBarrierRootCycle pond num s
  | .barrierContinue c => Sys2Proof.Machine.execBarrierContinue c s
  | .barrierTimeout pond num => Sys2Proof.Machine.execBarrierTimeout pond num s
  | .engineOffsetStart c => Sys2Proof.Machine.execEngineOffsetStart c s
  | .matrixStep pond rows cols again => Sys2Proof.Machine.execMatrixStep pond rows cols again s
  | .matrixCompletion c => Sys2Proof.Machine.execMatrixCompletion c s
  | .tileMove c => Sys2Proof.Machine.execTileMove c s
  | .copyStart c h => Sys2Proof.Machine.execCopyStart c h s
  | .copyBeat c h => Sys2Proof.Machine.execCopyBeat c h s
  | .copyCompletion c h => Sys2Proof.Machine.execCopyCompletion c h s
  | .thresholdCommandStart pond => Sys2Proof.Machine.execThresholdCommandStart pond s
  | .tloadRun c => Sys2Proof.Machine.execTloadRun c s
  | .tevalRun c => Sys2Proof.Machine.execTevalRun c s
  | .tlvRun c => Sys2Proof.Machine.execTlvRun c s
  | .thresholdCompletion c => Sys2Proof.Machine.execThresholdCompletion c s
  | .collectiveMatch id peers => Sys2Proof.Machine.execCollectiveMatch id peers s
  | .treeContribution p slot ord member x => Sys2Proof.Machine.execTreeContribution p slot ord member x s
  | .collectiveCompletion id => Sys2Proof.Machine.execCollectiveCompletion id s
  | .writebackMerge c => Sys2Proof.Machine.execWritebackMerge c s
  | .flushRequest c => Sys2Proof.Machine.execFlushRequest c s
  | .translationWalk c va w victim => Sys2Proof.Machine.execTranslationWalk c va w victim s
  | .pageAnswer p id res => Sys2Proof.Machine.execPageAnswer p id res s
  | .hostMemoryAccess p addr keyed w data mask => Sys2Proof.Machine.execHostMemoryAccess p addr keyed w data mask s
  | .hostLinkError c p asid va w => Sys2Proof.Machine.execHostLinkError c p asid va w s
  | .packetArrival im => Sys2Proof.Machine.execPacketArrival im s
  | .wakeArrival im => Sys2Proof.Machine.execWakeArrival im s
  | .rangeTableCommit p => Sys2Proof.Machine.execRangeTableCommit p s
  | .setClass p => Sys2Proof.Machine.execSetClass p s
  | .probe p => Sys2Proof.Machine.execProbe p s
  | .edit p => Sys2Proof.Machine.execEdit p s
  | .setRoot p => Sys2Proof.Machine.execSetRoot p s
  | .invalidate p => Sys2Proof.Machine.execInvalidate p s
  | .clean p => Sys2Proof.Machine.execClean p s
  | .migrate p => Sys2Proof.Machine.execMigrate p s
  | .answer p => Sys2Proof.Machine.execAnswer p s
  | .register p asid => Sys2Proof.Machine.execRegister p asid s
  | .revoke p asid => Sys2Proof.Machine.execRevoke p asid s
  | .forcedRevoke p asid => Sys2Proof.Machine.execForcedRevoke p asid s
  | .doorbell v q => Sys2Proof.Machine.execDoorbell v q s
  | .vfAnswer v data => Sys2Proof.Machine.execVfAnswer v data s
  | .registerWrite v off data => Sys2Proof.Machine.execRegisterWrite v off data s
  | .nselRead g d => Sys2Proof.Machine.execNselRead g d s
  | .launchRecordHandling p q => Sys2Proof.Machine.execLaunchRecordHandling p q s
  | .admissionRound p => Sys2Proof.Machine.execAdmissionRound p s
  | .launchCompletion p q seq => Sys2Proof.Machine.execLaunchCompletion p q seq s
  | .partitionReset p => Sys2Proof.Machine.execPartitionReset p s
  | .ownershipChange p add chan n => Sys2Proof.Machine.execOwnershipChange p add chan n s
  | .eventWrite p => Sys2Proof.Machine.execEventWrite p s
  | .energyDecrement c => Sys2Proof.Machine.execEnergyDecrement c s
  | .energyPeriodStart => Sys2Proof.Machine.execEnergyPeriodStart s
  | .backgroundError place bad found => Sys2Proof.Machine.execBackgroundError place bad found s
  | .pairCheckpoint c upset => Sys2Proof.Machine.execPairCheckpoint c upset s
  | .byteBudgetInterval spring grants => Sys2Proof.Machine.execByteBudgetInterval spring grants s
  | .clockChange chip mhz => Sys2Proof.Machine.execClockChange chip mhz s
  | .springThermalLimit spring num den => Sys2Proof.Machine.execSpringThermalLimit spring num den s
  | .chipletThermalLimit chip => Sys2Proof.Machine.execChipletThermalLimit chip s
  | .edgeSourceStart src x y w h => Sys2Proof.Machine.execEdgeSourceStart src x y w h s
  | .clockArrival chip => Sys2Proof.Machine.execClockArrival chip s
  | .clockForward chip => Sys2Proof.Machine.execClockForward chip s
  | .configured chip image digest => Sys2Proof.Machine.execConfigured chip image digest s
  | .tested chip ok => Sys2Proof.Machine.execTested chip ok s
  | .trained chip dead => Sys2Proof.Machine.execTrained chip dead s
  | .nselWrite => Sys2Proof.Machine.execNselWrite s
  | .forwarding chip => Sys2Proof.Machine.execForwarding chip s
  | .ready chip => Sys2Proof.Machine.execReady chip s
  | .stateLimitExpiry chip => Sys2Proof.Machine.execStateLimitExpiry chip s
  | .fenced chip reason => Sys2Proof.Machine.execFenced chip reason s
  | .rootOfTrustBoot images => Sys2Proof.Machine.execRootOfTrustBoot images s
  | .hostLinkTraining link decoders => Sys2Proof.Machine.execHostLinkTraining link decoders s
  | .ideKeying p => Sys2Proof.Machine.execIdeKeying p s
  | .scaleOutTraining port lanes => Sys2Proof.Machine.execScaleOutTraining port lanes s
  | .linkLost port users => Sys2Proof.Machine.execLinkLost port users s
  | .pairKeyAgreement p peer => Sys2Proof.Machine.execPairKeyAgreement p peer s
  | .flitTagFailure port => Sys2Proof.Machine.execFlitTagFailure port s
  | .attestationRequest v data => Sys2Proof.Machine.execAttestationRequest v data s
  | .attestationReportReady v => Sys2Proof.Machine.execAttestationReportReady v s
  | .partitionCreation p self chips chans peers shares springs htab slots ctab => Sys2Proof.Machine.execPartitionCreation p self chips chans peers shares springs htab slots ctab s
  | .partitionDestruction p => Sys2Proof.Machine.execPartitionDestruction p s
  | .tokenBucketRefill port => Sys2Proof.Machine.execTokenBucketRefill port s

end Sys2Proof.Machine
end

