-- ==== Sys2Proof/Machine/Turn.lean ====
section
/-!
DEFINITION. What a step does around `exec`: the clock, what comes before a core's next instruction, and where `State.withFetchWord`
puts an instruction's words.
-/
namespace Sys2Proof.Machine

/-- Wall time passes with a step: how many fabric cycles is free (log 5). -/
def State.tickClock (s : State) : State := { s with stepNo := s.stepNo + 1, fabric := s.fabric + Config.elapsed s.stepNo }

/-- The core's chiplet is frozen for a clock change (R372). -/
def State.clockHeld (s : State) (c : Nat) : Bool :=
  let f := (s.chip (chipOf c)).frozenUntil
  f != 0 && decide (s.fabric < f)

/-- An offset command of the core reaches its start moment at this boundary (R35). -/
def State.offsetDue (s : State) (c : Nat) : Bool := (s.core c).level == .user && !(s.dueIds c).isEmpty

/-- The core cycles until the next start moment of an offset command of the core, if it has one. -/
def State.nextStart (s : State) (c : Nat) : Option Nat :=
  let k := s.core c
  let ahead (t : Option Word) : Option Nat := match t with
    | some t => if k.csrs.taskclk.ult t then some (t - k.csrs.taskclk).toNat else none
    | none => none
  let cmds := (k.cmds.filter fun x => !x.started && !x.moment).filterMap fun x => ahead x.start
  let colls := (s.colls.filter fun x => x.issuer.core == c && !s.kept x.issuer && x.active && !x.handed && !x.moment).filterMap fun x => ahead x.start
  (cmds ++ colls).foldl (fun m n => match m with
    | some x => some (Nat.min x n)
    | none => some n) none
/-- Core cycles that the core waits before it issues an instruction (R33). -/
def Core.waits (k : Core) (i : Instr) : Nat := (k.atStream.interlock i).cyc - k.cyc
/-- The core that moves fetches its next instruction and issues it. Where `TASKCLK` reaches a start moment while the instruction still
waits for its operands, the boundary of that moment comes first (R35). -/
def fetchAndIssue (s : State) : Host.Outcome State Fault Refusal :=
  let k := (s.core s.cur).atStream
  match fetch s with
  | .ok i s1 =>
    match s1.nextStart s1.cur with
    | none => exec i s1
    | some n =>
      let q := s1.core s1.cur
      if q.level == .user && decide (n ≤ q.waits i) then .next (s1.setCore s1.cur (q.tick n)) else exec i s1
  | .error (.trap cause xval) s1 => .next (s1.trapAt .nop k cause xval)
  | .error (.packet _ xval) s1 => .next (s1.trapAt .nop k 0x15 xval)
  | .error (.freeze kind) s1 => .next (s1.frozen k kind)

/-- What falls due at an instruction boundary of the core that moves, before it issues: whole mJ of energy (R349), a start moment (R36), a
boundary cause (R340); a pair's follower takes none (R316). -/
def State.boundary (s : State) : Option Instr :=
  let k := s.core s.cur
  if k.energy ≥ 1000000000 then some (.energyDecrement s.cur)
  else if s.offsetDue s.cur then some (.engineOffsetStart s.cur)
  else if k.level == .user && !k.pend.isEmpty && k.group.pair != .follower then some .boundaryEvent
  else none
/-- The core that moves passes a boundary: what falls due there, or else its next instruction. -/
def passBoundary (s : State) (go : State → Host.Outcome State Fault Refusal) : Host.Outcome State Fault Refusal :=
  match s.boundary with
  | some i => exec i s
  | none => go s
/-- A core moves. What falls due at its boundary comes first, then the stop of its launch (R345); a leader whose follower is behind lets
it catch up (R41, R314). A vector store that has begun goes on first (R214). -/
def stepCore (s : State) : Host.Outcome State Fault Refusal :=
  let c := s.cur
  let k := s.core c
  if !decide (c < Config.numCores) then .fault .noSuchCore
  else if !k.runs || s.clockHeld c then .next s
  else if k.storing then fetchAndIssue s
  else passBoundary s fun s =>
    if s.beingStopped c && s.mayStop c then .next (s.stopCore c)
    else match (if k.level == .user then s.lagging c else none) with
      | some f => passBoundary { s with cur := f } fetchAndIssue
      | none =>
        if k.level == .user && s.rowHeld c then .next s
        else if s.beingStopped c && s.wantsCheckpoint c then .next (s.frozen k .checkpoint)
        else fetchAndIssue s

/-- A core moves, a vector instruction of it making only the accesses of the elements listed; a core of a pair makes all (R214). -/
def stepPart (c : Nat) (elems : List Nat) (s : State) : Host.Outcome State Fault Refusal :=
  if (s.core c).group.pair != .none then stepCore { s with cur := c }
  else match stepCore { s.modCore c fun k => { k with picks := some elems } with cur := c } with
    | .next t => .next (t.modCore c fun k => { k with picks := none })
    | r => r

/-- A line of the L2 level that holds, from a byte on, the bytes given. -/
def fetchLine (s : State) (line off : Nat) (w : Nat) : L2Line :=
  let k := s.core s.cur
  { part := k.task.part, asid := k.csrs.asid, line := line, data := BitVec.ofNat 512 (w * 2 ^ (8 * off)), dirty := 0, marks := 0, cls := 1,
    err := none }

/-- The state with an instruction where `step` fetches its next one: the current core runs at user level with nothing pending and a
budget, its agenda is empty, and the line of its pc holds the words (log 1: it stands for a launch's start and the image's load). -/
def State.placeWord (s : State) (nbits w : Nat) : State :=
  let c := s.cur
  let x := w % 2 ^ nbits
  let s1 := s.modCore c fun k =>
    { k with
      run := .running
      level := .user
      wait := .none
      freeze := none
      pend := []
      late := none
      picks := none
      partway := none
      pages := []
      energy := 0
      frameOn := false
      matq := []
      thrq := []
      chan := Vector.replicate 4 Channel.reset
      group := Group.reset
      csrs := { k.csrs with budget := if k.csrs.budget = 0 then 0xFFFFFFFF else k.csrs.budget } }
  let pc := (s1.core c).pc.toNat % 2 ^ 57
  let off := pc % 64
  { (s1.modChip (chipOf c) fun h => { h with frozenUntil := 0 }) with
    turns := []
    colls := s1.colls.filter fun x => x.handed || x.issuer.core != c
    l2 := fetchLine s1 (pc / 64) off x :: fetchLine s1 (pc / 64 + 1) 0 (x / 2 ^ (8 * (64 - off))) :: s1.l2 }

end Sys2Proof.Machine
end

