-- ==== Sys2Proof/Machine/Step.lean ====
section
/-!
DEFINITION. One step of the device. The agenda `State.turns` says who moves next: a core issues its next instruction, or makes part of a vector access, or another
agent makes one step of the table; with an empty agenda the current core issues (log 1).
-/
namespace Sys2Proof.Machine

/-- One step. -/
def step (s : State) : Host.Outcome State Fault Refusal :=
  match s.turns with
  | .core c :: rest => stepCore ({ s with turns := rest, cur := c }).tickClock
  | .part c l :: rest => stepPart c l ({ s with turns := rest }).tickClock
  | .unit i :: rest => exec i ({ s with turns := rest }).tickClock
  | [] => stepCore s.tickClock

/-- The state with an instruction placed where `step` fetches its next one. -/
def State.withFetchWord (s : State) (nbits w : Nat) : State := s.placeWord nbits w

end Sys2Proof.Machine
end

