-- ==== Sys2Proof/Safety.lean ====
section
/-!
DEFINITION. The words the claims are stated in: when nothing stands in the way of an instruction (R33, R54, R78), how a core reads
and writes a register field (R55, R172, R173), and what of a core an instruction's bookkeeping may touch (R30, R32, R33, R99, R100).
-/
namespace Sys2Proof.Machine

/-! ## When an instruction takes effect -/

/-- Nothing stands in the way of the instruction on the core that moves: its task runs and waits for nothing, no result of an engine
is owed to its registers, the checks before issue pass (R78), and its guard is 1 and clean (R54). The core is in no row and no pair. -/
def State.clear (s : State) (i : Instr) : Bool :=
  let k := s.core s.cur
  k.run == .running && k.wait == .none && k.group.fwd == .none && k.group.pair == .none && k.awaited.isEmpty &&
    (k.before i == .go) && (k.guardFor i == (true, false))

/-- The core that moves has an instruction to issue, which its checks may still refuse; it is in no row and no pair. -/
def State.atBoundary (s : State) : Bool :=
  let k := s.core s.cur
  k.run == .running && k.wait == .none && k.group.fwd == .none && k.group.pair == .none && k.awaited.isEmpty

/-- The checks before issue pass, and the guard's value and poison bit are as given. -/
def State.clearBut (s : State) (i : Instr) (guard : Bool × Bool) : Bool :=
  s.atBoundary && ((s.core s.cur).before i == .go) && ((s.core s.cur).guardFor i == guard)

/-- The core as the instruction's effect finds it: past the interlock (R33) and charged (R32). -/
def Core.issued (k : Core) (i : Instr) : Core := (k.interlock i).charge i
/-- The core that moves, as an instruction finds it. -/
def State.seen (s : State) (i : Instr) : Core := (s.core s.cur).issued i

/-! ## Register fields -/

/-- A source field read: its value and poison bit, and the core after the read, from which a queue register's word is gone. Nothing
for a queue register whose queue is empty (R172) or whose next word opens a released packet (R155). -/
def Core.take (k : Core) (r : SReg) : Option ((Word × Bool) × Core) :=
  if r.toNat < 60 then some ((k.regs.scalar r.toNat, k.regs.scalarPoison r.toNat), k)
  else match k.inq.toArray.getD (r.toNat - 60) [] with
    | [] => none
    | w :: rest => if w.rel.isSome then none else some ((w.word, w.poison), { k with inq := k.inq.setIfInBounds (r.toNat - 60) rest })

/-- A destination field written. Nothing for a push that R173 holds or refuses: a poisoned word, a handler's push into the user's
packet, a full packet, a full queue (`und` words of the queue are not delivered yet). -/
def Core.give (k : Core) (und : Nat) (r : SReg) (v : Word) (p : Bool) : Option Core :=
  if r.toNat < 60 then some { k with regs := k.regs.setScalar r.toNat v p }
  else if p then none
  else
    let q := r.toNat - 60
    match k.outq.toArray.getD q none with
    | some o =>
      if k.level == .supervisor && !o.bySup then none
      else if o.words.length ≥ 32 || und + o.words.length ≥ 32 then none
      else some { k with outq := k.outq.setIfInBounds q (some { o with words := o.words ++ [v] }) }
    | none =>
      if und ≥ 32 then none
      else some { k with outq := k.outq.setIfInBounds q (some { words := [v], addr := k.pc, count := 1, bySup := k.level == .supervisor }) }

/-- Two source fields read in their order (R55). -/
def Core.take2 (k : Core) (a b : SReg) : Option ((Word × Bool) × (Word × Bool) × Core) :=
  match k.take a with
  | some (x, k1) => match k1.take b with
    | some (y, k2) => some (x, y, k2)
    | none => none
  | none => none

/-- Words of the queue a destination field names that are not delivered yet. -/
def State.owed (s : State) (r : SReg) : Nat := s.undelivered s.cur (r.toNat - 60)

/-! ## The frame of an instruction -/

/-- A core without what the end of every instruction may change: the pc, the clocks and the scoreboard, an ended freeze, and the loop
count and frame state that sequential flow advances (R30, R33, R34, R99, R100). Everything else of the core is in it. -/
def Core.bare (k : Core) : Core :=
  { k with
    pc := 0
    cyc := 0
    ready := []
    freeze := none
    frame := Vector.replicate 16 { word := 0, pfx := none }
    csrs := { k.csrs with taskclk := 0, lcnt := 0, frm := 0 } }

/-- The instruction completes on the core that moves and changes nothing of the device but that core: the core is `k`, past the end
of the instruction. -/
def State.Ends (s : State) (i : Instr) (k : Core) (pc : Word) : Prop :=
  ∃ k', exec i s = .next (s.setCore s.cur k') ∧ k'.bare = k.bare ∧ k'.pc = pc

/-- The instruction completes on the core that moves. The rest of the device is as in `t`; the core is `k`, past the instruction. Where no
loop and no frame acts, the pc is at the next word and loop and frame state stay (R99, R100); the task clock stands at supervisor level
(R103). -/
def State.CompletesAs (s : State) (i : Instr) (t : State) (k : Core) : Prop :=
  ∃ k', exec i s = .next (t.setCore s.cur k') ∧ k'.bare = k.bare ∧
    (k.inLoop = false → k.inFrame = false →
      k'.pc = k.pc + BitVec.ofNat 64 (4 * wordsIn i) ∧ k'.csrs.lcnt = k.csrs.lcnt ∧ k'.csrs.frm = k.csrs.frm ∧ k'.frame = k.frame) ∧
    ((s.core s.cur).level = .supervisor → k'.csrs.taskclk = k.csrs.taskclk)

/-- The instruction completes on the core that moves and changes nothing of the device but that core. -/
def State.Completes (s : State) (i : Instr) (k : Core) : Prop := s.CompletesAs i s k

/-- A scalar destination takes a value and a poison bit: the instruction completes, and only what the destination field is changes in
the core `k` that has read the sources. -/
def State.Puts (s : State) (i : Instr) (d : SReg) (k : Core) (v : Word) (p : Bool) : Prop :=
  ∀ k', k.give (s.owed d) d v p = some k' → s.Completes i k'

/-- The same where the instruction also leaves the rest of the device as in `t`. -/
def State.PutsAs (s : State) (i : Instr) (t : State) (d : SReg) (k : Core) (v : Word) (p : Bool) : Prop :=
  ∀ k', k.give (s.owed d) d v p = some k' → s.CompletesAs i t k'

/-- One source, one scalar destination; the poison bit is the source's (R85). -/
def State.Writes1 (s : State) (i : Instr) (d a : SReg) (f : Word → Word) : Prop :=
  s.clear i = true → ∀ x k, (s.seen i).take a = some (x, k) → s.Puts i d k (f x.1) x.2

/-- Two sources, one scalar destination; the poison bit is the OR of theirs (R85). -/
def State.Writes2 (s : State) (i : Instr) (d a b : SReg) (f : Word → Word → Word) : Prop :=
  s.clear i = true → ∀ x y k, (s.seen i).take2 a b = some (x, y, k) → s.Puts i d k (f x.1 y.1) (x.2 || y.2)

/-- A guard takes a value and a poison bit in the core `k` that has read the sources. -/
def State.Sets (s : State) (i : Instr) (h : BitVec 3) (k : Core) (v p : Bool) : Prop :=
  s.Completes i { k with regs := k.regs.setGuard h.toNat v p }

/-! ## Taking a trap at an instruction -/

/-- The instruction takes a trap that does not kill, at user level: it has no effect of its own and is charged, and the core enters the
handler as R103 says, with the instruction's address saved. Nothing else of the device changes. -/
def State.Traps (s : State) (i : Instr) (cause : Nat) (xval : Word) : Prop :=
  (s.core s.cur).level = .user →
    ∃ k', exec i s = .next (s.setCore s.cur k') ∧ k'.bare = ((s.seen i).takeTrap cause xval (s.core s.cur).pc).bare ∧
      k'.pc = (s.core s.cur).csrs.xvec

/-- A check before issue refuses the instruction at user level: the core enters the handler at the instruction's address, past the
interlock but not charged, and nothing else of the device changes. -/
def State.Refuses (s : State) (i : Instr) (cause : Nat) (xval : Word) : Prop :=
  ∃ k', exec i s = .next (s.setCore s.cur k') ∧ k'.bare = ((s.core s.cur).takeTrap cause xval (s.core s.cur).pc).bare ∧
    k'.pc = (s.core s.cur).csrs.xvec

/-- The instruction cannot complete yet (R34): the core stays at it, frozen, with its registers and queues as they were and nothing charged
(R32). Nothing else of the device changes. -/
def State.Waits (s : State) (i : Instr) (kind : FreezeKind) : Prop :=
  ∃ k' z, exec i s = .next (s.setCore s.cur k') ∧ k'.bare = (s.core s.cur).bare ∧ k'.pc = (s.core s.cur).pc ∧
    k'.freeze = some z ∧ z.kind = kind ∧ z.pc = (s.core s.cur).pc

/-- The instruction has made part of its accesses (R214): the rest of the device is as in `t`, and the core is `k'`, which waits at it as it
was but for the record of these. -/
def State.Pauses (s : State) (i : Instr) (t : State) (k' : Core) : Prop :=
  exec i s = .next (t.setCore s.cur k') ∧ ({ k' with partway := none } : Core).bare = ({ s.core s.cur with partway := none } : Core).bare ∧
    k'.pc = (s.core s.cur).pc ∧ ∃ z, k'.freeze = some z ∧ z.kind = .element

/-- The instruction transfers control: the core is `k` but for what the end of a transfer changes, at the target; a loop the target
lies outside of has ended (R99), and at user level the clock has counted 3 cycles past the interlock (R75). -/
def State.Jumps (s : State) (i : Instr) (k : Core) (target : Word) : Prop :=
  s.clear i = true →
    ∃ k', exec i s = .next (s.setCore s.cur k') ∧ k'.bare = k.bare ∧ k'.pc = target ∧ k'.csrs.frm = k.csrs.frm ∧
      k'.csrs.lcnt = (if k.inLoop && !(decide (k.csrs.lbeg.toNat ≤ target.toNat) && decide (target.toNat < k.csrs.lend.toNat))
        then 0 else k.csrs.lcnt) ∧
      k'.csrs.taskclk = if k.level = .user then k.csrs.taskclk + 3 else k.csrs.taskclk

/-! ## Numbers -/

/-- The value of a `.w` operand as a signed number, and a `.w` result. -/
def low32 (x : Word) : Int := (x.setWidth 32).toInt
/-- A 32-bit result sign-extended (R85). -/
def wide32 (n : Int) : Word := BitVec.ofInt 64 (BitVec.ofInt 32 n).toInt

/-- The integer test of a condition code (R59). -/
def holds (c : BitVec 3) (a b : Word) : Prop :=
  match c.toNat with
  | 0 => a = b
  | 1 => a ≠ b
  | 2 => a.toInt < b.toInt
  | 3 => b.toInt ≤ a.toInt
  | 4 => a.toInt ≤ b.toInt
  | 5 => b.toInt < a.toInt
  | 6 => a.toNat < b.toNat
  | _ => b.toNat ≤ a.toNat

/-! ## Fat pointers (R95) -/

/-- The bytes that `e` elements span behind a fat pointer (R95), where it advances without a trap. -/
def spanOf (a : Word) (e : Int) : Option Int :=
  let t := a.toNat / 2 ^ 60
  let blg := a.toNat / 2 ^ 57 % 8
  -- twice the element width in bytes
  let w2 : Int := if t = 2 ∨ t = 3 then 1 else if t = 4 ∨ t = 5 ∨ t = 9 ∨ t = 10 then 4 else if t = 6 ∨ t = 7 ∨ t = 8 then 8 else 2
  if blg = 0 then (if e * w2 % 2 = 0 then some (e * w2 / 2) else none)
  else if t = 11 then none
  else
    let n : Int := 16 * 2 ^ (blg - 1)
    if e % n = 0 then some (e / n * (2 + n * w2 / 2)) else none

/-- Where a fat pointer may not advance by `e` elements the instruction traps as R95 says. -/
def State.Missteps (s : State) (i : Instr) (a : Word) (e : Int) : Prop :=
  let scaled := a.toNat / 2 ^ 57 % 8 ≠ 0
  let raw := a.toNat / 2 ^ 60 = 11
  (spanOf a e = none → ¬ (scaled ∧ raw) → s.Traps i 0x03 (BitVec.ofInt 64 e)) ∧ (scaled ∧ raw → s.Traps i 0x07 a) ∧
  (∀ n, spanOf a e = some n → 2 ^ 57 ≤ (BitVec.ofInt 64 ((a.toNat % 2 ^ 57 : Nat) + n)).toNat → s.Traps i 0x07 a)

/-! ## Control registers (R106-R108) -/

/-- The core with a value written to a control register that R107 lets a program write, in a list of one; the empty list for any other
number. A new error budget or energy quota that ends its condition empties that condition's pending slot (R309, R349). -/
def Core.csrWrites (k : Core) (n : Nat) (v : Word) : List Core :=
  let x := k.csrs
  let aligned := v &&& ~~~3
  match n with
  | 0x000 => [{ k with csrs := { x with taskclk := v } }]
  | 0x001 => [{ k with csrs := { x with budget := v.setWidth 32 } }]
  | 0x002 => [{ k with csrs := { x with shape := v.setWidth 8 } }]
  | 0x003 => [{ k with csrs := { x with fpctl := v.setWidth 32 } }]
  | 0x004 => [{ k with csrs := { x with fpflags := v.setWidth 32 } }]
  | 0x005 => [{ k with csrs := { x with b8fmt := v.setWidth 32 } }]
  | 0x00A => [{ k with csrs := { x with rngs0 := v } }]
  | 0x00B => [{ k with csrs := { x with rngs1 := v } }]
  | 0x018 => [{ k with csrs := { x with lcnt := v }, loopOn := false }]
  | 0x019 => [{ k with csrs := { x with lbeg := aligned }, loopOn := false }]
  | 0x01A => [{ k with csrs := { x with lend := aligned }, loopOn := false }]
  | 0x01B => [{ k with csrs := { x with frm := v }, frameOn := false }]
  | 0x100 => [{ k with csrs := { x with asid := v.setWidth 16 } }]
  | 0x101 => [{ k with csrs := { x with xpc := aligned } }]
  | 0x102 => [{ k with csrs := { x with xcause := v.setWidth 8 } }]
  | 0x103 => [{ k with csrs := { x with xval := v } }]
  | 0x104 => [{ k with csrs := { x with xvec := aligned } }]
  | 0x105 => [{ k with csrs := { x with xstat := v.setWidth 8 } }]
  | 0x106 => [{ k with csrs := { x with ebud := v.setWidth 32 },
                       pend := if v.setWidth 32 = 0#32 then k.pend else k.pend.filter fun e => e.1 != 0x0F }]
  | 0x107 => [{ k with csrs := { x with equota := v.setWidth 32 },
                       pend := if 0 < (v.setWidth 32 : BitVec 32).toInt then k.pend.filter fun e => e.1 != 0x10 else k.pend }]
  | 0x108 => [{ k with csrs := { x with bartmo := v.setWidth 32 } }]
  | 0x109 => [{ k with csrs := { x with saveptr := v } }]
  | _ => []

/-! ## Accesses (R115-R122) -/

/-- The place of an access of `n` bytes that passes the checks of R117 on its address at a tarn: aligned, in the tarn window, in scope and
phase (R29), not locked (R132); `k` is the core that makes it. -/
def State.tarnAccess (s : State) (k : Core) (ea : Word) (n : Nat) (write : Bool) : Option Nat :=
  let t := s.setCore s.cur k
  let sp := t.spanAt s.cur ea.toNat n
  if ea.toNat % n == 0 && inWindow ea.toNat && (t.addrFault s.cur k.level ea.toNat).isNone &&
      (if write then t.storeLock s.cur sp else t.loadLock s.cur sp) == .go
  then windowPlace (chipOf s.cur) ea.toNat else none
/-- No error waits in the 64-byte unit of a place, nor in the flits that bring its bytes to the core that moves (R307). -/
def State.sound (s : State) (p : Nat) : Prop := (∀ e ∈ s.latent, e.1 ≠ p / 64) ∧ (s.core s.cur).flit = none
/-- The core that has read bytes which releases have written: a later `fence.acq` may make those reads acquires (R152). -/
def Core.met (k : Core) (l : List Rel) : Core := { k with seen := k.seen ++ l.filter fun r => !k.seen.contains r }
/-- `n` bytes read at a place, sign- or zero-extended to 64 bits (R118). -/
def State.loaded (s : State) (p n : Nat) (sgn : Bool) : Word :=
  let x := BitVec.ofNat (8 * n) (readNat s.mem p n)
  if sgn then x.signExtend 64 else x.setWidth 64

/-- `m` is the memory of `s` with the low `n` bytes of `v` at a place, little-endian (R7): no other byte is changed. -/
def State.Stored (s : State) (m : Memory) (p n v : Nat) : Prop :=
  readNat m p n = v % 256 ^ n ∧ (∀ x, x < p ∨ p + n ≤ x → readByte m x = readByte s.mem x) ∧ Memory.wf m = true
/-- The state after a plain write of memory `m` at a place: poisoned data marks every word it touches, clean data clears the marks of
the words it covers (R120, R121), and a release tag that the write meets is gone (R151). -/
def State.wroteAt (s : State) (m : Memory) (p n : Nat) (poison : Bool) : State :=
  { s with
    mem := m
    marks := if poison then (s.mark p n).marks else (s.unmark p n).marks
    tags := s.tags.filter fun t => !t.meets true 0 0 p n }

/-- Nothing of the core that moves is in its L1, in its side log or on its way, no store of it is lost, and no release is tagged. -/
def State.quiet (s : State) : Bool :=
  let k := s.core s.cur
  (s.l1Of s.cur).isEmpty && s.flights.isEmpty && s.tags.isEmpty && k.slog.isEmpty && k.loss.isNone

/-- `t` is `s` but for the L1 of the core that moves, whose lines `f` gives. -/
def State.withL1 (s t : State) (f : List L1Line → List L1Line) : Prop :=
  t = { s with l1 := t.l1 } ∧ ∀ c, t.l1Of c = if c = s.cur then f (s.l1Of c) else s.l1Of c
/-- A release by the core finds nothing to write back first: no write-back is on its way, no line is update-only, no store waits in
the side log or was lost. -/
def State.drained (s : State) : Bool :=
  let k := s.core s.cur
  s.flights.isEmpty && k.slog.isEmpty && k.loss.isNone && (s.l1Of s.cur).all fun l => !l.updateOnly
/-- A line of released-mode memory of the partition of the core that moves (R131). -/
def State.released (s : State) (l : L1Line) : Bool := !(s.part (s.core s.cur).task.part).managed (l.line * 64)
/-- No line of L2 has bytes to write to host memory, where a scope asks for that (R147). -/
def State.hostClean (s : State) (sc : Scope) : Prop := sc = .sys → ∀ x ∈ s.l2, x.dirty = 0
/-- Nothing of the core that moves is on its way or in its side log, no store of it is lost, no release is tagged, and its L1 holds no line
that `f` picks. -/
def State.quietBut (s : State) (f : L1Line → Bool) : Bool :=
  let k := s.core s.cur
  s.flights.isEmpty && s.tags.isEmpty && k.slog.isEmpty && k.loss.isNone && (s.l1Of s.cur).all fun l => !f l
/-- The L1 of the core that moves has nothing to write back or merge. -/
def State.cleanL1 (s : State) : Bool := (s.l1Of s.cur).all fun l => l.dirty == 0 && !l.updateOnly
/-- No access of a partition gives a granule its home any more, or settles a tie for it (R145). -/
def State.homesFixed (s : State) (part : Nat) : Prop := ∀ chip va, s.touch part chip va = s
/-- No core holds an update-only line. -/
def State.noPartials (s : State) : Bool := s.l1.all fun e => e.2.all fun l => !l.updateOnly

/-! ## Atomics at a tarn (R125-R129) -/

/-- A tarn cell of `n` bytes that an atomic of the core `k` may reach, unmarked and without an error. -/
def State.CleanCell (s : State) (k : Core) (ea : Word) (n p : Nat) : Prop :=
  s.tarnAccess k ea n true = some p ∧ s.sound p ∧ s.anyMarked p n = false ∧ s.tags = [] ∧ k.fenceTag = none ∧ Memory.wf s.mem = true

/-- A returning atomic at a tarn cell of 8 or 4 bytes, with clean operands that meet a condition: the cell takes `f` of the old value and
the operand, D the old value sign-extended. -/
def State.AtomicIf (s : State) (ok : Nat → Nat → Prop) (i : Instr) (d a b : SReg) (z : Bool) (f : Nat → Nat → Nat) : Prop :=
  s.clear i = true → ∀ (x v : Word × Bool) (k : Core) (p : Nat), (s.seen i).take2 a b = some (x, v, k) → x.2 = false → v.2 = false →
    let n := if z then 8 else 4
    let c := readNat s.mem p n
    let w := v.1.toNat % 256 ^ n
    s.CleanCell k x.1 n p → ok c w →
      ∃ m, s.Stored m p n (f c w) ∧ s.PutsAs i (s.wroteAt m p n false) d k (s.loaded p n true) false
/-- The same for every operand. -/
def State.Atomic (s : State) (i : Instr) (d a b : SReg) (z : Bool) (f : Nat → Nat → Nat) : Prop :=
  s.AtomicIf (fun _ _ => True) i d a b z f
/-- A no-return reduction at a tarn cell. -/
def State.ReducesIf (s : State) (ok : Nat → Nat → Prop) (i : Instr) (a b : SReg) (z : Bool) (f : Nat → Nat → Nat) : Prop :=
  s.clear i = true → ∀ (x v : Word × Bool) (k : Core) (p : Nat), (s.seen i).take2 a b = some (x, v, k) → x.2 = false → v.2 = false →
    let n := if z then 8 else 4
    let c := readNat s.mem p n
    let w := v.1.toNat % 256 ^ n
    s.CleanCell k x.1 n p → ok c w → ∃ m, s.Stored m p n (f c w) ∧ s.CompletesAs i (s.wroteAt m p n false) k

/-! ## Engine commands at issue (R35, R157, R169, R231, R237, R238, R250, R253, R281) -/

/-- The contents of the descriptor of `n` bytes at an address that passes the checks on it (R237): aligned, in the tarn window, in
scope and phase, unmarked. -/
def State.descriptorAt (s : State) (k : Core) (a : Word) (n : Nat) : Option Nat :=
  if a.toNat % n == 0 && decide (a.toNat < 2 ^ 57) && inWindow a.toNat && ((s.setCore s.cur k).addrFault s.cur k.level a.toNat).isNone
  then match windowPlace (chipOf s.cur) a.toNat with
    | some p => if s.anyMarked p n then none else some (readNat s.mem p n)
    | none => none
  else none
/-- The range of `n` bytes of an operand of `rows` rows passes the checks on its address: inside the address space and one tarn, no
row in a save area, in scope and phase (R116, R117). -/
def State.operandOk (s : State) (k : Core) (ptr : Word) (n rows stride row : Nat) : Bool :=
  let va := ptr.toNat % 2 ^ 57
  decide (va + n ≤ 2 ^ 57) && !spanFault s.cur va n &&
    (!inWindow va || (!(k.level == .user && reservedRows va rows stride row) &&
      ((windowPlace (chipOf s.cur) va).bind ((s.setCore s.cur k).tarnFault s.cur k.level)).isNone))
/-- The bytes of two operands of the core `k` lie apart. -/
def State.apart (s : State) (k : Core) (p : Word) (n : Nat) (q : Word) (m : Nat) : Bool :=
  let t := s.setCore s.cur k
  let a := p.toNat % 2 ^ 57
  let b := q.toNat % 2 ^ 57
  !(t.spanAt s.cur a n).meets (t.spanAt s.cur b m) && (decide (a + n ≤ b) || decide (b + m ≤ a))
/-- A pointer and a stride are multiples of an element's bytes, 1 for a 4-bit element. -/
def alignedPtr (ptr : Word) (stride : Nat) : Bool :=
  let n := Nat.max 1 (elemBits (ptr.toNat / 2 ^ 60) / 8)
  ptr.toNat % 2 ^ 57 % n == 0 && stride % n == 0
/-- The start moment of a command (R35): none without an offset; nothing at all for an offset that lies in the past. -/
def Core.startAt (k : Core) (lit : Option Word32) : Option (Option Word) :=
  match lit with
  | none => some none
  | some l =>
    let d := l - k.csrs.taskclk.setWidth 32
    if d.toNat < 2 ^ 31 then some (some (k.csrs.taskclk + d.setWidth 64)) else none
/-- The pond of the core that moves has room for `n` more locks (R34). -/
def State.lockSpace (s : State) (n : Nat) : Bool := decide ((s.pond (pondOf s.cur)).locks.length + n ≤ 64)
/-- A command finds no other command's barrier in its way (R167): it posts to none, or its number's root is free. -/
def State.postFree (s : State) (k : Core) (count : Option (Nat × Nat × Bool)) : Bool :=
  match count with
  | some (bar, _, true) => !s.rootBusy (k.instanceOf bar)
  | _ => true
/-- The L1 of the core that moves holds no partial sums, and no error waits to be met in memory. -/
def State.still (s : State) : Bool := ((s.l1Of s.cur).all fun l => !l.updateOnly) && s.latent.isEmpty
/-- The state once the core `k` that moves has written back the L1 lines that a range of cached bytes meets, and kept them or given them up
(R163, R164, R238, R254). -/
def State.ranged (s : State) (k : Core) (ptr : Word) (n : Nat) (keep : Bool) : State :=
  let lo := ptr.toNat % 2 ^ 57
  let rel : Option Rel := k.fenceTag.map fun sc => { core := s.cur, scope := sc }
  let met (l : L1Line) : Bool := l.asid == k.csrs.asid && n != 0 && decide (l.line * 64 < lo + n) && decide (lo < l.line * 64 + 64)
  if inWindow lo then s
  else ((s.l1Of s.cur).filter met).foldl (fun t l =>
    let t1 := if l.dirty = 0 then t else { t.meetGiven l with flights := t.flights ++ l.writeBacks s.cur k.task.part rel }
    let kept := (if l.dirty = 0 then l else l.disturbed (l.err == some true)).cleaned
    t1.l1Set s.cur l (if keep then some kept else none)) s

/-- The state once a command of the core `k` is registered: its number, its locks (spans, write, copy), the tag that its ring landing will
write, and the bytes it posts to a barrier now, or leaves to a receiver to expect (R157, R169, R258, R260). -/
def State.registered (s : State) (k : Core) (locks : List (List Span × Bool × Bool)) (tag : Option (Nat × Word))
    (count : Option (Nat × Nat × Bool)) : State × Option Post :=
  let id := s.dev.cmd + 1
  let s1 : State := { s with dev := { s.dev with cmd := id } }
  let s2 := locks.foldl (fun st l => st.modPond (pondOf s.cur) fun p =>
    p.issueLock s.fabric { cmd := id, core := s.cur, spans := l.1, write := l.2.1, copy := l.2.2, seq := 0, at_ := 0 }) s1
  let s3 : State := match tag with
    | some (p, n) => { s2 with landings := s2.landings ++ [(id, p, n)] }
    | none => s2
  match count with
  | none => (s3, none)
  | some (bar, n, posted) =>
    let x := s.dev.xfer + 1
    if posted then
      (({ s3 with dev := { s3.dev with xfer := x } }).toRoot (k.instanceOf bar) (evPost, s3.cur, x, n), some { name := k.instanceOf bar, xfer := x, left := n })
    else (s3, some { name := k.instanceOf bar, xfer := 0, left := n })
/-- No lock that conflicts with one of a command's stands in its way (R157): the command's own came in a cycle that is over, and every
conflicting one came later, at its pond by the order of registration, at another by the cycle, of one cycle that of the higher core. -/
def State.lockTurn (s : State) (pond id : Nat) : Prop :=
  ∀ own ∈ (s.pond pond).locks, own.cmd = id → own.at_ < s.fabric ∧ ∀ e ∈ s.ponds, ∀ l ∈ e.2.locks, (e.1 = pond → l.cmd ≠ id) →
    (l.write = true ∨ own.write = true) → (own.spans.any fun sp => l.meets sp && (e.1 == pond || sp.kind != 2)) = true →
      if e.1 = pond then own.seq ≤ l.seq else own.at_ < l.at_ ∨ (own.at_ = l.at_ ∧ own.core ≤ l.core)
/-- A core's queue heads may start commands: it runs at user level, in no row, with its freeze line down (R34, R338). -/
def Core.lively (k : Core) : Prop := k.run = .running ∧ k.level = .user ∧ k.freeze = none ∧ k.group.fwd = .none
/-- Who issues a command of the core `k`. -/
def State.issuerOf (s : State) (k : Core) : Issuer :=
  { core := s.cur, part := k.task.part, asid := k.csrs.asid, level := k.level, pc := k.pc, cls := k.task.cls, cap := k.task.cap,
    b8 := k.csrs.b8fmt, gen := k.gen }
/-- The command itself. -/
def State.command (s : State) (k : Core) (start : Option Word) (count : Option Post) (work : Work) : Cmd :=
  { id := s.dev.cmd + 1, issuer := s.issuerOf k, start := start, moment := false, count := count, started := false, progress := 0, wrote := 0, held := none,
    work := work }

/-- The outcome of an engine instruction that has passed every check but that on its start offset (R35, R34): a start in the past traps
with the instruction's address; a full queue or lock table or a busy root holds the instruction; else the L1 lines of its operands' `ranges`
leave, the command is registered and stands last in its queue, and no register and no byte of memory changes. -/
def State.Enqueues (s : State) (i : Instr) (k : Core) (lit : Option Word32) (queue : List Cmd) (put : List Cmd → Core)
    (ranges : List (Word × Nat × Bool)) (locks : List (List Span × Bool × Bool)) (tag : Option (Nat × Word)) (count : Option (Nat × Nat × Bool)) (work : Work) : Prop :=
  (k.startAt lit = none → s.Traps i 0x0B k.pc) ∧
  ∀ start, k.startAt lit = some start →
    (4 ≤ queue.length → s.Waits i .engine) ∧
    (queue.length < 4 → s.lockSpace locks.length = true → s.postFree k count = true →
      let r := (ranges.foldl (fun t e => t.ranged k e.1 e.2.1 e.2.2) s).registered k locks tag count
      s.CompletesAs i r.1 (put (queue ++ [s.command k start r.2 work])))

/-! ## Vector instructions (R204-R215) -/

/-- `i` is the vector instruction `j`, alone or under a prefix with the mask `m`, zeroing `z`, rounding `r` and fourth operand `v`. -/
def prefixedAs (j i : Instr) (m : Sel) (z : Bool) (r : BitVec 3) (v : Option VReg) : Prop :=
  (i = j ∧ m = 0 ∧ z = false ∧ r = 0 ∧ v = none) ∨ ∃ x w, v = some x ∧ i = .vectorPrefix m z r x w ∧ prefixed w = some j

/-- Element `j` of a width is not masked off (R206). -/
def Core.onMask (k : Core) (m : Sel) (w j : Nat) : Bool := (k.regs.mask m).getLsbD (if w = 4 then j / 2 else j)

/-- The outcome of R207 for the core `k`: the instruction completes; of its n elements of `w` bits those not masked off take `f`'s value,
the others their old one or zero; every bit above is cleared; a slot is poisoned where one of its elements is; the flags of the
elements not masked off are set. Nothing else changes. -/
def State.Elementwise (s : State) (i : Instr) (k : Core) (m : Sel) (z : Bool) (d : VReg) (w wm : Nat) (f : Nat → Nat × Bool × Nat) : Prop :=
  ∃ (v : BitVec 1024) (p fl : BitVec 32),
    s.Completes i { k with regs := k.regs.setVec d v p, csrs := { k.csrs with fpflags := k.csrs.fpflags ||| fl } } ∧
    (∀ j < k.count, v.toNat / 2 ^ (w * j) % 2 ^ w =
      if k.onMask m wm j then (f j).1 % 2 ^ w else if z then 0 else (k.regs.vec d).toNat / 2 ^ (w * j) % 2 ^ w) ∧
    (∀ b, w * k.count ≤ b → v.getLsbD b = false) ∧
    (∀ q < 32, p.getLsbD q = (List.range k.count).any fun j => w * j / 32 == q &&
      if k.onMask m wm j then (f j).2.1 else !z && (k.regs.vecPoison d).getLsbD q) ∧
    ∀ b < 32, fl.getLsbD b = (decide (b < 6) && (List.range k.count).any fun j => k.onMask m wm j && (f j).2.2.testBit b)

/-- A vector instruction that writes a register element by element, alone and under every prefix; `op` gives an element in the core
found, by the rounding in force and the addend register. -/
def State.Vector (s : State) (j : Instr) (d : VReg) (w wm : Nat) (op : Core → Env → VReg → Nat → Nat × Bool × Nat) : Prop :=
  ∀ i m z r v, prefixedAs j i m z r v → s.clear i = true →
    s.Elementwise i (s.seen i) m z d w wm (op (s.seen i) ((s.seen i).env r) (v.getD d))

/-- The place of a tarn byte's address seen from the core that moves. -/
def State.placeAt (s : State) (ea : Word) : Nat := (windowPlace (chipOf s.cur) ea.toNat).getD 0
/-- `n` bytes from an address on are tarn bytes that the core `k` may access (R116, R117, R132). -/
def State.tarnBytes (s : State) (k : Core) (ea : Word) (n : Nat) (write : Bool) : Bool :=
  let t := s.setCore s.cur k
  inWindow ea.toNat && !spanFault s.cur ea.toNat n && (t.addrFault s.cur k.level ea.toNat).isNone &&
    (t.addrFault s.cur k.level (ea.toNat + n - 1)).isNone &&
    (if write then t.storeLock s.cur (t.spanAt s.cur ea.toNat n) else t.loadLock s.cur (t.spanAt s.cur ea.toNat n)) == .go
/-- An element's bytes, and its block's scale, are tarn bytes the core may access. -/
def State.spotOk (s : State) (k : Core) (write : Bool) (x : Spot) : Bool :=
  s.tarnBytes k x.ea x.size write && match x.scale with
    | some y => s.tarnBytes k y 2 false
    | none => true
/-- An element's bytes, and its block's scale, lie in the tarn of number `t`, counted over the device. -/
def State.spotIn (s : State) (t : Nat) (x : Spot) : Bool :=
  s.placeAt x.ea / 2 ^ 21 == t && match x.scale with
    | some y => s.placeAt y / 2 ^ 21 == t
    | none => true
/-- Checks 2 to 5 of R212 pass on a pointer and a stride, for elements that are `sparse` (gathered) or not. -/
def Core.pointerOk (k : Core) (ptr b : Word) (strided gathered : Bool) : Bool :=
  let t := ptrFmt ptr
  let step := Nat.max 1 (elemBits t / 8)
  !b8Unset k.csrs.b8fmt t && decide (k.count * ptrWidth ptr ≤ 1024) && !(gathered && decide (k.count > 32)) &&
    if ptrBlg ptr = 0 then ptrVa ptr % step == 0 && !(strided && (b.toNat % step != 0 || (elemBits t == 4 && k.cols * 4 % 8 != 0)))
    else t != 11 && ptrVa ptr % 2 == 0
/-- An element as a load brings it from a tarn (R197, R211): bits, poison, flags. -/
def State.loadSpot (s : State) (k : Core) (ptr : Word) (x : Spot) : Nat × Bool × Nat :=
  let t := ptrFmt ptr
  let v := readNat s.mem (s.placeAt x.ea) x.size / 2 ^ x.bit % 2 ^ elemBits t
  let p := s.anyMarked (s.placeAt x.ea) x.size || isPattern k.csrs.b8fmt t v
  match x.scale with
  | some y => widen k.csrs.b8fmt t (v, p) (readNat s.mem (s.placeAt y) 2, s.anyMarked (s.placeAt y) 2)
  | none => (if p then asPoison t v else v, p, if p then flagPS else 0)
/-- An element as a store makes it (R198, R211): bits, poison, flags. -/
def State.storeSpot (s : State) (k : Core) (ptr : Word) (d : VReg) (x : Spot) : Nat × Bool × Nat :=
  let e := k.elem d (ptrType ptr) x.i
  match x.scale with
  | some y => (k.env 0).narrow (ptrFmt ptr) e (readNat s.mem (s.placeAt y) 2, s.anyMarked (s.placeAt y) 2)
  | none => (e.1, e.2, 0)
/-- Elements written to their tarn places in order, a 4-bit one into its half of its byte. -/
def State.storedSpots (s : State) (k : Core) (ptr : Word) (d : VReg) (l : List Spot) : State :=
  l.foldl (fun t x =>
    let p := s.placeAt x.ea
    let v := (s.storeSpot k ptr d x).1
    let old := readNat t.mem p 1
    let b := if elemBits (ptrFmt ptr) = 4 then (if x.bit = 0 then old / 16 * 16 + v else old % 16 + 16 * v) else v
    t.wroteAt (writeNat t.mem p x.size b) p x.size false) s

/-! ## Numbers in binary32 (R183) -/

/-- The value of a finite binary32 code in units of 2^-149. -/
def value32 (a : Nat) : Int :=
  let e := a / 2 ^ 23 % 256
  let m : Nat := if e = 0 then a % 2 ^ 23 else (a % 2 ^ 23 + 2 ^ 23) * 2 ^ (e - 1)
  if a.testBit 31 then -(m : Int) else m
/-- A finite binary32 code. -/
def finite32 (a : Nat) : Prop := a < 2 ^ 32 ∧ a / 2 ^ 23 % 256 ≠ 255

end Sys2Proof.Machine
end

