-- ==== Sys2Proof/Certificates/Slice0/Obligations.lean ====
section
/-!
DEFINITION. The statements.
-/
open Sys2Proof Sys2Proof.Machine

/-! ## Integer instructions (R85-R95) -/

/-- (R86, R88, R90) Sums, differences and products, exact and then reduced to 64 bits; a `.w` result is the low 32 bits, sign-extended.
Every register field may be a queue register. (R87) Quotients truncate toward zero, the remainder takes the dividend's sign; by zero the
quotient is all ones and the remainder the dividend; nothing traps. -/
def Obligations.SumsProductsAndQuotients : Prop :=
  (
  ∀ (s : State) (g : Sel) (d a b : SReg) (im : BitVec 10) (lit : Word32),
    s.Writes2 (.add g d a b false) d a b (fun x y => BitVec.ofInt 64 (x.toInt + y.toInt)) ∧
    s.Writes2 (.add g d a b true) d a b (fun x y => BitVec.ofInt 64 (BitVec.ofInt 32 (x.toInt + y.toInt)).toInt) ∧
    s.Writes2 (.sub g d a b false) d a b (fun x y => BitVec.ofInt 64 (x.toInt - y.toInt)) ∧
    s.Writes2 (.sub g d a b true) d a b (fun x y => BitVec.ofInt 64 (BitVec.ofInt 32 (x.toInt - y.toInt)).toInt) ∧
    s.Writes2 (.mul g d a b 0) d a b (fun x y => BitVec.ofInt 64 (x.toInt * y.toInt)) ∧
    s.Writes2 (.mul g d a b 1) d a b (fun x y => BitVec.ofInt 64 (BitVec.ofInt 32 (x.toInt * y.toInt)).toInt) ∧
    s.Writes2 (.mul g d a b 2) d a b (fun x y => BitVec.ofInt 64 (x.toInt * y.toInt / 2 ^ 64)) ∧
    s.Writes2 (.mul g d a b 3) d a b (fun x y => BitVec.ofNat 64 (x.toNat * y.toNat / 2 ^ 64)) ∧
    s.Writes1 (.addi g d a im) d a (fun x => BitVec.ofInt 64 (x.toInt + im.toInt)) ∧
    s.Writes1 (.muli g d a im) d a (fun x => BitVec.ofInt 64 (x.toInt * im.toInt)) ∧
    s.Writes1 (.addk g d a false lit) d a (fun x => BitVec.ofInt 64 (x.toInt + lit.toInt)) ∧
    s.Writes1 (.addk g d a true lit) d a (fun x => BitVec.ofInt 64 (x.toInt + lit.toNat))) ∧
  (
  ∀ (s : State) (g : Sel) (d a b : SReg),
    s.Writes2 (.div g d a b 0) d a b (fun x y => if y = 0 then BitVec.allOnes 64 else BitVec.ofInt 64 (x.toInt.tdiv y.toInt)) ∧
    s.Writes2 (.div g d a b 1) d a b (fun x y => if y = 0 then BitVec.allOnes 64 else BitVec.ofNat 64 (x.toNat / y.toNat)) ∧
    s.Writes2 (.div g d a b 2) d a b (fun x y => if low32 y = 0 then BitVec.allOnes 64 else wide32 ((low32 x).tdiv (low32 y))) ∧
    s.Writes2 (.div g d a b 3) d a b
      (fun x y => if low32 y = 0 then BitVec.allOnes 64 else wide32 (x.toNat % 2 ^ 32 / (y.toNat % 2 ^ 32) : Nat)) ∧
    s.Writes2 (.rem g d a b 0) d a b (fun x y => if y = 0 then x else BitVec.ofInt 64 (x.toInt.tmod y.toInt)) ∧
    s.Writes2 (.rem g d a b 1) d a b (fun x y => if y = 0 then x else BitVec.ofNat 64 (x.toNat % y.toNat)) ∧
    s.Writes2 (.rem g d a b 2) d a b (fun x y => wide32 (if low32 y = 0 then low32 x else (low32 x).tmod (low32 y))) ∧
    s.Writes2 (.rem g d a b 3) d a b
      (fun x y => wide32 (if low32 y = 0 then low32 x else (x.toNat % 2 ^ 32 % (y.toNat % 2 ^ 32) : Nat))))

/-- (R86, R88) Shifts and rotates by the low 6 bits of the amount, of the low 32 bits by the low 5 in a `.w` form; smaller and larger.
(R86, R88, R89) Logic and bit fields, bit by bit: `v` is the word that the rule describes. -/
def Obligations.ShiftsExtremesAndBits : Prop :=
  (
  ∀ (s : State) (g : Sel) (d a b : SReg) (n : BitVec 6),
    s.Writes2 (.shl g d a b false) d a b (fun x y => BitVec.ofNat 64 (x.toNat * 2 ^ (y.toNat % 64))) ∧
    s.Writes2 (.shl g d a b true) d a b (fun x y => wide32 (x.toNat * 2 ^ (y.toNat % 32) : Nat)) ∧
    s.Writes2 (.shr g d a b false) d a b (fun x y => BitVec.ofNat 64 (x.toNat / 2 ^ (y.toNat % 64))) ∧
    s.Writes2 (.shr g d a b true) d a b (fun x y => wide32 (x.toNat % 2 ^ 32 / 2 ^ (y.toNat % 32) : Nat)) ∧
    s.Writes2 (.sra g d a b false) d a b (fun x y => BitVec.ofInt 64 (x.toInt / 2 ^ (y.toNat % 64))) ∧
    s.Writes2 (.sra g d a b true) d a b (fun x y => wide32 (low32 x / 2 ^ (y.toNat % 32))) ∧
    s.Writes2 (.rot g d a b false) d a b
      (fun x y => BitVec.ofNat 64 (x.toNat / 2 ^ (y.toNat % 64) + x.toNat * 2 ^ (64 - y.toNat % 64))) ∧
    s.Writes2 (.rot g d a b true) d a b
      (fun x y => wide32 (x.toNat % 2 ^ 32 / 2 ^ (y.toNat % 32) + x.toNat * 2 ^ (32 - y.toNat % 32) : Nat)) ∧
    s.Writes1 (.shli g d a false n) d a (fun x => BitVec.ofNat 64 (x.toNat * 2 ^ n.toNat)) ∧
    s.Writes1 (.shri g d a false n) d a (fun x => BitVec.ofNat 64 (x.toNat / 2 ^ n.toNat)) ∧
    s.Writes1 (.srai g d a false n) d a (fun x => BitVec.ofInt 64 (x.toInt / 2 ^ n.toNat)) ∧
    (n.toNat < 32 → s.Writes1 (.shli g d a true n) d a (fun x => wide32 (x.toNat * 2 ^ n.toNat : Nat))) ∧
    (n.toNat < 32 → s.Writes1 (.shri g d a true n) d a (fun x => wide32 (x.toNat % 2 ^ 32 / 2 ^ n.toNat : Nat))) ∧
    (n.toNat < 32 → s.Writes1 (.srai g d a true n) d a (fun x => wide32 (low32 x / 2 ^ n.toNat))) ∧
    s.Writes2 (.min g d a b false) d a b (fun x y => BitVec.ofInt 64 (min x.toInt y.toInt)) ∧
    s.Writes2 (.min g d a b true) d a b (fun x y => BitVec.ofNat 64 (min x.toNat y.toNat)) ∧
    s.Writes2 (.max g d a b false) d a b (fun x y => BitVec.ofInt 64 (max x.toInt y.toInt)) ∧
    s.Writes2 (.max g d a b true) d a b (fun x y => BitVec.ofNat 64 (max x.toNat y.toNat))) ∧
  (
  ∀ (s : State) (g : Sel) (d a b : SReg) (im : BitVec 10) (n : Bool) (f : BitVec 2),
    s.Writes2 (.and g d a b) d a b (fun x y => x &&& y) ∧
    s.Writes2 (.or g d a b) d a b (fun x y => x ||| y) ∧
    s.Writes2 (.xor g d a b) d a b (fun x y => x ^^^ y) ∧
    s.Writes2 (.andn g d a b) d a b (fun x y => x &&& ~~~y) ∧
    s.Writes1 (.andi g d a im) d a (fun x => x &&& im.signExtend 64) ∧
    s.Writes1 (.ori g d a im) d a (fun x => x ||| im.signExtend 64) ∧
    s.Writes1 (.xori g d a im) d a (fun x => x ^^^ im.signExtend 64) ∧
    s.Writes2 (.bfx g d a b n) d a b (fun x y =>
      let field := x.toNat / 2 ^ (y.toNat % 64)
      let len := if y.toNat / 64 % 64 = 0 then 64 else y.toNat / 64 % 64
      if n then BitVec.ofNat 64 (field % 2 ^ len) else (BitVec.ofNat len field).signExtend 64) ∧
    (s.clear (.bfi g d a b) = true → ∀ z x y k1 k2, (s.seen (.bfi g d a b)).take d = some (z, k1) → k1.take2 a b = some (x, y, k2) →
      ∀ v : Word, (∀ j < 64, v.getLsbD j =
          let lo := y.1.toNat % 64
          let len := if y.1.toNat / 64 % 64 = 0 then 64 else y.1.toNat / 64 % 64
          if lo ≤ j ∧ j < lo + len then x.1.getLsbD (j - lo) else z.1.getLsbD j) →
        s.Puts (.bfi g d a b) d k2 v (z.2 || x.2 || y.2)) ∧
    (s.clear (.bcnt g d a f) = true → ∀ x k, (s.seen (.bcnt g d a f)).take a = some (x, k) → ∀ v : Word,
      (f = 0 → if x.1 = 0 then v.toNat = 64 else v.toNat < 64 ∧ 2 ^ (63 - v.toNat) ≤ x.1.toNat ∧ x.1.toNat < 2 ^ (64 - v.toNat)) →
      (f = 1 → if x.1 = 0 then v.toNat = 64 else v.toNat < 64 ∧ x.1.toNat % 2 ^ v.toNat = 0 ∧ x.1.getLsbD v.toNat = true) →
      (f = 2 → v.toNat = (List.range 64).countP fun j => x.1.getLsbD j) →
      (f = 3 → ∀ j < 64, v.getLsbD j = x.1.getLsbD (63 - j)) →
        s.Puts (.bcnt g d a f) d k v x.2))

/-- (R59, R91) A compare writes 1 to its guard exactly where its condition holds, with the OR of the poison bits. -/
def Obligations.ComparesSetTheirGuard : Prop :=
  ∀ (s : State) (g : Sel) (c h : BitVec 3) (a b : SReg) (im : BitVec 10) (n v : Bool) (lit : Word32),
    (∀ x y k, s.clear (.cmp g c h a b) = true → (s.seen (.cmp g c h a b)).take2 a b = some (x, y, k) → (v = true ↔ holds c x.1 y.1) →
      s.Sets (.cmp g c h a b) h k v (x.2 || y.2)) ∧
    (∀ x k, s.clear (.cmpi g c h a im) = true → (s.seen (.cmpi g c h a im)).take a = some (x, k) →
      (v = true ↔ holds c x.1 (im.signExtend 64)) → s.Sets (.cmpi g c h a im) h k v x.2) ∧
    (∀ x k, s.clear (.cmpk g c h a n lit) = true → (s.seen (.cmpk g c h a n lit)).take a = some (x, k) →
      (v = true ↔ holds c x.1 (if n then lit.setWidth 64 else lit.signExtend 64)) → s.Sets (.cmpk g c h a n lit) h k v x.2)

/-- (R69, R90, R92, R93, R94) Selection by a guard, guard logic, literals and the tag of a fat pointer. -/
def Obligations.SelectionGuardsAndLiterals : Prop :=
  ∀ (s : State) (g : Sel) (d a b : SReg) (n : BitVec 3) (gd ga gb f : BitVec 3) (lit : Word32) (t : BitVec 4) (blg : BitVec 3),
    (s.clear (.sel g d a b n) = true → ∀ x y k, (s.seen (.sel g d a b n)).take2 a b = some (x, y, k) →
      s.Puts (.sel g d a b n) d k (if k.regs.guard n.toNat then x.1 else y.1) (x.2 || y.2 || k.regs.guardPoison n.toNat)) ∧
    (s.clear (.gop g gd ga gb f) = true →
      let k := s.seen (.gop g gd ga gb f)
      let p := k.regs.guard ga.toNat
      let q := k.regs.guard gb.toNat
      s.Sets (.gop g gd ga gb f) gd k
        ([p && q, p || q, p ^^ q, p && !q, p || !q, !(p && q), !(p || q), !(p ^^ q)].getD f.toNat false)
        (k.regs.guardPoison ga.toNat || k.regs.guardPoison gb.toNat)) ∧
    (s.clear (.lit g d 0 lit) = true → s.Puts (.lit g d 0 lit) d (s.seen (.lit g d 0 lit)) (lit.signExtend 64) false) ∧
    (s.clear (.lit g d 1 lit) = true → s.Puts (.lit g d 1 lit) d (s.seen (.lit g d 1 lit)) (lit.setWidth 64) false) ∧
    s.Writes1 (.lit g d 2 lit) d d (fun x => lit ++ x.setWidth 32) ∧
    s.Writes1 (.ptag g d a t blg) d a (fun x => t ++ blg ++ x.setWidth 57)

/-- (R95) A fat pointer advances by the bytes of its elements, its tag kept, where the new address stays below 2^57; an odd count of a
4-bit type, a count that is no whole number of blocks, a scaled raw pointer and an address out of range trap and write nothing. -/
def Obligations.FatPointersAdvance : Prop :=
  ∀ (s : State) (g : Sel) (d a b : SReg) (im : BitVec 10),
    (s.clear (.padd g d a b) = true → ∀ x y k v n, (s.seen (.padd g d a b)).take2 a b = some (x, y, k) →
      spanOf x.1 y.1.toInt = some n → 0 ≤ (x.1.toNat % 2 ^ 57 : Nat) + n → (x.1.toNat % 2 ^ 57 : Nat) + n < 2 ^ 57 →
      v.toNat = x.1.toNat / 2 ^ 57 * 2 ^ 57 + ((x.1.toNat % 2 ^ 57 : Nat) + n).toNat →
        s.Puts (.padd g d a b) d k v (x.2 || y.2)) ∧
    (s.clear (.paddi g d a im) = true → ∀ x k v n, (s.seen (.paddi g d a im)).take a = some (x, k) →
      spanOf x.1 im.toInt = some n → 0 ≤ (x.1.toNat % 2 ^ 57 : Nat) + n → (x.1.toNat % 2 ^ 57 : Nat) + n < 2 ^ 57 →
      v.toNat = x.1.toNat / 2 ^ 57 * 2 ^ 57 + ((x.1.toNat % 2 ^ 57 : Nat) + n).toNat →
        s.Puts (.paddi g d a im) d k v x.2) ∧
    (s.clear (.padd g d a b) = true → ∀ x y k, (s.seen (.padd g d a b)).take2 a b = some (x, y, k) →
      (s.Missteps (.padd g d a b) x.1 y.1.toInt)) ∧
    (s.clear (.paddi g d a im) = true → ∀ x k, (s.seen (.paddi g d a im)).take a = some (x, k) →
      (s.Missteps (.paddi g d a im) x.1 im.toInt))

/-! ## Control transfers, loops and frames (R75, R96-R101, R109) -/

/-- (R75, R96, R97) A taken transfer goes to its target, ends a loop that its target lies outside of, and takes 3 cycles of the task clock
at user level; `call` and `jr` link first. (R97) A `jr` to an address that is no multiple of 4 takes an alignment trap, one above 2^57 an
address fault, each with the address; the check of the alignment comes first. Before both, a poisoned address takes poison consumption with
the register's number, which kills the task. Nothing is written. -/
def Obligations.TransfersReachTheirTargets : Prop :=
  (
  ∀ (s : State) (g : Sel) (o : BitVec 22) (d a : SReg),
    s.Jumps (.br g o) (s.seen (.br g o)) (BitVec.ofInt 64 ((s.core s.cur).pc.toInt + 4 * o.toInt)) ∧
    s.Jumps (.call g o)
      { s.seen (.call g o) with regs := (s.seen (.call g o)).regs.setScalar 58 ((s.core s.cur).pc + 4) false }
      (BitVec.ofInt 64 ((s.core s.cur).pc.toInt + 4 * o.toInt)) ∧
    ∀ x k k', (s.seen (.jr g d a)).take a = some (x, k) → x.2 = false → x.1.toNat % 4 = 0 → x.1.toNat < 2 ^ 57 →
      k.give (s.owed d) d ((s.core s.cur).pc + 4) false = some k' → s.Jumps (.jr g d a) k' x.1) ∧
  (
  ∀ (s : State) (g : Sel) (d a : SReg) (x : Word × Bool) (k : Core), s.clear (.jr g d a) = true →
    (s.seen (.jr g d a)).take a = some (x, k) →
      (x.2 = true → (s.core s.cur).level = .user → ∃ t, exec (.jr g d a) s = .next t ∧ (t.core s.cur).killed = true ∧
        (t.core s.cur).level = .supervisor ∧ (t.core s.cur).pc = (s.core s.cur).csrs.xvec ∧
        (t.core s.cur).csrs.xpc = (s.core s.cur).pc &&& ~~~3 ∧ (t.core s.cur).csrs.xcause = 0x0E ∧
        (t.core s.cur).csrs.xval = a.setWidth 64 ∧ (t.core s.cur).regs = (s.core s.cur).regs) ∧
      (x.2 = false → x.1.toNat % 4 ≠ 0 → s.Traps (.jr g d a) 0x03 x.1) ∧
      (x.2 = false → x.1.toNat % 4 = 0 → 2 ^ 57 ≤ x.1.toNat → s.Traps (.jr g d a) 0x07 x.1))

/-- (R99) `loop` skips its body for a count of 0, else enters it with the count and the body's bounds; inside an active body it takes a
frame fault. (R75, R99) At the end of a loop's body an instruction in sequence, here `nop`, goes back to the body's first word with the
count reduced, for one cycle of the clock; with the count 1 the loop ends and execution goes on at `LEND`. Elsewhere it goes on with the
next word and the count stays. -/
def Obligations.LoopsOpenAndRepeat : Prop :=
  (
  ∀ (s : State) (g : Sel) (a : SReg) (l : BitVec 10) (x : Word × Bool) (k : Core), s.clear (.loop g a l) = true →
    (s.seen (.loop g a l)).take a = some (x, k) → x.2 = false →
      let i := Instr.loop g a l
      let pc := (s.core s.cur).pc
      let after := pc + BitVec.ofNat 64 (4 + 4 * l.toNat)
      (k.csrs.lcnt ≠ 0 → s.Traps i 0x14 0) ∧
      (k.csrs.lcnt = 0 → x.1 = 0 → s.Ends i k after) ∧
      (k.csrs.lcnt = 0 → x.1 ≠ 0 → k.inFrame = false → l ≠ 0 →
        ∃ k', exec i s = .next (s.setCore s.cur k') ∧ k'.pc = pc + 4 ∧ k'.csrs.lcnt = x.1 ∧
          k'.bare = ({ k with csrs := { k.csrs with lbeg := pc + 4, lend := after }, loopOn := true } : Core).bare)) ∧
  (
  ∀ (s : State), s.clear .nop = true → (s.core s.cur).inFrame = false → (s.core s.cur).level = .user →
    let k := s.core s.cur
    ∃ k', exec .nop s = .next (s.setCore s.cur k') ∧ k'.bare = (s.seen .nop).bare ∧
      k'.csrs.taskclk = k.csrs.taskclk + 1 ∧
      (k.loopOn = true → k.csrs.lcnt ≠ 0 → k.pc + 4 = k.csrs.lend →
        k'.csrs.lcnt = k.csrs.lcnt - 1 ∧ k'.pc = if k.csrs.lcnt = 1 then k.csrs.lend else k.csrs.lbeg) ∧
      (k.loopOn = false ∨ k.csrs.lcnt = 0 ∨ k.pc + 4 ≠ k.csrs.lend → k'.csrs.lcnt = k.csrs.lcnt ∧ k'.pc = k.pc + 4))

/-- (R100, R108) `rpt` opens a frame: ACT set, POS and RUN 0, its own fields in [21:0]; execution goes on with the next word, without the
loop's end check. (R100) Inside an open frame an instruction, here `addi`, is captured in execution 0 and moves on to the next place of
the block; at the block's end the next execution starts from its first word,
and after the last the frame is closed and execution goes on after the block. (R68, R100, R210) In execution j the word captured at the
place, alone or under its prefix, is issued with VD, VA and VB each replaced by the field plus j times its stagger, modulo 16, here for
forms of every kind of destination; a selector field, the scalar field of `vmov.bc`, the prefix's VC and every field of a scalar word stay. -/
def Obligations.FramesOpenAndReplay : Prop :=
  (
  ∀ (s : State) (g : Sel) (n : BitVec 6) (c x y z : BitVec 4), s.clear (.rpt g n c x y z) = true →
    ∃ k', exec (.rpt g n c x y z) s = .next (s.setCore s.cur k') ∧ k'.pc = (s.core s.cur).pc + 4 ∧
      k'.bare = ({ s.seen (.rpt g n c x y z) with frameOn := true } : Core).bare ∧
      k'.csrs.frm.toNat = 2 ^ 63 + n.toNat * 2 ^ 16 + c.toNat * 2 ^ 12 + x.toNat * 2 ^ 8 + y.toNat * 2 ^ 4 + z.toNat ∧
      k'.csrs.lcnt = (s.core s.cur).csrs.lcnt) ∧
  (
  ∀ (s : State) (g : Sel) (d a : SReg) (im : BitVec 10), s.clear (.addi g d a im) = true → (s.core s.cur).inFrame = true →
    d.toNat < 60 → a.toNat < 60 →
    let k := s.core s.cur
    let pos := k.csrs.frm.toNat / 2 ^ 44 % 16
    let run := k.csrs.frm.toNat / 2 ^ 32 % 64
    let len := k.csrs.frm.toNat / 2 ^ 12 % 16 + 1
    let n := if k.csrs.frm.toNat / 2 ^ 16 % 64 = 0 then 64 else k.csrs.frm.toNat / 2 ^ 16 % 64
    let fields := 2 ^ 63 + k.csrs.frm.toNat % 2 ^ 22
    ∃ k', exec (.addi g d a im) s = .next (s.setCore s.cur k') ∧
      (run = 0 → k'.frame = k.frame.setIfInBounds pos { word := (Instr.addi g d a im).word, pfx := none }) ∧
      (run ≠ 0 → k'.frame = k.frame) ∧
      (pos + 1 < len → k'.pc = k.pc + 4 ∧ k'.csrs.frm.toNat = fields + (pos + 1) * 2 ^ 44 + run * 2 ^ 32) ∧
      (pos + 1 = len → run + 1 < n → k'.csrs.frm.toNat = fields + (run + 1) * 2 ^ 32 ∧
        k'.pc = k.pc + 4 - BitVec.ofNat 64 k'.blockSize) ∧
      (pos + 1 = len → n ≤ run + 1 → k'.csrs.frm = 0 ∧ (k.csrs.lcnt = 0 → k'.pc = k.pc + 4))) ∧
  (
  ∀ (s : State) (g mk : Sel) (d a b v : VReg) (x y : SReg) (t : BitVec 4) (h c rm : BitVec 3) (f : BitVec 2) (im : BitVec 10) (z : Bool),
    let k := s.core s.cur
    let q := k.csrs.frm.toNat
    let run := q / 2 ^ 32 % 64
    let entry := k.frame.toArray.getD (q / 2 ^ 44 % 16) { word := 0, pfx := none }
    let d' : VReg := BitVec.ofNat 4 (d.toNat + run * (q / 2 ^ 8 % 16))
    let a' : VReg := BitVec.ofNat 4 (a.toNat + run * (q / 2 ^ 4 % 16))
    let b' : VReg := BitVec.ofNat 4 (b.toNat + run * (q % 16))
    k.streams = false → k.inFrame = true → run ≠ 0 →
    ∀ e ∈ [(Instr.vadd g d a b t, Instr.vadd g d' a' b' t), (.vfma g d a b t f, .vfma g d' a' b' t f),
        (.vcmp g h a b t c, .vcmp g h a' b' t c), (.vsel g d a b t h, .vsel g d' a' b' t h), (.vred g d a t f c, .vred g d' a' t f c),
        (.vmovBc g d x t, .vmovBc g d' x t), (.vpermIdx g d a b t, .vpermIdx g d' a' b' t), (.addi g x y im, .addi g x y im)],
      e.1.word?.isSome = true →
        (entry = { word := e.1.word, pfx := none } → fetch s = .ok e.2 s) ∧
        (∀ p, (Instr.vectorPrefix mk z rm v e.1.word).word? = some p → prefixFits e.1 rm v = true → entry = { word := e.1.word, pfx := some p } →
          fetch s = .ok (.vectorPrefix mk z rm v e.2.word) s))


/-! ## Checks before issue, traps and returns (R54, R77, R78, R103-R106, R339, R341, R342) -/

/-- (R32, R54, R85) A guarded-off instruction, whatever it is, is charged and goes on with the next word, and has no other effect: no
register, queue, flag or byte of memory changes, and no engine command is made. (R30, R32, R33, R371) What the issue itself does to a core
in no open frame: at user level `BUDGET` falls by one, the slice and the counts of open packets rise, the pair's instruction count too,
the energy by 15 pJ, and by 120 more for a vector instruction; the clock passes the interlock, up to the cycle in which the last register
that the instruction reads is ready, and nothing else changes. A guarded-off instruction adds its issue cycle. -/
def Obligations.GuardsAndCharges : Prop :=
  (
  ∀ (s : State) (i : Instr), i.word?.isSome = true → s.clearBut i (false, false) = true → s.Completes i (s.seen i) ∧
    ∃ t, exec i s = .next t ∧ (t.core s.cur).cyc = (s.seen i).cyc + 1) ∧
  (
  ∀ (s : State) (i : Instr), (s.core s.cur).awaited = [] →
    let k := s.core s.cur
    let reads := if guardOf i = 0 then sources i else rG (guardOf i) :: sources i
    let n := (reads.map k.readyAt).foldl Nat.max 0 - k.cyc
    let e := 15 + if 0x5C ≤ opNum i ∧ opNum i ≤ 0x70 then 120 else 0
    s.seen i =
      if k.level = .user then
        { k with
          cyc := k.cyc + n
          energy := k.energy + e
          slice := k.slice + 1
          outq := k.outq.map fun o => o.map fun p => if p.bySup then p else { p with count := p.count + 1 }
          group := { k.group with sinceCheck := k.group.sinceCheck + 1 }
          csrs := { k.csrs with budget := k.csrs.budget - 1, taskclk := k.csrs.taskclk + BitVec.ofNat 64 n } }
      else { k with cyc := k.cyc + n })

/-- (R32, R77, R78, R106) An instruction that fails a check before issue is not charged and has no effect: with `BUDGET` 0 it takes a
deadline fault, before every other check but the fetch; `eret` at user level, and a read or write of a control register that R107 does not allow at the level, take 0x02 with the word, whatever
the guard; at supervisor level that is a nested trap. (R77, R78) A
word that is no instruction traps as illegal, with the word, at the instruction, uncharged. -/
def Obligations.FailedChecksTrapBeforeIssue : Prop :=
  (
  let none_ : List Nat := [0x101, 0x102, 0x103, 0x104, 0x105, 0x109, 0x300, 0x301, 0x302, 0x303]
  let fixed_ : List Nat := [0x006, 0x007, 0x008, 0x009, 0x010, 0x011, 0x012, 0x013, 0x300, 0x301, 0x302, 0x303]
  let kept : List Nat := none_ ++ fixed_ ++ [0x000, 0x001, 0x018, 0x019, 0x01A, 0x01B, 0x100, 0x106, 0x107, 0x108]
  (∀ (s : State) (g : Sel) (d a : SReg) (c : BitVec 10) (i : Instr), i = .csrw g a c ∨ i = .csrx g d a c → i.word?.isSome = true →
    s.atBoundary = true → (s.core s.cur).level = .supervisor → illegalNow i (s.core s.cur) = none → c.toNat ∈ fixed_ →
    (s.core s.cur).csrs.saveptr.getLsbD 0 = false →
      ∃ t, exec i s = .next t ∧ (t.core s.cur).csrs.xcause = 0x02 ∧ (t.core s.cur).csrs.xval = i.word.setWidth 64 ∧
        (t.core s.cur).csrs.xstat = 3 ∧ (t.core s.cur).pc = (s.core s.cur).csrs.xvec ∧ (t.core s.cur).regs = (s.core s.cur).regs) ∧
  ∀ (s : State) (i : Instr), i.word?.isSome = true → s.atBoundary = true → (s.core s.cur).level = .user →
    ((s.core s.cur).csrs.budget = 0 → s.Refuses i 0x0A 0) ∧
    ((s.core s.cur).csrs.budget ≠ 0 → (s.core s.cur).longPacket = none → illegalNow i (s.core s.cur) = none →
      (∃ g, i = .eret g) ∨ (∃ g d c, i = .csrr g d c ∧ c.toNat ∈ none_) ∨ (∃ g d a c, (i = .csrw g a c ∨ i = .csrx g d a c) ∧ c.toNat ∈ kept) →
        s.Refuses i 0x02 (i.word.setWidth 64))) ∧
  (
  ∀ (s : State) (w : Word32), s.atBoundary = true → (s.core s.cur).level = .user → (s.core s.cur).csrs.budget ≠ 0 →
    (s.core s.cur).longPacket = none → s.Refuses (.illegalWord w) 0x01 (w.setWidth 64))

/-- (R103-R105) `trap n` at user level enters the handler: `XPC` is the address after it, `XCAUSE` 0x16, `XVAL` n, NEST and PP are
0, the level is supervisor and the pc `XVEC`; no general register, no byte of memory and nothing else of the device changes. That loop and
frame state does not act in the handler (log entry 14), and that a `trap` which ends a loop's body makes no end check (log entry 87), is
the model's choice. (R341) A trap
taken at supervisor level with BUSY clear first writes the nest image, whose slot 0 holds the new trap's address and which is the only
memory it changes; then BUSY is set, NEST and PP are 1, and the registers keep their values. -/
def Obligations.TrapsEnterTheHandler : Prop :=
  (
  ∀ (s : State) (g : Sel) (n : BitVec 10), s.clear (.trap g n) = true → (s.core s.cur).level = .user →
    let k := s.core s.cur
    ∃ k', exec (.trap g n) s = .next (s.setCore s.cur k') ∧ k'.pc = k.csrs.xvec ∧
      k'.bare = ({ s.seen (.trap g n) with
        level := .supervisor, wait := .none, loopOn := false, frameOn := false,
        group := { (s.seen (.trap g n)).group with stopAt := k.pc + 4 },
        csrs := { (s.seen (.trap g n)).csrs with
          xpc := (k.pc + 4) &&& ~~~3, xcause := 0x16, xval := n.setWidth 64, xstat := 0, nselIx := 0 } } : Core).bare) ∧
  (
  ∀ (s : State) (g : Sel) (n : BitVec 10), s.clear (.trap g n) = true → (s.core s.cur).level = .supervisor →
    (s.core s.cur).csrs.saveptr.getLsbD 0 = false → Memory.wf s.mem = true →
      let k := s.core s.cur
      let p := k.nestPlace s.cur
      ∃ t, exec (.trap g n) s = .next t ∧ (t.core s.cur).pc = k.csrs.xvec ∧ (t.core s.cur).level = .supervisor ∧
        (t.core s.cur).csrs.xstat = 3 ∧ (t.core s.cur).csrs.xcause = 0x16 ∧ (t.core s.cur).csrs.xval = n.setWidth 64 ∧
        (t.core s.cur).csrs.saveptr = k.csrs.saveptr ||| 1 ∧ (t.core s.cur).regs = k.regs ∧
        readNat t.mem p 8 = (k.pc + 4).toNat ∧ (∀ a, a < p ∨ p + 0x1000 ≤ a → readByte t.mem a = readByte s.mem a))

/-- (R105, R342) `eret` at supervisor level from a trap that was not nested, the task not killed: back to the level PP names at `XPC`,
BUSY cleared, loop and frame state acting again; no general register and no byte of memory changes. -/
def Obligations.EretReturns : Prop :=
  ∀ (s : State) (g : Sel), s.clear (.eret g) = true → (s.core s.cur).killed = false → (s.core s.cur).csrs.xstat.getLsbD 1 = false →
    let k := s.core s.cur
    s.Ends (.eret g)
      { s.seen (.eret g) with
        level := if k.csrs.xstat.getLsbD 0 then .supervisor else .user
        loopOn := true, frameOn := true
        nests := []
        csrs := { (s.seen (.eret g)).csrs with saveptr := k.csrs.saveptr &&& ~~~1 } }
      k.csrs.xpc

/-- (R27, R102) `halt` at user level, with no packet open, no engine command left, no side-log entry and no dirty, update-only or
travelling line of the core, ends the task normally; nothing of the device changes but the core. (R46, R102, R343) `halt` at supervisor
level, when nothing of the core is under way, ends the interrupted task: normally where `XCAUSE` is 0x16 or 0, which the handler may have
written, else as failed. -/
def Obligations.HaltEndsTheTask : Prop :=
  (
  ∀ (s : State) (g : Sel), s.clear (.halt g) = true → (s.core s.cur).level = .user → (s.core s.cur).openPacket = none →
    s.engineWork s.cur = false → (s.core s.cur).slog = [] → (s.core s.cur).loss = none →
    (∀ l ∈ s.l1Of s.cur, l.dirty = 0 ∧ l.updateOnly = false) → (∀ w ∈ s.flights, w.core ≠ s.cur) →
      ∃ k', exec (.halt g) s = .next (s.setCore s.cur k') ∧ k'.run = .ended false ∧ k'.regs = (s.core s.cur).regs ∧
        k'.csrs.budget = (s.core s.cur).csrs.budget - 1) ∧
  (
  ∀ (s : State) (g : Sel), s.clear (.halt g) = true → (s.core s.cur).level = .supervisor → (s.core s.cur).cmds = [] →
    (∀ x ∈ s.colls, x.issuer.core ≠ s.cur) → (s.core s.cur).slog = [] → (s.core s.cur).loss = none →
    (∀ l ∈ s.l1Of s.cur, l.dirty = 0 ∧ l.updateOnly = false) → (∀ w ∈ s.flights, w.core ≠ s.cur) →
      let k := s.core s.cur
      ∃ k', exec (.halt g) s = .next (s.setCore s.cur k') ∧ k'.regs = k.regs ∧ k'.level = .user ∧
        k'.run = .ended (!(k.csrs.xcause == 0x16 || k.csrs.xcause == 0)))

/-! ## Control registers (R106-R108) -/

/-- The control registers that hold a value of their own, as a read answers them: zero-extended, `EQUOTA` sign-extended (R106, R107).
(R377) A read of `NSEL` gives the chiplet's bits of the next window, its message bits in [31:16], its cached-network bits in [15:0] and
the window's number in [63:32], and moves to the window after it; after the last comes the first. (R175, R257) `QSTAT` gives the words in
each inbound queue, which queues hold an open packet and which have an error word at their head; `WMARKn` the place at which the filled
prefix of its channel's oldest copy ends, or what the last command of an idle channel left. -/
def Obligations.ControlRegistersAndWindowsRead : Prop :=
  (
  ∀ (s : State) (g : Sel) (d : SReg) (c : BitVec 10), s.clear (.csrr g d c) = true →
    let k := s.seen (.csrr g d c)
    let x := k.csrs
    let h := s.chip (chipOf s.cur)
    ∀ v, (c.toNat, v) ∈ [(0x000, x.taskclk), (0x001, x.budget.setWidth 64), (0x002, x.shape.setWidth 64), (0x003, x.fpctl.setWidth 64),
        (0x004, x.fpflags.setWidth 64), (0x005, x.b8fmt.setWidth 64), (0x006, BitVec.ofNat 64 s.cur), (0x007, x.rect),
        (0x009, BitVec.ofNat 64 (s.fabric / 2)), (0x00A, x.rngs0), (0x00B, x.rngs1), (0x018, x.lcnt), (0x019, x.lbeg), (0x01A, x.lend),
        (0x01B, x.frm), (0x100, x.asid.setWidth 64), (0x101, x.xpc), (0x102, x.xcause.setWidth 64), (0x103, x.xval), (0x104, x.xvec),
        (0x105, x.xstat.setWidth 64), (0x106, x.ebud.setWidth 64), (0x107, x.equota.signExtend 64), (0x108, x.bartmo.setWidth 64),
        (0x109, x.saveptr), (0x301, h.state.setWidth 64), (0x302, h.src.setWidth 64), (0x303, h.dir.setWidth 64)] →
      s.Puts (.csrr g d c) d k v false) ∧
  (
  ∀ (s : State) (g : Sel) (d : SReg) (c : BitVec 10) (v : Word), s.clear (.csrr g d c) = true →
    let k := s.seen (.csrr g d c)
    (c = 0x008 → v.toNat < 2 ^ 32 → (∀ q : Fin 4,
        v.toNat / 2 ^ (6 * q.val) % 64 = min k.inq[q].length 63 ∧ v.getLsbD (24 + q.val) = k.outq[q].isSome ∧
        v.getLsbD (28 + q.val) = k.inq[q].head?.any fun w => w.err) → s.Puts (.csrr g d c) d k v false) ∧
    ∀ q : Fin 4, c.toNat = 0x010 + q.val →
      (k.chan[q].cmds = [] → s.Puts (.csrr g d c) d k k.chan[q].mark false) ∧
      ∀ x l y, k.chan[q].cmds = x :: l → x.work = .copy y → 0 < y.len →
        let done := if x.progress < y.rows * y.len
          then x.progress / y.len * y.rowStride + x.progress % y.len * elemBits (ptrFmt y.dst) / 8
          else (y.rows - 1) * y.rowStride + y.rowBytes
        s.Puts (.csrr g d c) d k (BitVec.ofNat 64 (y.firstByte + done)) false) ∧
  (
  ∀ (s : State) (g : Sel) (d : SReg), s.clear (.csrr g d 0x300) = true →
    let k := s.seen (.csrr g d 0x300)
    let n := k.csrs.nselIx
    let h := s.chip (chipOf s.cur)
    let v := BitVec.ofNat 64 (n * 2 ^ 32 + h.nselMessage.toNat / 2 ^ (16 * n) % 2 ^ 16 * 2 ^ 16 + h.nselCached.toNat / 2 ^ (16 * n) % 2 ^ 16)
    ∀ k', ({ k with csrs := { k.csrs with nselIx := (n + 1) % 20 } } : Core).give (s.owed d) d v false = some k' →
      s.Completes (.csrr g d 0x300) k' ∧ exec (.nselRead g d) s = exec (.csrr g d 0x300) s)

/-- (R106-R108) A write keeps the bits of the register's width, without bits [1:0] of an address register; a must-be-zero bit set or a
reserved value traps as illegal with the value. `csrx` also reads the old value into D. A supervisor's write to loop or frame state takes
effect at the next `eret`: a loop or frame that acts in the handler ends at once (the model's choice: log entry 14). (R28, R32, R109) `step` closes the superstep: the next one opens in its compute section with the launch's
budget. -/
def Obligations.ControlRegistersAndBudgetWritten : Prop :=
  (
  ∀ (s : State) (g : Sel) (d a : SReg) (c : BitVec 10) (x : Word × Bool) (k k' : Core), x.2 = false → k' ∈ k.csrWrites c.toNat x.1 →
    (s.clear (.csrw g a c) = true → (s.seen (.csrw g a c)).take a = some (x, k) →
      (csrValueOk s.cur c.toNat x.1 = true → s.Completes (.csrw g a c) k') ∧
      (csrValueOk s.cur c.toNat x.1 = false → s.Traps (.csrw g a c) 0x01 x.1)) ∧
    (s.clear (.csrx g d a c) = true → (s.seen (.csrx g d a c)).take a = some (x, k) →
      (csrValueOk s.cur c.toNat x.1 = true → s.Puts (.csrx g d a c) d k' ((s.setCore s.cur k).csrValue s.cur c.toNat) false) ∧
      (csrValueOk s.cur c.toNat x.1 = false → s.Traps (.csrx g d a c) 0x01 x.1))) ∧
  (
  ∀ (s : State) (g : Sel), s.clear (.step g) = true →
    s.Completes (.step g)
      { s.seen (.step g) with sect := .compute, csrs := { (s.seen (.step g)).csrs with budget := (s.core s.cur).task.budget } })


/-! ## Memory instructions (R115-R132) -/

/-- (R7, R120, R139) Memory as bytes: writing `n` bytes keeps the canonical form, the bytes written read back little-endian, and every
other byte reads as before. (R25, R53, R55, R85) The register file: a register reads what was last written to it with its poison bit, a
write leaves every other register alone, s0 reads 0, guard 0 reads 1, and what is written to either is discarded. -/
def Obligations.ReadsGiveWhatWasWritten : Prop :=
  (
  ∀ (m : Memory) (a n v : Nat), Memory.wf m = true →
    Memory.wf (writeNat m a n v) = true ∧ readNat (writeNat m a n v) a n = v % 256 ^ n ∧
    (∀ i < n, readByte (writeNat m a n v) (a + i) = BitVec.ofNat 8 (v / 256 ^ i)) ∧
    ∀ x, x < a ∨ a + n ≤ x → readByte (writeNat m a n v) x = readByte m x) ∧
  (
  ∀ (r : Regs) (n m : Nat) (v : Word) (p b : Bool) (x : VReg) (y : BitVec 3) (w : BitVec 1024) (z : BitVec 128) (vp : BitVec 32),
    (n < 60 → m < 60 →
      (r.setScalar n v p).scalar m = (if m = n ∧ n ≠ 0 then v else r.scalar m) ∧
      (r.setScalar n v p).scalarPoison m = (if m = n ∧ n ≠ 0 then p else r.scalarPoison m)) ∧
    r.scalar 0 = 0 ∧ r.scalarPoison 0 = false ∧ r.guard 0 = true ∧ r.guardPoison 0 = false ∧ r.setScalar 0 v p = r ∧
    r.setGuard 0 b p = r ∧
    (n < 8 → m < 8 →
      (r.setGuard n b p).guard m = (if m = n ∧ n ≠ 0 then b else r.guard m) ∧
      (r.setGuard n b p).guardPoison m = (if m = n ∧ n ≠ 0 then p else r.guardPoison m)) ∧
    (∀ x', (r.setVec x w vp).vec x' = (if x' = x then w else r.vec x') ∧
      (r.setVec x w vp).vecPoison x' = if x' = x then vp else r.vecPoison x') ∧
    ∀ y', (r.setMask y z).mask y' = if y' = 0 then BitVec.allOnes 128 else if y' = y then z else r.mask y')

/-- (R118, R123) A load from a tarn gives the bytes, extended, and the poison of the words they lie in, and changes no byte of memory; the
core keeps in mind the releases that wrote them, for a later fence (R152). An acquire at `.core` scope does the same. (R117) The checks on an access, in their order, for a load: an address that is no multiple of the
size takes an alignment trap, then an address above 2^57 an address fault, each precise, with the address, and nothing is written. Before them,
a poisoned address takes poison consumption with the register's number, which kills the task. -/
def Obligations.TarnLoads : Prop :=
  (
  ∀ (s : State) (g : Sel) (d a : SReg) (o : BitVec 8) (z : BitVec 2) (x : Word × Bool) (k : Core) (p : Nat), x.2 = false → s.sound p →
    let n : Nat := 2 ^ z.toNat
    let ea := BitVec.ofInt 64 (x.1.toInt + o.toInt * (n : Nat))
    (s.clear (.ld g d a o z) = true → (s.seen (.ld g d a o z)).take a = some (x, k) → s.tarnAccess k ea n false = some p →
      s.Puts (.ld g d a o z) d (k.met (s.relsOf true 0 0 p n)) (s.loaded p n true) (s.anyMarked p n)) ∧
    (s.clear (.ldz g d a o z) = true → (s.seen (.ldz g d a o z)).take a = some (x, k) → s.tarnAccess k ea n false = some p →
      s.Puts (.ldz g d a o z) d (k.met (s.relsOf true 0 0 p n)) (s.loaded p n false) (s.anyMarked p n)) ∧
    (s.clear (.lda g d a 0 z) = true → (s.seen (.lda g d a 0 z)).take a = some (x, k) → s.tarnAccess k x.1 n false = some p →
      s.tags = [] → s.Puts (.lda g d a 0 z) d k (s.loaded p n true) (s.anyMarked p n))) ∧
  (
  ∀ (s : State) (g : Sel) (d a : SReg) (o : BitVec 8) (p : BitVec 3) (z : BitVec 2) (x : Word × Bool) (k : Core),
    let n : Nat := 2 ^ z.toNat
    let off := BitVec.ofInt 64 (x.1.toInt + o.toInt * (n : Nat))
    ∀ e ∈ [(Instr.ld g d a o z, off), (.ldz g d a o z, off), (.lda g d a p z, x.1)], s.clear e.1 = true → (s.seen e.1).take a = some (x, k) →
      (x.2 = true → (s.core s.cur).level = .user → ∃ t, exec e.1 s = .next t ∧ (t.core s.cur).killed = true ∧
        (t.core s.cur).level = .supervisor ∧ (t.core s.cur).pc = (s.core s.cur).csrs.xvec ∧ (t.core s.cur).csrs.xcause = 0x0E ∧
        (t.core s.cur).csrs.xval = a.setWidth 64 ∧ (t.core s.cur).regs = (s.core s.cur).regs) ∧
      (x.2 = false → e.2.toNat % n ≠ 0 → s.Traps e.1 0x03 e.2) ∧
      (x.2 = false → e.2.toNat % n = 0 → 2 ^ 57 ≤ e.2.toNat → s.Traps e.1 0x07 e.2))

/-- (R40, R119) A tag-checking load of a ring slot whose tag, unmarked, holds the sequence number in D loads like `ld`; where the tag holds another
and no landing with that number is on its way, it traps with the tag. -/
def Obligations.TagCheckingLoads : Prop :=
  ∀ (s : State) (g : Sel) (d a : SReg) (z : BitVec 2) (sgn : Bool) (x y : Word × Bool) (k : Core) (p j : Nat) (r : Ring),
    x.2 = false → y.2 = false → s.sound p → s.tags = [] →
    let i := if sgn then Instr.ldTag g d a z else .ldzTag g d a z
    let n : Nat := 2 ^ z.toNat
    s.clear i = true → (s.seen i).take2 d a = some (y, x, k) → s.tarnAccess k x.1 n false = some p →
    s.ringSlot k.task p = some (r, j) → s.anyMarked (r.base + 8 * j) 8 = false →
      (readNat s.mem (r.base + 8 * j) 8 = y.1.toNat → s.Puts i d k (s.loaded p n sgn) (s.anyMarked p n)) ∧
      (readNat s.mem (r.base + 8 * j) 8 ≠ y.1.toNat → (∀ l ∈ s.landings, l.2.1 = r.base + 8 * j → l.2.2 ≠ y.1) →
        s.Traps i 0x0C (BitVec.ofNat 64 (readNat s.mem (r.base + 8 * j) 8)))

/-- (R117, R121, R124) A store to a tarn writes the low bytes of D at the access address and no other byte of memory, and changes no
register. A release store at `.core` scope of a core with nothing under way does the same. -/
def Obligations.TarnStores : Prop :=
  ∀ (s : State) (g : Sel) (d a : SReg) (o : BitVec 8) (z : BitVec 2) (v x : Word × Bool) (k : Core) (p : Nat), x.2 = false →
    k.fenceTag = none → Memory.wf s.mem = true →
    let n : Nat := 2 ^ z.toNat
    (s.clear (.st g d a o z) = true → (s.seen (.st g d a o z)).take2 d a = some (v, x, k) →
      s.tarnAccess k (BitVec.ofInt 64 (x.1.toInt + o.toInt * (n : Nat))) n true = some p →
        ∃ m, s.Stored m p n v.1.toNat ∧ s.CompletesAs (.st g d a o z) (s.wroteAt m p n v.2) k) ∧
    (s.clear (.stl g d a 0 z) = true → (s.seen (.stl g d a 0 z)).take2 d a = some (v, x, k) → s.quiet = true →
      s.tarnAccess k x.1 n true = some p →
        ∃ m, s.Stored m p n v.1.toNat ∧ s.CompletesAs (.stl g d a 0 z) (s.wroteAt m p n v.2) k)

/-- (R125-R128) Atomics at a tarn, with clean data: the cell takes the result, D the old value sign-extended, which s0 discards. The operation is exact
modulo the cell's width, `min` and `max` compare as signed numbers or, with `.n`, unsigned; `acas` writes only where the cell holds D's
value. No other byte of memory changes. (R126, R127) The floating atomics at a tarn on values that are no poison: the old value goes to D,
the sum in binary32, the larger or the smaller number to the cell. -/
def Obligations.TarnAtomics : Prop :=
  (
  ∀ (s : State) (g : Sel) (d a b : SReg) (z : Bool),
    let w := if z then 64 else 32
    let sg (v : Nat) : Int := (BitVec.ofNat w v).toInt
    s.Atomic (.aadd g d a b z) d a b z (fun c v => (c + v) % 2 ^ w) ∧
    s.Atomic (.aand g d a b z) d a b z (fun c v => c &&& v) ∧
    s.Atomic (.aor g d a b z) d a b z (fun c v => c ||| v) ∧
    s.Atomic (.axor g d a b z) d a b z (fun c v => c ^^^ v) ∧
    s.Atomic (.amin g d a b false z) d a b z (fun c v => if sg c ≤ sg v then c else v) ∧
    s.Atomic (.amin g d a b true z) d a b z (fun c v => min c v) ∧
    s.Atomic (.amax g d a b false z) d a b z (fun c v => if sg v ≤ sg c then c else v) ∧
    s.Atomic (.amax g d a b true z) d a b z (fun c v => max c v) ∧
    s.Atomic (.axch g d a b z) d a b z (fun _ v => v) ∧
    (∀ (e x v : Word × Bool) (k : Core) (p : Nat), s.clear (.acas g d a b z) = true → (∃ k1,
        (s.seen (.acas g d a b z)).take d = some (e, k1) ∧ k1.take2 a b = some (x, v, k)) → e.2 = false → x.2 = false → v.2 = false →
      s.CleanCell k x.1 (w / 8) p →
        let c := readNat s.mem p (w / 8)
        ∃ m, s.Stored m p (w / 8) (if c = e.1.toNat % 2 ^ w then v.1.toNat else c) ∧
          s.PutsAs (.acas g d a b z) (if c = e.1.toNat % 2 ^ w then s.wroteAt m p (w / 8) false else s) d k
            (s.loaded p (w / 8) true) false)) ∧
  (
  ∀ (s : State) (g : Sel) (d a b : SReg),
    let clean (c v : Nat) : Prop := fp32.isPoison c = false ∧ fp32.isPoison v = false
    s.AtomicIf clean (.fadda g d a b) d a b false addF32 ∧
    s.AtomicIf clean (.famax g d a b) d a b false (maxNumber fp32) ∧
    s.AtomicIf clean (.famin g d a b) d a b false (minNumber fp32))

/-- (R129) The no-return reductions at a tarn, with clean data: the cell takes the result and no register changes. -/
def Obligations.TarnReductions : Prop :=
  ∀ (s : State) (g : Sel) (a b : SReg) (z : Bool),
    let w := if z then 64 else 32
    let sg (v : Nat) : Int := (BitVec.ofNat w v).toInt
    let clean (c v : Nat) : Prop := fp32.isPoison c = false ∧ fp32.isPoison v = false
    s.ReducesIf (fun _ _ => True) (.radd g a b z) a b z (fun c v => (c + v) % 2 ^ w) ∧
    s.ReducesIf (fun _ _ => True) (.rand g a b z) a b z (fun c v => c &&& v) ∧
    s.ReducesIf (fun _ _ => True) (.ror g a b z) a b z (fun c v => c ||| v) ∧
    s.ReducesIf (fun _ _ => True) (.rxor g a b z) a b z (fun c v => c ^^^ v) ∧
    s.ReducesIf (fun _ _ => True) (.rmin g a b false z) a b z (fun c v => if sg c ≤ sg v then c else v) ∧
    s.ReducesIf (fun _ _ => True) (.rmin g a b true z) a b z (fun c v => min c v) ∧
    s.ReducesIf (fun _ _ => True) (.rmax g a b false z) a b z (fun c v => if sg v ≤ sg c then c else v) ∧
    s.ReducesIf (fun _ _ => True) (.rmax g a b true z) a b z (fun c v => max c v) ∧
    s.ReducesIf clean (.rfadd g a b) a b false addF32 ∧
    s.ReducesIf clean (.rfmax g a b) a b false (maxNumber fp32) ∧
    s.ReducesIf clean (.rfmin g a b) a b false (minNumber fp32)

/-- (R118, R121, R140) Cached memory through the L1: a load whose bytes the core's line holds gives them with the line's marks and only
makes the line its set's most recently used; a clean store to a line the L1 holds writes there, with a dirty bit for each byte, and
changes no byte of memory and no L2 line. -/
def Obligations.L1Hits : Prop :=
  ∀ (s : State) (g : Sel) (d a : SReg) (o : BitVec 8) (z : BitVec 2) (v x : Word × Bool) (k : Core) (l : L1Line), x.2 = false →
    let n : Nat := 2 ^ z.toNat
    let ea := BitVec.ofInt 64 (x.1.toInt + o.toInt * (n : Nat))
    let t := s.setCore s.cur k
    let off := ea.toNat % 64
    let others := (s.l1Of s.cur).filter fun y => !(y.asid == k.csrs.asid && y.line == ea.toNat / 64)
    ea.toNat < 2 ^ 57 → ea.toNat % n = 0 → inWindow ea.toNat = false → k.slog = [] →
    t.l1Get s.cur (ea.toNat / 64) = some l → l.updateOnly = false → l.err = none →
    (s.l1Of s.cur).filter (fun y => y.asid == k.csrs.asid && y.line == ea.toNat / 64) = [l] →
      (s.clear (.ld g d a o z) = true → (s.seen (.ld g d a o z)).take a = some (x, k) →
        t.loadLock s.cur (t.spanAt s.cur ea.toNat n) = .go → (∀ j < n, l.valid.getLsbD (off + j) = true) →
          s.PutsAs (.ld g d a o z) (s.setL1 s.cur (l :: others)) d (k.met l.rels)
            ((BitVec.ofNat (8 * n) (l.data.toNat / 256 ^ off)).signExtend 64)
            ((List.range n).any fun j => l.marks.getLsbD ((off + j) / 4))) ∧
      (s.clear (.ldz g d a o z) = true → (s.seen (.ldz g d a o z)).take a = some (x, k) →
        t.loadLock s.cur (t.spanAt s.cur ea.toNat n) = .go → (∀ j < n, l.valid.getLsbD (off + j) = true) →
          s.PutsAs (.ldz g d a o z) (s.setL1 s.cur (l :: others)) d (k.met l.rels)
            ((BitVec.ofNat (8 * n) (l.data.toNat / 256 ^ off)).setWidth 64)
            ((List.range n).any fun j => l.marks.getLsbD ((off + j) / 4))) ∧
      (s.clear (.st g d a o z) = true → (s.seen (.st g d a o z)).take2 d a = some (v, x, k) → v.2 = false →
        t.storeLock s.cur (t.spanAt s.cur ea.toNat n) = .go →
        ((s.l1Of s.cur).filter fun y => y.line % 32 == ea.toNat / 64 % 32).length ≤ 4 →
          ∃ l', (∀ j < 64, l'.data.toNat / 256 ^ j % 256 =
              if off ≤ j ∧ j < off + n then v.1.toNat / 256 ^ (j - off) % 256 else l.data.toNat / 256 ^ j % 256) ∧
            (∀ j < 64, l'.dirty.getLsbD j = (decide (off ≤ j ∧ j < off + n) || l.dirty.getLsbD j) ∧
              l'.valid.getLsbD j = (decide (off ≤ j ∧ j < off + n) || l.valid.getLsbD j)) ∧
            s.CompletesAs (.st g d a o z) (s.setL1 s.cur (l' :: others)) k)

/-! ## Waiting (R34, R113, R172, R173, R177) -/

/-- (R32, R34, R113, R172, R173, R177) What cannot complete yet waits at its address and changes nothing: a read of an empty inbound
queue and a push into a queue whose 32 words have not left it, here by `addi`, `slp` without a wake or a message, `evw` of a counter that is
too low. That an instruction which waits has no effect at all, so that the rest of the device stays too, is the model's choice (log entry
63). (R33, R246) While an `mmst.v` still owes its register, instructions, here `addi`, go on until its nominal latency has run out; from then on
the core waits for it whatever its next instruction is. -/
def Obligations.InstructionsWait : Prop :=
  ∀ (s : State) (g : Sel) (d a b : SReg) (im : BitVec 10) (x y : Word × Bool) (k : Core) (p : Nat),
    (s.clear (.addi g d a im) = true → 60 ≤ a.toNat → (s.core s.cur).inq.toArray.getD (a.toNat - 60) [] = [] →
      s.Waits (.addi g d a im) .inQueue) ∧
    (s.clear (.addi g d a im) = true → 60 ≤ d.toNat → (s.seen (.addi g d a im)).take a = some (x, k) → x.2 = false →
      k.outq.toArray.getD (d.toNat - 60) none = none → 32 ≤ s.owed d → s.Waits (.addi g d a im) .outQueue) ∧
    (s.clear (.slp g) = true → (s.core s.cur).wake = false → (∀ q < 4, (s.core s.cur).inq.toArray.getD q [] = []) →
      s.Waits (.slp g) .sleep) ∧
    (s.clear (.evw g a b) = true → (s.seen (.evw g a b)).take2 a b = some (x, y, k) → x.2 = false → y.2 = false →
      s.tarnAccess k x.1 8 false = some p → s.sound p → s.anyMarked p 8 = false → s.tags = [] → readNat s.mem p 8 < y.1.toNat →
        s.Waits (.evw g a b) .awaitCounter) ∧
    ∀ i : Instr, (s.core s.cur).run = .running → (s.core s.cur).wait = .none → (s.core s.cur).group.fwd = .none →
      (s.core s.cur).group.pair = .none → i.word?.isSome = true →
      (((s.core s.cur).interlock i).lateNow = true → s.Waits i .engine) ∧
      (((s.core s.cur).interlock i).lateNow = false → (s.core s.cur).before i = .go → (s.core s.cur).guardFor i = (true, false) →
        i = .addi g d a im → a.toNat < 60 → d.toNat < 60 →
          ∃ k', exec i s = .next (s.setCore s.cur k') ∧ k'.matq = (s.core s.cur).matq ∧ k'.late = (s.core s.cur).late ∧
            k'.regs = (s.core s.cur).regs.setScalar d.toNat (BitVec.ofInt 64 (((s.core s.cur).regs.scalar a.toNat).toInt + im.toInt))
              ((s.core s.cur).regs.scalarPoison a.toNat))

/-! ## Fences and range operations (R152, R162-R166) -/

/-- (R124, R147, R151, R152, R162) Fences, for a core that has nothing to write back first and whose reads have met no release. `fence.acq` at `.pond` and wider drops the core's
clean L1 lines of released-mode memory and keeps every other line; `fence.rel` records the dirty lines of released-mode memory and
makes the core's later writes at a home slice or tarn release writes; `fence.full` does both. At `.core` scope the L1 stays. No
register and no byte of memory changes. -/
def Obligations.FencesActOnTheL1 : Prop :=
  ∀ (s : State) (g : Sel) (p : BitVec 3),
    let clean := (s.l1Of s.cur).all fun l => l.dirty == 0 && !l.updateOnly
    let keep (ls : List L1Line) : List L1Line := if p = 0 then ls else ls.filter fun l => !s.released l
    let tag : Option Scope := if p = 0 then none else some (scopeOf p)
    let met := (s.core s.cur).seen
    (s.clear (.fenceAcq g p) = true → met = [] → clean = true →
      ∃ t, s.withL1 t keep ∧ s.CompletesAs (.fenceAcq g p) t (s.seen (.fenceAcq g p))) ∧
    (s.clear (.fenceRel g p) = true → s.drained = true → s.hostClean (scopeOf p) → (scopeOf p = .sys → clean = true) →
      ∃ t, s.withL1 t (fun ls => if p = 0 then ls else ls.map fun l => if l.dirty != 0 && s.released l then { l with recorded := true } else l) ∧
        s.CompletesAs (.fenceRel g p) t { s.seen (.fenceRel g p) with fenceTag := tag }) ∧
    (s.clear (.fenceFull g p) = true → s.drained = true → s.hostClean (scopeOf p) → met = [] → clean = true →
      ∃ t, s.withL1 t keep ∧ s.CompletesAs (.fenceFull g p) t { s.seen (.fenceFull g p) with fenceTag := tag })

/-- (R163-R166) The range operations on a line of the core's L1 that the range meets: `wb` sends its dirty bytes on their way and keeps
the line, `inv` gives the line up after it, `dsc` sends only dirty bytes outside the range, and after them a drop on its way to the
home slices of the lines that lie wholly in it (R165).
Where the L1 holds none of the range nothing of it changes. No byte of memory and no register changes. (R163) A range operation on a range
that is too long or leaves the cached addresses takes an address fault with its first address; `inv` and `dsc` of a locked range take
0x0D. -/
def Obligations.RangeOperations : Prop :=
  (
  ∀ (s : State) (g : Sel) (a b : SReg) (x y : Word × Bool) (k : Core) (l : L1Line), x.2 = false → y.2 = false →
    let lo := x.1.toNat
    let n := y.1.toNat
    let first := (lo + 63) / 64
    let whole := (lo + n) / 64 - first
    let home (t : State) : State := if whole = 0 then t else { t with flights := t.flights ++
      [{ core := s.cur, part := k.task.part, asid := k.csrs.asid, line := first, mask := 0, data := 0, marks := 0, clears := 0,
         level := k.level, recorded := false, tagged := 0, rel := none, drop := whole }] }
    let ls := (s.l1Of s.cur).filter fun z => z.asid == k.csrs.asid && decide (n ≠ 0) && decide (z.line * 64 < lo + n) &&
      decide (lo < z.line * 64 + 64)
    let free := ∀ z ∈ (s.pond (pondOf s.cur)).locks, z.meets (cachedSpan k.task.part k.csrs.asid lo n) = false
    let rel : Option Rel := k.fenceTag.map fun sc => { core := s.cur, scope := sc }
    let sent (m : BitVec 64) (l' : Option L1Line) : State :=
      (if m = 0 then s else { s.meetGiven l with
        flights := s.flights ++ ({ l with dirty := m } : L1Line).writeBacks s.cur k.task.part rel }).l1Set s.cur l l'
    let kept := (if l.dirty = 0 then l else l.disturbed (l.err == some true)).cleaned
    n < 2 ^ 32 → lo < 2 ^ 57 → lo + n ≤ 2 ^ 57 → n = 0 ∨ lo + n ≤ 0xFFF * 2 ^ 45 →
      (s.clear (.wb g a b) = true → (s.seen (.wb g a b)).take2 a b = some (x, y, k) →
        (ls = [] → s.Completes (.wb g a b) k) ∧
        (ls = [l] → l.updateOnly = false →
          s.CompletesAs (.wb g a b) (sent l.dirty (some kept)) k)) ∧
      (s.clear (.inv g a b) = true → (s.seen (.inv g a b)).take2 a b = some (x, y, k) → free →
        (ls = [] → s.Completes (.inv g a b) k) ∧
        (ls = [l] → l.updateOnly = false → s.CompletesAs (.inv g a b) (sent l.dirty none) k)) ∧
      (s.clear (.dsc g a b) = true → (s.seen (.dsc g a b)).take2 a b = some (x, y, k) → free →
        (ls = [] → s.CompletesAs (.dsc g a b) (home s) k) ∧
        (ls = [l] → l.updateOnly = false → s.CompletesAs (.dsc g a b) (home (sent (l.dirty &&& ~~~insideMask l.line lo n) none)) k))) ∧
  (
  ∀ (s : State) (g : Sel) (a b : SReg) (x y : Word × Bool) (k : Core), x.2 = false → y.2 = false →
    let lo := x.1.toNat
    let n := y.1.toNat
    let bad := 2 ^ 32 ≤ n ∨ 2 ^ 57 ≤ lo ∨ 2 ^ 57 < lo + n ∨ (n ≠ 0 ∧ 0xFFF * 2 ^ 45 < lo + n)
    let locked := ∃ z ∈ (s.pond (pondOf s.cur)).locks, z.meets (cachedSpan k.task.part k.csrs.asid lo n) = true
    (s.clear (.wb g a b) = true → (s.seen (.wb g a b)).take2 a b = some (x, y, k) → bad → s.Traps (.wb g a b) 0x07 x.1) ∧
    (s.clear (.inv g a b) = true → (s.seen (.inv g a b)).take2 a b = some (x, y, k) →
      (bad → s.Traps (.inv g a b) 0x07 x.1) ∧ (¬ bad → locked → s.Traps (.inv g a b) 0x0D x.1)) ∧
    (s.clear (.dsc g a b) = true → (s.seen (.dsc g a b)).take2 a b = some (x, y, k) →
      (bad → s.Traps (.dsc g a b) 0x07 x.1) ∧ (¬ bad → locked → s.Traps (.dsc g a b) 0x0D x.1)))

/-! ## Barriers, events and launches (R112, R113, R167-R171) -/

/-- (R21, R113, R167, R169, R171) `bar` binds its sub-rectangle to the number, tells the instance's root of the arrival and waits after
itself; `bexp` sends the root a count; `evw` of a counter that has reached its value goes on; `evs` adds to the counter, which is then
tagged with the release. A broken descriptor or count traps and does none of it. -/
def Obligations.BarriersAndCounters : Prop :=
  ∀ (s : State) (g : Sel) (n : BitVec 4) (a b : SReg) (x y : Word × Bool) (k : Core) (p : Nat), x.2 = false →
    (s.clear (.bar g n a) = true → (s.seen (.bar g n a)).take a = some (x, k) →
      let kb : Core := { k with bind := k.bind.setIfInBounds n.toNat (x.1.setWidth 32) }
      (∀ r, subRect k.csrs.rect x.1 = some r → inRect r s.cur = true → s.quiet = true → s.rootBusy (kb.instanceOf n.toNat) = false →
        s.CompletesAs (.bar g n a) (s.toRoot (kb.instanceOf n.toNat) (evArrive, s.cur, 0, kb.limit))
          { kb with wait := .barrier n.toNat false, waitSince := s.fabric }) ∧
      (subRect k.csrs.rect x.1 = none → s.Traps (.bar g n a) 0x01 x.1)) ∧
    (s.clear (.bexp g n a) = true → (s.seen (.bexp g n a)).take a = some (x, k) →
      (x.1.toNat < 2 ^ 47 → s.rootBusy (k.instanceOf n.toNat) = false →
        s.CompletesAs (.bexp g n a) (s.toRoot (k.instanceOf n.toNat) (evExpect, s.cur, 0, x.1.toNat)) k) ∧
      (2 ^ 47 ≤ x.1.toNat → s.Traps (.bexp g n a) 0x01 x.1)) ∧
    (s.clear (.evw g a b) = true → (s.seen (.evw g a b)).take2 a b = some (x, y, k) → y.2 = false → s.tarnAccess k x.1 8 false = some p →
      s.sound p → s.anyMarked p 8 = false → s.tags = [] → s.l1Of s.cur = [] → y.1.toNat ≤ readNat s.mem p 8 → s.Completes (.evw g a b) k) ∧
    (s.clear (.evs g a b) = true → (s.seen (.evs g a b)).take2 a b = some (x, y, k) → y.2 = false → s.quiet = true →
      s.CleanCell k x.1 8 p →
        ∃ m t, s.Stored m p 8 (readNat s.mem p 8 + y.1.toNat) ∧ s.withL1 t (fun ls => ls) ∧
          s.CompletesAs (.evs g a b) { t.wroteAt m p 8 false with
            tags := [{ tarn := true, part := 0, asid := 0, addr := p, size := 8, rels := [{ core := s.cur, scope := .dev }] }] } k)

/-- (R112, R360) `lnch` of a record whose line is in L2, by a core with nothing under way: a full queue answers 0x8000000000000001 and
takes nothing; else D is the queue's next sequence number in 63 bits, the queue counts on and holds the record, released by this core. -/
def Obligations.LaunchesAreQueued : Prop :=
  ∀ (s : State) (g : Sel) (d a : SReg) (q : BitVec 3) (x : Word × Bool) (k : Core) (l : L2Line), s.clear (.lnch g d a q) = true →
    (s.seen (.lnch g d a q)).take a = some (x, k) → x.2 = false → x.1.toNat % 64 = 0 → x.1.toNat < 2 ^ 57 → inWindow x.1.toNat = false →
    inControl x.1.toNat = false → s.quiet = true → s.noPartials = true → s.homesFixed k.task.part → k.pages = [] → s.l2Get k.task.part k.csrs.asid (x.1.toNat / 64) = some l → l.marks = 0 →
    l.err = none → k.flit = none →
    let part := k.task.part
    let queue := (s.part part).queues.toArray.getD q.toNat LaunchQueue.reset
    let ready (va : Nat) := inWindow va = false ∧ inControl va = false ∧
      ∃ z, s.l2Get part (s.sequencer part q.toNat).asid (va / 64) = some z
    ∃ t, s.withL1 t (fun ls => ls) ∧
      (s.queueFull part q.toNat = true → s.PutsAs (.lnch g d a q) t d { k with fenceTag := none } 0x8000000000000001 false) ∧
      (s.queueFull part q.toNat = false → ready (s.slotAddr part q.toNat queue.next) →
        ready (bits (s.queueDesc part q.toNat 1) 3 54 * 8 + 8 * (queue.next % s.slots part q.toNat)) →
        let r := t.queueRecord part q.toNat (recordOf l.data.toNat) (some { core := s.cur, scope := .dev })
        s.PutsAs (.lnch g d a q) r.1 d { k with fenceTag := none } (BitVec.ofNat 64 (queue.next % 2 ^ 63)) false ∧
        ((r.1.part part).queues.toArray.getD q.toNat LaunchQueue.reset).next = queue.next + 1 ∧
        ((r.1.part part).queues.toArray.getD q.toNat LaunchQueue.reset).queued.getLast? = some
          { seq := queue.next, slot := queue.next % s.slots part q.toNat, words := recordOf l.data.toNat,
            rel := some { core := s.cur, scope := .dev } })

/-! ## Messages, sleeping and waking (R172-R177) -/

/-- (R155, R172-R174, R176, R177) `send` pushes a word; `send.e` and `send.rel` push the last and the packet leaves whole, to a core of the
launch rectangle or a ring of the launch, released where `send.rel` says so; `wake` sends a wake to a core of the rectangle and traps
for any other; `slp` takes the wake, or goes on where a message waits. -/
def Obligations.MessagesLeave : Prop :=
  ∀ (s : State) (g : Sel) (q : BitVec 2) (u a b : SReg) (r : BitVec 3) (x y : Word × Bool) (k k' : Core),
    let out : SReg := BitVec.ofNat 6 (60 + q.toNat)
    let old (k : Core) : List Word := match k.outq.toArray.getD q.toNat none with
      | some o => o.words
      | none => []
    let words (k : Core) : List (Word × Bool) := (old k ++ [y.1]).map fun w => (w, false)
    let packet (k : Core) (ring : Bool) (dst : Nat) (rel : Option Rel) : Packet :=
      { src := s.cur, queue := q.toNat, ring := ring, dst := dst, words := words k, err := false, rel := rel, part := k.task.part,
        left := false, reach := none }
    let left (k : Core) : Core := { k with outq := k.outq.setIfInBounds q.toNat none }
    let far (k : Core) (c : Nat) : Prop := k.sect = .compute ∧ c ≠ chipOf s.cur
    (s.clear (.send g q u b) = true → (s.seen (.send g q u b)).take b = some (y, k) → s.Puts (.send g q u b) out k y.1 y.2) ∧
    (s.clear (.sendE g q a b) = true → (s.seen (.sendE g q a b)).take2 a b = some (x, y, k) → x.2 = false →
      k.give (s.owed out) out y.1 y.2 = some k' →
        (x.1.toNat < Config.numCores → inRect k.rect x.1.toNat = true → ¬ far k (chipOf x.1.toNat) →
          s.CompletesAs (.sendE g q a b) { s with packets := s.packets ++ [packet k false x.1.toNat none] } (left k')) ∧
        (x.1.toNat < Config.numCores → inRect k.rect x.1.toNat = false → s.Traps (.sendE g q a b) 0x09 x.1) ∧
        (∀ p z, Config.numCores ≤ x.1.toNat → x.1.toNat < 2 ^ 57 → inWindow x.1.toNat = true →
          windowPlace (chipOf s.cur) x.1.toNat = some p → ¬ far k (placeChip p) →
          findFirst (fun r => r.base == p && r.part == k.task.part && r.queue == k.task.queue && r.seq == k.task.seq) s.rings = some z →
          z.takes (old k ++ [y.1]) = true →
            let n := ((old k ++ [y.1]).headD 0).toNat
            s.CompletesAs (.sendE g q a b) { s with
              packets := s.packets ++ [packet k true z.base none]
              landings := s.landings ++ [(0, z.base + 8 * (n % z.slots), BitVec.ofNat 64 n)] } (left k'))) ∧
    (s.clear (.sendRel g q a b r) = true → (s.seen (.sendRel g q a b r)).take2 a b = some (x, y, k) → x.2 = false → s.quiet = true →
      s.hostClean (relScope r) → k.give (s.owed out) out y.1 y.2 = some k' → x.1.toNat < Config.numCores → inRect k.rect x.1.toNat = true →
      ¬ far k (chipOf x.1.toNat) →
        ∃ t, s.withL1 t (fun ls => ls) ∧
          s.CompletesAs (.sendRel g q a b r)
            { t with packets := s.packets ++ [packet k false x.1.toNat (some { core := s.cur, scope := relScope r })] }
            { left k' with fenceTag := none }) ∧
    (s.clear (.wake g a) = true → (s.seen (.wake g a)).take a = some (x, k) → x.2 = false →
      (x.1.toNat < Config.numCores → inRect k.rect x.1.toNat = true →
        let wake : Packet :=
          { src := s.cur, queue := 4, ring := false, dst := x.1.toNat, words := [], err := false, rel := none, part := k.task.part,
            left := false, reach := none }
        s.CompletesAs (.wake g a) { s with packets := s.packets ++ [wake] } k) ∧
      (inRect k.rect x.1.toNat = false → s.Traps (.wake g a) 0x09 x.1)) ∧
    (s.clear (.slp g) = true →
      ((s.core s.cur).wake = true → s.Completes (.slp g) { s.seen (.slp g) with wake := false }) ∧
      (∀ n < 4, (s.core s.cur).inq.toArray.getD n [] ≠ [] → s.Completes (.slp g) { s.seen (.slp g) with wake := false }))

/-! ## Forwarding groups and pairs (R42-R46, R110, R111, R313) -/

/-- (R42, R44, R110, R111) `fwd` waits at itself as leader or follower of the descriptor's row; `echo` waits for its pair; outside a row
`fwd.rel` and `fwd.join` trap, outside a pair `echo.end` does. In a row a follower that executes `fwd.rel` fetches for itself, a
released core or a leader that executes `fwd.join` waits at it. `echo.end` ends the pair of a leader with nothing to compare. That the traps
outside a row or pair have `XVAL` 0 is the model's choice (log entry 13). -/
def Obligations.RowsAndPairs : Prop :=
  ∀ (s : State) (g : Sel) (a : SReg) (x : Word × Bool) (k : Core), x.2 = false →
    let k0 := s.core s.cur
    let ready (i : Instr) : Prop := k0.run = .running ∧ k0.wait = .none ∧ k0.awaited = [] ∧ k0.level = .user ∧
      k0.atStream.before i = .go ∧ k0.atStream.guardFor i = (true, false)
    (s.clear (.fwd g a) = true → (s.seen (.fwd g a)).take a = some (x, k) → ∀ r, subRect k.csrs.rect x.1 = some r →
      inRect r s.cur = true → r.2.2.1 ≤ 64 →
        s.Ends (.fwd g a) { k with
          group := { k.group with fwd := if xOf s.cur = r.1 then .leader else .follower, fwdDesc := x.1.setWidth 32, stream := [] }
          wait := .fwd (x.1.setWidth 32), waitSince := s.fabric } k0.pc) ∧
    (s.clear (.echo g a) = true → (s.seen (.echo g a)).take a = some (x, k) → k0.task.cls ≠ .prot → ∀ r,
      subRect k.csrs.rect x.1 = some r → inRect r s.cur = true → r.2.2 = (2, 1) →
        s.Ends (.echo g a) { k with wait := .echo (x.1.setWidth 32), waitSince := s.fabric } k0.pc) ∧
    (s.clear (.fwdRel g) = true → s.Traps (.fwdRel g) 0x01 0) ∧ (s.clear (.fwdJoin g) = true → s.Traps (.fwdJoin g) 0x01 0) ∧
    (s.clear (.echoEnd g) = true → s.Traps (.echoEnd g) 0x01 0) ∧
    (∀ e rest, ready (.fwdRel g) → k0.group.pair = .none → k0.group.fwd = .follower → k0.group.stream = e :: rest → k0.group.leaveAt = none →
      ∃ k', exec (.fwdRel g) s = .next (s.setCore s.cur k') ∧ k'.group.fwd = .released ∧ k'.group.stream = [] ∧ k'.regs = k0.regs ∧
        (k0.inLoop = false → k0.inFrame = false → k'.pc = e.pc + 4)) ∧
    (ready (.fwdJoin g) → k0.group.pair = .none → k0.group.fwd = .released →
      ∃ k', exec (.fwdJoin g) s = .next (s.setCore s.cur k') ∧ k'.group.fwd = .released ∧ k'.wait = .join ∧ k'.pc = k0.pc ∧
        k'.regs = k0.regs) ∧
    (ready (.fwdJoin g) → k0.group.pair = .none → k0.group.fwd = .leader →
      ∃ t, exec (.fwdJoin g) s = .next t ∧ (t.core s.cur).wait = .join ∧ (t.core s.cur).pc = k0.pc ∧ (t.core s.cur).regs = k0.regs ∧
        t.mem = s.mem) ∧
    (ready (.echoEnd g) → k0.group.fwd = .none → k0.group.pair = .leader → k0.task.cls ≠ .prot → k0.group.partner ≠ s.cur →
      k0.group.sinceCheck = 0 → k0.group.storeLog = [] → (s.core k0.group.partner).group.stream = [] →
        ∃ t, exec (.echoEnd g) s = .next t ∧ (t.core s.cur).group.pair = .none ∧ (t.core s.cur).regs = k0.regs ∧ t.mem = s.mem ∧
          ((s.core k0.group.partner).group.pair = .follower → (t.core k0.group.partner).group.stream.length = 1))

/-! ## Engine commands (R34, R35, R157, R169, R231-R300) -/

/-- (R34, R35, R157, R169, R237, R238, R239) `mma` and `mmsp` with a descriptor that passes the checks of R237: the command stands last in
the core's matrix queue, with read locks on its operands, a write lock on its output, and its output's bytes posted where PB is set. (R33,
R237, R245-R247) `mmld`, `mmst` and their `.v` forms with a control word that passes R245: the command stands last in the core's matrix
queue, with a lock on its tarn rows, or for a `.v` form its vector register's value; `mmst` posts its 128·w bytes where PB is set. -/
def Obligations.MatrixAndTileCommandsAreIssued : Prop :=
  (
  ∀ (s : State) (g : Sel) (a : SReg) (sparse : Bool) (lit : Option Word32) (x : Word × Bool) (k : Core) (v : Nat),
    let i : Instr := match sparse, lit with
      | false, none => .mma g a
      | false, some l => .mmaClk g a l
      | true, none => .mmsp g a
      | true, some l => .mmspClk g a l
    let d := mmFields sparse v
    let span (ptr : Word) (n : Nat) : List Span := [(s.setCore s.cur k).spanAt s.cur (ptr.toNat % 2 ^ 57) n]
    let set (t : Nat) : Bool := !b8Unset k.csrs.b8fmt t
    s.clear i = true → (s.seen i).take a = some (x, k) → x.2 = false → s.still = true → s.descriptorAt k x.1 64 = some v →
    mmBroken sparse v = false → set (ptrFmt d.aptr) = true → set (ptrFmt d.bptr) = true → (d.hasC = true → set d.out.toNat = true) →
    s.operandOk k d.aptr d.aSpan d.m d.aStride (d.k * elemBits (ptrFmt d.aptr) / 8) = true → alignedPtr d.aptr d.astr = true →
    s.operandOk k d.bptr d.bSpan d.bRows d.bStride d.bRow = true →
    alignedPtr d.bptr d.bstr = true → (d.hasC = true →
      s.operandOk k d.cptr d.cSpan d.m d.cStride (d.n * elemBits d.out.toNat / 8) = true ∧ alignedPtr d.cptr d.cstr = true) →
      s.Enqueues i k lit k.matq (fun l => { k with matq := l })
        ([(d.aptr, d.aSpan, true), (d.bptr, d.bSpan, true)] ++ if d.hasC then [(d.cptr, d.cSpan, false)] else [])
        ([(span d.aptr d.aSpan, false, false), (span d.bptr d.bSpan, false, false)] ++
          if d.hasC then [(span d.cptr d.cSpan, true, false)] else [])
        none (if mmPost v then some (mmBar v, d.m * d.n * elemBits d.out.toNat / 8, true) else none) (.mm d)) ∧
  (
  ∀ (s : State) (g : Sel) (a b : SReg) (t store : Bool) (vreg : Option VReg) (x y : Word × Bool) (k : Core),
    let i : Instr := match store, vreg with
      | false, none => .mmld g a b t
      | false, some c => .mmldV g a b c t
      | true, none => .mmst g a b t
      | true, some c => .mmstV g a b c t
    let n := y.1.toNat
    let fmt := n % 16
    let stride := n / 2 ^ 12 % 2 ^ 20
    let d : TileDesc :=
      { store := store, tile := if t then 1 else 0, addr := x.1, stride := stride, fmt := BitVec.ofNat 4 fmt, sat := n.testBit 6, vreg := vreg,
        data := (match vreg with | some v => k.regs.vec v | none => 0),
        poison := (match vreg with | some v => k.regs.vecPoison v | none => 0), void := false }
    let size := 31 * d.rowStride + 4 * elemBits fmt
    s.clear i = true → (s.seen i).take2 a b = some (x, y, k) → x.2 = false → y.2 = false →
    ctlBroken y.1 store vreg.isSome = false → b8Unset k.csrs.b8fmt fmt = false →
    (match vreg with
      | some _ => x.1.toNat < 32 ∧ x.1.toNat % (32 / elemBits fmt) = 0
      | none => x.1.toNat < 2 ^ 57 ∧ inWindow x.1.toNat = true ∧ s.operandOk k x.1 size 32 d.rowStride (4 * elemBits fmt) = true ∧
        x.1.toNat % Nat.max 1 (elemBits fmt / 8) = 0 ∧ stride % Nat.max 1 (elemBits fmt / 8) = 0 ∧
        (store = true → stride ≠ 0 → 4 * elemBits fmt ≤ stride)) →
      s.Enqueues i k none k.matq (fun l => { k with matq := l }) []
        (if vreg.isSome then [] else [([(s.setCore s.cur k).spanAt s.cur x.1.toNat size], store, false)])
        none (if n.testBit 11 then some (n / 2 ^ 7 % 16, 128 * elemBits fmt, true) else none) (.tile d))

/-- (R34, R35, R38, R157, R169, R250-R254, R258, R260) `cpy` with a descriptor that passes the checks of R253: the command stands last in
its channel, with a read lock on its source and a write lock on its destination and, for a ring landing, on its tag, which is
announced; its bytes are posted, or left to a receiver's `bexp`, as BM says. -/
def Obligations.CopiesAreIssued : Prop :=
  ∀ (s : State) (g : Sel) (a b : SReg) (up : Bool) (h : BitVec 2) (lit : Option Word32) (x y : Word × Bool) (k : Core) (v : Nat),
    let i : Instr := match lit with
      | none => .cpy g a b up h
      | some l => .cpyClk g a b up h l
    let ring := if copyRing v then (s.setCore s.cur k).ringAt ((copyFields v up).dst.toNat % 2 ^ 57) else none
    let d := match ring with
      | some r => { copyFields v up with ring := some (y.1, r.slots, r.size) }
      | none => copyFields v up
    let src := (s.setCore s.cur k).spanAt s.cur (d.src.toNat % 2 ^ 57) d.srcSpan
    let dst := (s.setCore s.cur k).spanAt s.cur d.firstByte d.dstSpan
    let scaled := decide (ptrBlg d.src ≠ 0)
    let ch := k.chan.toArray.getD h.toNat Channel.reset
    let bytes := d.dataBytes + if ring.isSome then 8 else 0
    s.clear i = true → (s.seen i).take2 a b = some (x, y, k) → x.2 = false → y.2 = false → s.still = true →
    s.descriptorAt k x.1 64 = some v → copyBroken v (b != 0) = false → s.apart k d.src d.srcSpan (BitVec.ofNat 64 d.firstByte) d.dstSpan = true →
    (∀ r, ring = some r → s.apart k d.src d.srcSpan (d.dst + BitVec.ofNat 64 (8 * (y.1.toNat % r.slots))) 8 = true) →
    b8Unset k.csrs.b8fmt (ptrFmt d.src) = false → b8Unset k.csrs.b8fmt (ptrFmt d.dst) = false →
    (if scaled then s.operandOk k d.src d.srcSpan 1 0 d.srcSpan
      else s.operandOk k d.src d.srcSpan d.rows d.srcStride (d.len * elemBits (ptrFmt d.src) / 8)) = true → (if scaled then alignedPtr d.src 0 = true ∧ d.src.toNat % 2 = 0 else alignedPtr d.src d.sstr = true) →
    s.operandOk k d.dst d.dstSpan d.rows d.rowStride d.rowBytes = true → alignedPtr d.dst d.dstr = true → d.firstByte < 2 ^ 57 →
    (copyRing v = true → ∃ r, ring = some r ∧ y.1 ≠ BitVec.allOnes 64 ∧ d.dataBytes ≤ r.size) →
      s.Enqueues i k lit ch.cmds (fun l => { k with chan := k.chan.setIfInBounds h.toNat { ch with cmds := l } })
        [(d.src, d.srcSpan, true), (d.dst, d.dstSpan, false)]
        [([src], false, true), (match ring with
          | some r => [dst, tarnSpan (r.tagPlace y.1.toNat) 8]
          | none => [dst], true, true)]
        (ring.map fun r => (r.tagPlace y.1.toNat, y.1))
        (if copyBm v = 0 then none else some (copyBar v, bytes, decide (copyBm v = 1))) (.copy d)

/-- (R34, R35, R157, R169, R281, R283, R285-R288, R291, R297-R299) `tload`, `teval` and `tlv` with operands that pass their checks: the
command stands last in the core's threshold queue, with its locks on tarn ranges and columns, and its bytes posted where PB is set. -/
def Obligations.ThresholdCommandsAreIssued : Prop :=
  ∀ (s : State) (g : Sel) (a b : SReg) (lit : Option Word32) (x y : Word × Bool) (k : Core) (v : Nat), x.2 = false → y.2 = false →
    s.latent = [] →
    let pond := pondOf s.cur
    let span (ptr : Word) (n : Nat) : List Span := [(s.setCore s.cur k).spanAt s.cur (ptr.toNat % 2 ^ 57) n]
    let enqueued (i : Instr) := s.Enqueues i k lit k.thrq (fun l => { k with thrq := l }) []
    let word (n : Nat) (w : Word) (stride : Nat) : Prop :=
      inWindow (w.toNat % 2 ^ 57) = true ∧ s.operandOk k w n 1 0 n = true ∧ w.toNat % 4 = 0 ∧ stride % 4 = 0
    (lit = none → s.clear (.tload g a b) = true → (s.seen (.tload g a b)).take2 a b = some (x, y, k) →
      let n := y.1.toNat
      let d : TloadDesc := { addr := x.1, row0 := n / 2 ^ 26 % 64, nr := n / 2 ^ 20 % 64 + 1, col0 := n / 2 ^ 15 % 32,
                             nc := n / 2 ^ 10 % 32 + 1, clr := n.testBit 4 }
      let size := 16 * d.nr * d.nc
      x.1.toNat < 2 ^ 57 → inWindow x.1.toNat = true → x.1.toNat % 16 = 0 → s.operandOk k x.1 size 1 0 size = true → n < 2 ^ 32 → n % 16 = 0 →
      (n.testBit 9 = false → n / 2 ^ 5 % 16 = 0) → d.row0 + d.nr ≤ 64 → d.col0 + d.nc ≤ 32 → d.col0 + d.nc ≤ k.columns s.cur →
        enqueued (.tload g a b) [(span x.1 size, false, false), (columnSpans k.rect pond d.col0 d.nc, true, false)] none
          (if n.testBit 9 then some (n / 2 ^ 5 % 16, size, true) else none) (.tload d)) ∧
    (let i : Instr := match lit with
      | none => .teval g a
      | some l => .tevalClk g a l
    let d := tevalFields v
    s.clear i = true → (s.seen i).take a = some (x, k) → s.descriptorAt k x.1 64 = some v → tevalBroken v (k.columns s.cur) = false →
      s.apart k d.fptr d.fSpan d.lptr d.lSpan = true → word d.fSpan d.fptr d.fstr → word d.lSpan d.lptr d.lstr →
        enqueued i [(span d.fptr d.fSpan, false, false), (span d.lptr d.lSpan, true, false),
            (columnSpans k.rect pond d.col0 d.nc, false, false)] none
          (if (dword v 3).testBit 10 then some (dword v 3 / 2 ^ 6 % 16, 4 * d.ns * d.nc, true) else none) (.teval d)) ∧
    (let d := tlvFields v
    lit = none → s.clear (.tlv g a) = true → (s.seen (.tlv g a)).take a = some (x, k) → s.descriptorAt k x.1 64 = some v →
      tlvBroken v = false → s.apart k d.optr (4 * d.ns) d.iptr d.iSpan = true → s.apart k d.optr (4 * d.ns) d.vptr d.vSpan = true →
      word d.iSpan d.iptr d.istr → word d.vSpan d.vptr 0 → word (4 * d.ns) d.optr 0 →
        enqueued (.tlv g a) [(span d.iptr d.iSpan, false, false), (span d.vptr d.vSpan, false, false), (span d.optr (4 * d.ns), true, false)]
          none (if (dword v 4).testBit 10 then some (dword v 4 / 2 ^ 6 % 16, 4 * d.ns, true) else none) (.tlv d))

/-- (R35, R157, R169, R178, R179, R265, R274) `coll` with a descriptor, member list and handle that pass R274, both lists in lines that L2
holds: the command is the slot's next, waits for its match, and holds a read lock on SRC and a write lock on DST; DST's bytes are posted
where PB is set, and the core's L1 lines over SRC are written back, those over DST given up too. A start offset leaves it to the core until
its moment. (R179, R257, R262, R276) The queries of a copy channel and of a handle, those that acquire by a core whose L1 has nothing to
write back, which gives up its lines of released-mode memory: `cpyq.wm` the bytes moved, `cpyq.out` the commands in the channel, `cpyq.st` completions,
CANC and whether it is empty, clearing CANC; `collq.st` the status of the handle's last command, `collq.done` whether none is active. A
handle that does not pass takes 0x11. -/
def Obligations.CollectivesAndQueries : Prop :=
  (
  ∀ (s : State) (g : Sel) (a b : SReg) (lit : Option Word32) (x y : Word × Bool) (k : Core) (l m : L2Line) (start : Option Word)
    (slot : Nat) (hd : Handle),
    let i : Instr := match lit with
      | none => .coll g a b
      | some w => .collClk g a b w
    let v := l.data.toNat
    let list := collWord v 2
    let n := (collFields v []).count
    let d := collFields v ((List.range n).map fun j => m.data.toNat / 2 ^ (8 * (list % 64) + 16 * j) % 2 ^ 16)
    let p := k.task.part
    let src := d.src.toNat % 2 ^ 57
    let dst := d.dst.toNat % 2 ^ 57
    let bytes := elemBits (ptrFmt d.src) / 8
    let pb := (collWord v 7).testBit 7
    let count := if pb then some (collWord v 7 % 16, d.dstBytes, true) else none
    s.clear i = true → (s.seen i).take2 a b = some (x, y, k) → x.2 = false → y.2 = false →
    s.quietBut (fun z => z.asid == k.csrs.asid && (z.line == x.1.toNat / 64 || z.line == list / 64)) = true → s.noPartials = true →
    s.homesFixed p → k.pages = [] → x.1.toNat % 64 = 0 → x.1.toNat < 2 ^ 57 → inWindow x.1.toNat = false → inControl x.1.toNat = false →
    s.l2Get p k.csrs.asid (x.1.toNat / 64) = some l → l.marks = 0 → meshOk v = true → inWindow list = false → inControl list = false →
    list % 64 + 2 * n ≤ 64 → s.l2Get p k.csrs.asid (list / 64) = some m → m.marks = 0 →
    l.err = none → m.err = none → k.flit = none → collBroken v d = false →
    src + d.srcBytes ≤ 2 ^ 57 - 2 ^ 45 → src % bytes = 0 → dst + d.dstBytes ≤ 2 ^ 57 - 2 ^ 45 → dst % bytes = 0 →
    (s.setCore s.cur k).handlePass s.cur y.1 = some (slot, hd) →
    hd.base ≤ src → src + d.srcBytes ≤ hd.base + hd.len → hd.base ≤ dst → dst + d.dstBytes ≤ hd.base + hd.len →
    (d.members.filter fun z => z == (s.part p).self).length = 1 →
    (∀ z ∈ d.members, (s.part p).peers.any (fun e => e.num == z) = true ∧ (d.members.filter fun w => w == z).length = 1) → d.layoutFault = false →
    k.startAt lit = some start →
    (s.colls.filter fun z => z.issuer.core == s.cur && !s.kept z.issuer && z.active).length < 8 →
    (start = none → s.springColls p ((s.part p).homeSpring src) < 64) → s.lockSpace 2 = true → s.postFree k count = true →
      let r := ((s.ranged k d.src d.srcBytes true).ranged k d.dst d.dstBytes false).registered k [([cachedSpan p k.csrs.asid src d.srcBytes], false, false),
        ([cachedSpan p k.csrs.asid dst d.dstBytes], true, false)] none count
      let cmd : Coll := { id := s.dev.cmd + 1, issuer := s.issuerOf k, addr := x.1, handle := y.1, slot := slot, ordinal := hd.colls + 1,
                          desc := d, start := start, moment := false, count := r.2, handed := start.isNone, state := .waiting, own := none, sent := [],
                          written := [], bytes := 0, held := none, report := none }
      s.CompletesAs i { r.1.setHandle p slot { hd with colls := hd.colls + 1 } with colls := s.colls ++ [cmd] } k) ∧
  (
  ∀ (s : State) (g : Sel) (d a : SReg) (h : BitVec 2) (x : Word × Bool) (k : Core),
    let keep (acquires : Bool) (ls : List L1Line) : List L1Line := if acquires then ls.filter fun l => !s.released l else ls
    let ch (k : Core) : Channel := k.chan.toArray.getD h.toNat Channel.reset
    (s.clear (.cpyqWm g d h) = true →
      let k := s.seen (.cpyqWm g d h)
      s.Puts (.cpyqWm g d h) d k (BitVec.ofNat 64 (match (ch k).cmds with
        | { work := .copy c, progress := n, .. } :: _ => n * elemBits (ptrFmt c.dst) / 8
        | _ => (ch k).bytes)) false) ∧
    (s.clear (.cpyqOut g d h) = true →
      s.Puts (.cpyqOut g d h) d (s.seen (.cpyqOut g d h)) (BitVec.ofNat 64 (ch (s.seen (.cpyqOut g d h))).cmds.length) false) ∧
    (s.clear (.cpyqSt g d h) = true → s.cleanL1 = true →
      let k := s.seen (.cpyqSt g d h)
      ∃ t, s.withL1 t (keep true) ∧ s.PutsAs (.cpyqSt g d h) t d { k with chan := k.chan.setIfInBounds h.toNat { ch k with cancelled := false } }
        (BitVec.ofNat 64 ((ch k).ended.toNat * 2 ^ 32 + (if (ch k).cancelled then 2 else 0) + if (ch k).cmds = [] then 1 else 0)) false) ∧
    (s.clear (.collqSt g d a) = true → (s.seen (.collqSt g d a)).take a = some (x, k) → x.2 = false → s.cleanL1 = true →
      let l := (s.setCore s.cur k).onHandle s.cur x.1
      (∀ e, (s.setCore s.cur k).handlePass s.cur x.1 = some e → ∃ t, s.withL1 t (keep ((l.getLast?.map fun c => c.state) == some .complete)) ∧
        s.PutsAs (.collqSt g d a) t d k (BitVec.ofNat 64 (match l.getLast? with
        | some c => c.bytes % 2 ^ 32 * 2 ^ 32 + l.length % 2 ^ 16 * 2 ^ 16 + c.state.code
        | none => 0)) false) ∧
      ((s.setCore s.cur k).handlePass s.cur x.1 = none → s.Traps (.collqSt g d a) 0x11 x.1)) ∧
    (s.clear (.collqDone g d a) = true → (s.seen (.collqDone g d a)).take a = some (x, k) → x.2 = false → s.cleanL1 = true →
      let l := (s.setCore s.cur k).onHandle s.cur x.1
      (∀ e, (s.setCore s.cur k).handlePass s.cur x.1 = some e → ∃ t, s.withL1 t (keep (!l.any Coll.active)) ∧
        s.PutsAs (.collqDone g d a) t d k (if l.any Coll.active then 0 else 1) false) ∧
      ((s.setCore s.cur k).handlePass s.cur x.1 = none → s.Traps (.collqDone g d a) 0x11 x.1)))


/-! ## Numbers and elements (R183-R209, R216, R217, R224) -/

/-- (R183, R189, R216) Rounding: of m/2^k the mode toward zero takes the integer below, the directed modes the one toward their side, nearest
the closest with ties to the even one; what is exact is kept without a flag. So binary32 sums, differences and products that are
representable come out exact in every mode, with no flag. -/
def Obligations.RoundingIsCorrect : Prop :=
  (∀ (mode : Mode) (neg : Bool) (m k : Nat),
    let q := (roundShift mode neg m k false).1
    ((roundShift mode neg m k false).2 = true ↔ m % 2 ^ k ≠ 0) ∧ (m % 2 ^ k = 0 → q = m / 2 ^ k) ∧
    (mode = 2 → q = m / 2 ^ k) ∧ (m % 2 ^ k ≠ 0 → mode = 3 → q = m / 2 ^ k + if neg then 1 else 0) ∧
    (m % 2 ^ k ≠ 0 → mode = 4 → q = m / 2 ^ k + if neg then 0 else 1) ∧
    (mode = 1 ∨ mode = 5 → 2 * m ≤ (2 * q + 1) * 2 ^ k ∧ 2 * q * 2 ^ k ≤ 2 * m + 2 ^ k ∧
      (2 * m = (2 * q + 1) * 2 ^ k ∨ 2 * q * 2 ^ k = 2 * m + 2 ^ k → q % 2 = 0))) ∧
  ∀ (e : Env) (a b c : Nat), finite32 a → finite32 b → finite32 c → value32 c ≠ 0 → e.fz = false →
    (value32 a + value32 b = value32 c → e.add 8 a b = (c, 0)) ∧ (value32 a - value32 b = value32 c → e.sub 8 a b = (c, 0)) ∧
    (value32 a * value32 b = value32 c * 2 ^ 149 → e.mul 8 a b = (c, 0))

/-- (R183, R209, R216, R217, R224) The element operations. Integers are exact and wrap, or saturate where the environment says so; the high
product never saturates; shifts take the amount modulo the width. In binary32 a finite nonzero number over zero is an infinity with DZ,
0/0 and the root of a negative number NaN with NV, the root of −0 is −0, opposite numbers add to +0, or −0 downward, one NaN is ignored by
minimum and maximum, −0 lies below +0, and 0·∞ in `vfma` is NaN with NV. FZ makes the subnormal result of a minimum a zero with UF and NX, and
RM 0b101 its infinity the largest finite number (R189, R190). -/
def Obligations.ElementOperations : Prop :=
  (∀ (e : Env) (t a b : Nat), t < 8 → a < 2 ^ elemBits t → b < 2 ^ elemBits t →
    let w := elemBits t
    let val (x : Nat) : Int := if t % 2 = 0 then (BitVec.ofNat w x).toInt else x
    let lo : Int := if t % 2 = 0 then -2 ^ (w - 1) else 0
    let hi : Int := if t % 2 = 0 then 2 ^ (w - 1) - 1 else 2 ^ w - 1
    let fit (n : Int) : Nat := (BitVec.ofInt w (if e.sat then max lo (min hi n) else n)).toNat
    e.add t a b = (fit (val a + val b), 0) ∧ e.sub t a b = (fit (val a - val b), 0) ∧ e.mul t a b = (fit (val a * val b), 0) ∧
    mulHigh t a b = ((BitVec.ofInt w (val a * val b / 2 ^ w)).toNat, 0) ∧
    e.min t a b = (if val a ≤ val b then a else b, 0) ∧ e.max t a b = (if val b ≤ val a then a else b, 0) ∧
    intBits 0 w a b = a &&& b ∧ intBits 1 w a b = a ||| b ∧ intBits 2 w a b = a ^^^ b ∧
    (∀ n, (intBits 3 w a b).testBit n = (a.testBit n && !b.testBit n)) ∧ intBits 4 w a b = a * 2 ^ (b % w) % 2 ^ w ∧
    intBits 5 w a b = a / 2 ^ (b % w) ∧ intBits 6 w a b = ((BitVec.ofNat w a).sshiftRight (b % w)).toNat ∧
    intBits 7 w a b = (List.range w).countP (fun n => a.testBit n) ∧
    (if a = 0 then intBits 8 w a b = w else 2 ^ (w - 1 - intBits 8 w a b) ≤ a ∧ a < 2 ^ (w - intBits 8 w a b))) ∧
  ∀ (e : Env) (x y : Nat), finite32 x →
    let nan := 0x7FC00000
    let other := if x.testBit 31 then x - 2 ^ 31 else x + 2 ^ 31
    (x % 2 ^ 31 ≠ 0 → e.mode ≠ 5 → e.div 8 x 0 = ((if x.testBit 31 then 0xFF800000 else 0x7F800000), flagDZ)) ∧
    e.div 8 0 0 = (nan, flagNV) ∧ e.sqrt 8 0x80000000 = (0x80000000, 0) ∧
    (x % 2 ^ 31 ≠ 0 → x.testBit 31 = true → e.sqrt 8 x = (nan, flagNV)) ∧
    (x % 2 ^ 31 ≠ 0 → e.add 8 x other = (if e.mode = 3 then 0x80000000 else 0, 0)) ∧
    (e.fz = false → e.min 8 nan x = (x, 0) ∧ e.min 8 x nan = (x, 0) ∧ e.max 8 nan x = (x, 0) ∧ e.max 8 x nan = (x, 0)) ∧
    (e.fz = true → x % 2 ^ 31 ≠ 0 → x % 2 ^ 31 < 2 ^ 23 → e.min 8 nan x = (x / 2 ^ 31 * 2 ^ 31, flagUF ||| flagNX)) ∧
    (e.mode = 5 → (e.min 8 nan 0x7F800000).1 = 0x7F7FFFFF) ∧
    e.min 8 0 0x80000000 = (0x80000000, 0) ∧ e.min 8 0x80000000 0 = (0x80000000, 0) ∧ e.max 8 0 0x80000000 = (0, 0) ∧
    e.max 8 0x80000000 0 = (0, 0) ∧ (∀ fn, e.fma 8 fn 0 0x7F800000 y = (nan, flagNV))

/-! ## Vector instructions (R204-R229) -/

/-- (R67, R206-R209, R216-R219, R224) The vector arithmetic, alone and under a prefix: every element that is not masked off takes the operation
on the elements of the sources, with their poison (R208); `vfma` adds VC, or VD without a prefix. -/
def Obligations.VectorArithmetic : Prop :=
  ∀ (s : State) (g : Sel) (d a b : VReg) (t u : BitVec 4) (f : BitVec 2) (n : BitVec 6),
    let w := elemBits t.toNat
    let two (op : Env → Nat → Nat → Nat → Nat × Nat) (k : Core) (e : Env) (_ : VReg) (j : Nat) : Nat × Bool × Nat :=
      let x := k.elem a t.toNat j
      let y := k.elem b t.toNat j
      e.result t.toNat (op e t.toNat x.1 y.1) (x.2 || y.2)
    let one (op : Env → Nat → Nat → Nat × Nat) (k : Core) (e : Env) (_ : VReg) (j : Nat) : Nat × Bool × Nat :=
      let x := k.elem a t.toNat j
      e.result t.toNat (op e t.toNat x.1) x.2
    s.Vector (.vadd g d a b t) d w w (two Env.add) ∧ s.Vector (.vsub g d a b t) d w w (two Env.sub) ∧
    s.Vector (.vmul g d a b t false) d w w (two Env.mul) ∧ s.Vector (.vmul g d a b t true) d w w (two fun _ => mulHigh) ∧
    s.Vector (.vmin g d a b t) d w w (two Env.min) ∧ s.Vector (.vmax g d a b t) d w w (two Env.max) ∧
    s.Vector (.vdiv g d a b t) d w w (two Env.div) ∧ s.Vector (.vsqr g d a t) d w w (one Env.sqrt) ∧
    s.Vector (.vsfn g d a t n) d w w (one fun e _ => e.special n.toNat) ∧
    s.Vector (.vfma g d a b t f) d w w (fun k e c j =>
      let x := k.elem a t.toNat j
      let y := k.elem b t.toNat j
      let z := k.elem c t.toNat j
      e.result t.toNat (e.fma t.toNat f x.1 y.1 z.1) (x.2 || y.2 || z.2)) ∧
    s.Vector (.vcvt g d a t u) d w (max w (elemBits u.toNat)) (fun k e _ j => e.castP u.toNat t.toNat (k.elem a u.toNat j)) ∧
    s.Vector (.vint g d a b t n) d w w (fun k e _ j =>
      let x := k.elem a t.toNat j
      let y := k.elem b t.toNat j
      e.result t.toNat (intBits n.toNat w x.1 (if n.toNat < 7 then y.1 else 0), 0) (x.2 || (decide (n.toNat < 7) && y.2)))

/-- (R195, R206-R208, R221, R225, R226) Moves, selections and permutes take elements with their poison, a floating one as its pattern: of VA, of VA or VB by a mask, of a scalar
register, of the transpose, of the positions in VB's bytes. -/
def Obligations.VectorMoves : Prop :=
  ∀ (s : State) (g : Sel) (d a b : VReg) (t : BitVec 4) (n : BitVec 3) (c : SReg),
    let w := elemBits t.toNat
    let with_ (x : Nat × Bool) : Nat × Bool × Nat := (if x.2 then asPoison t.toNat x.1 else x.1, x.2, if x.2 then flagPS else 0)
    s.Vector (.vmov g d a t) d w w (fun k _ _ j => with_ (k.elem a t.toNat j)) ∧
    s.Vector (.vsel g d a b t n) d w w (fun k _ _ j => with_ (k.elem (if k.onMask n w j then a else b) t.toNat j)) ∧
    s.Vector (.vpermTr g d a t) d w w (fun k _ _ j => with_ (k.elem a t.toNat (j % k.rows * k.cols + j / k.rows))) ∧
    s.Vector (.vpermIdx g d a b t) d w w
      (fun k _ _ j => with_ (k.elem a t.toNat ((k.regs.vec b).toNat / 2 ^ (8 * (j % 128)) % 2 ^ 8 % k.count))) ∧
    ∀ i m z r v, prefixedAs (.vmovBc g d c t) i m z r v → s.clear i = true → ∀ x k, (s.seen i).take c = some (x, k) →
      s.Elementwise i k m z d w w (fun _ =>
        with_ (x.1.toNat % 2 ^ w, x.2 || isPattern k.csrs.b8fmt t.toNat (x.1.toNat % 2 ^ w)))

/-- (R201, R206, R220, R222, R223) `vcmp` sets a mask bit where its condition holds on the elements the bit governs, a poisoned element being
unequal to all, and sets PS where one of those is poisoned and no other flag; `vmsk` combines masks bit by bit; both leave or clear what a
prefix masks off. `vred` reduces all elements, rows or columns
by the tree of R201, which combines the trees of the two halves of its elements, masked-off elements entering as the identity, and clears
every other element; its flags are those of the steps, and a result is poisoned where one of its elements that is not masked off is. -/
def Obligations.VectorMasksAndReductions : Prop :=
  ∀ (s : State) (g : Sel) (d a b : VReg) (h ma mb : BitVec 3) (t : BitVec 4) (c o : BitVec 3) (x : BitVec 2) (f : BitVec 6)
    (i : Instr) (m : Sel) (z : Bool) (r : BitVec 3) (v : Option VReg),
    let w := elemBits t.toNat
    let k := s.seen i
    let on (j : Nat) : Bool := (k.regs.mask m).getLsbD j
    (prefixedAs (.vcmp g h a b t c) i m z r v → s.clear i = true → ∃ (y : BitVec 128) (fl : BitVec 32),
      s.Completes i { k with regs := k.regs.setMask h y, csrs := { k.csrs with fpflags := k.csrs.fpflags ||| fl } } ∧
      (∀ j < 128, y.getLsbD j = if w = 4 then
          (decide (2 * j < k.count) && if on j then (List.range k.count).all (fun n => n / 2 != j || (k.vecCond a b t.toNat c n).1)
            else !z && (k.regs.mask h).getLsbD j)
        else (decide (j < k.count) && if on j then (k.vecCond a b t.toNat c j).1 else !z && (k.regs.mask h).getLsbD j)) ∧
      ∀ n < 32, fl.getLsbD n = (n == 5 && (List.range k.count).any fun j => k.onMask m w j && ((k.elem a t.toNat j).2 || (k.elem b t.toNat j).2))) ∧
    (prefixedAs (.vmsk g h ma mb f) i m z r v → s.clear i = true →
      let p := k.regs.mask ma
      let q := k.regs.mask mb
      let y := [p &&& q, p ||| q, p ^^^ q, p &&& ~~~q, ~~~p].getD f.toNat (BitVec.allOnes 128)
      let kept := if z then 0 else k.regs.mask h &&& ~~~k.regs.mask m
      s.Completes i { k with regs := k.regs.setMask h ((y &&& k.regs.mask m) ||| kept) }) ∧
    (prefixedAs (.vred g d a t x o) i m z r v → s.clear i = true →
      let e := k.env r
      let leaf (j : Nat) : Nat × Bool × Nat :=
        if k.onMask m w j then e.leaf t.toNat (k.elem a t.toNat j) else (identity e.b8 t.toNat o.toNat, false, 0)
      let groups : List (List Nat) := match x.toNat with
        | 0 => [List.range k.count]
        | 1 => (List.range k.rows).map fun y => (List.range k.cols).map fun n => y * k.cols + n
        | _ => (List.range k.cols).map fun n => (List.range k.rows).map fun y => y * k.cols + n
      let tree (l : List Nat) : Nat × Bool × Nat := (reduceTree (e.combine t.toNat o.toNat) 8 (l.map leaf)).headD (0, false, 0)
      ∃ (y : BitVec 1024) (p fl : BitVec 32),
        s.Completes i { k with regs := k.regs.setVec d y p, csrs := { k.csrs with fpflags := k.csrs.fpflags ||| fl } } ∧
        (∀ q < groups.length, y.toNat / 2 ^ (w * q) % 2 ^ w = (tree (groups.getD q [])).1 % 2 ^ w) ∧
        (∀ n, w * groups.length ≤ n → y.getLsbD n = false) ∧
        (∀ n < 32, p.getLsbD n = (List.range groups.length).any fun q => w * q / 32 == n &&
          (groups.getD q []).any fun j => k.onMask m w j && (k.elem a t.toNat j).2) ∧
        ∀ n < 32, fl.getLsbD n = (decide (n < 6) && (List.range groups.length).any fun q => (tree (groups.getD q [])).2.2.testBit n)) ∧
    ∀ (op : Nat × Bool × Nat → Nat × Bool × Nat → Nat × Bool × Nat) (n : Nat) (l l' : List (Nat × Bool × Nat)) (y y' : Nat × Bool × Nat),
      reduceTree op 8 [y] = [y] ∧ (n < 8 → l.length = 2 ^ n → l'.length = 2 ^ n → reduceTree op 8 l = [y] → reduceTree op 8 l' = [y'] →
        reduceTree op 8 (l ++ l') = [op y y'])

/-- (R196, R197, R207, R211-R213, R215) Vector loads from tarns, alone and under a prefix, that pass the checks of R212: dense, strided or behind a
scaled pointer within one tarn, gathered by index from any, or from a ring slot whose tag fits; no release has tagged anything. Each element
not masked off takes the bits at its address, a poisoned floating one its pattern, and the poison of their words; nothing in memory changes.
(R214) A turn in which a `vld` accesses only some elements reads those, and the core stays at it until the others have been read. -/
def Obligations.VectorLoads : Prop :=
  ∀ (s : State) (g : Sel) (d n : VReg) (a b : SReg) (i : Instr) (m : Sel) (z : Bool) (r : BitVec 3) (v : Option VReg) (x y : Word × Bool)
    (k : Core), s.clear i = true → s.latent = [] → (s.core s.cur).flit = none → s.tags = [] → x.2 = false → y.2 = false →
    (s.core s.cur).partway = none →
    let all := (s.core s.cur).picks = none
    let w := ptrWidth x.1
    let active := (List.range k.count).filter fun j => k.onMask m w j
    let strided := b != 0 && ptrBlg x.1 == 0
    let spot (j : Nat) : Spot := if strided then stridedSpot x.1 y.1 k.cols j else indexedSpot x.1 j (j : Nat)
    let index (j : Nat) : Spot := indexedSpot x.1 j (BitVec.ofNat 32 ((k.regs.vec n).toNat / 2 ^ (32 * j))).toInt
    (∀ t, prefixedAs (.vld g d a b) i m z r v → (s.seen i).take2 a b = some (x, y, k) → k.pointerOk x.1 y.1 strided false = true →
      (b ≠ 0 → ptrBlg x.1 = 0) → (∀ j ∈ active, s.spotOk k false (spot j) = true ∧ s.spotIn t (spot j) = true) →
        (all → s.Elementwise i k m z d w w fun j => s.loadSpot k x.1 (spot j)) ∧
        ∀ e, (s.core s.cur).picks = some e → (∃ j ∈ active, j ∉ e) →
          ∃ k', s.Pauses i s k' ∧ ∀ j ∈ active, (k'.partway.any fun u => u.reads.any fun y => y.1 == j) = e.contains j) ∧
    (all → prefixedAs (.vgat g d a n) i m z r v → (s.seen i).take a = some (x, k) → k.pointerOk x.1 0 false true = true →
      (∀ j ∈ active, (k.regs.vecPoison n).getLsbD j = false ∧ s.spotOk k false (index j) = true) →
        s.Elementwise i k m z d w w fun j => s.loadSpot k x.1 (index j)) ∧
    ∀ p q ring e t, all → prefixedAs (.vldTag g d a b) i m z r v → (s.seen i).take2 a b = some (x, y, k) →
      k.pointerOk x.1 0 false false = true → ptrBlg x.1 = 0 → inWindow (ptrVa x.1) = true →
      windowPlace (chipOf s.cur) (ptrVa x.1) = some p → s.ringSlot k.task p = some (ring, q) →
      readNat s.mem (ring.base + 8 * q) 8 = y.1.toNat → s.anyMarked (ring.base + 8 * q) 8 = false → e = ring.base + 8 * ring.slots + q * ring.size →
      (∀ j ∈ active, s.spotOk k false (indexedSpot x.1 j (j : Nat)) = true ∧ s.spotIn t (indexedSpot x.1 j (j : Nat)) = true ∧ e ≤ s.placeAt (indexedSpot x.1 j (j : Nat)).ea ∧
        s.placeAt (indexedSpot x.1 j (j : Nat)).ea + (indexedSpot x.1 j (j : Nat)).size ≤ e + ring.size) →
        s.Elementwise i k m z d w w fun j => s.loadSpot k x.1 (indexedSpot x.1 j (j : Nat))

/-- (R184, R198, R211, R212, R215) Vector stores of clean elements to tarns, alone and under a prefix, that pass the checks of R212: the elements
not masked off are written at their addresses in increasing order, a 4-bit one into its half of its byte, and no other byte of memory
changes; behind a scaled pointer they are narrowed by their block's scale, whose flags are set. (R214) A turn in which a `vst` accesses only
some elements writes those, with any at the same address, and the core stays at it until the others have been written. -/
def Obligations.VectorStores : Prop :=
  ∀ (s : State) (g : Sel) (d n : VReg) (a b : SReg) (i : Instr) (m : Sel) (z : Bool) (r : BitVec 3) (v : Option VReg) (x y : Word × Bool)
    (k : Core), s.clear i = true → s.latent = [] → (s.core s.cur).flit = none → s.tags = [] → x.2 = false → y.2 = false →
    k.fenceTag = none → Memory.wf s.mem = true → (s.core s.cur).partway = none →
    let all := (s.core s.cur).picks = none
    let active := (List.range k.count).filter fun j => k.onMask m (ptrWidth x.1) j
    let strided := b != 0 && ptrBlg x.1 == 0
    let spots := active.map fun j => if strided then stridedSpot x.1 y.1 k.cols j else indexedSpot x.1 j (j : Nat)
    let indices := active.map fun j => indexedSpot x.1 j (BitVec.ofNat 32 ((k.regs.vec n).toNat / 2 ^ (32 * j))).toInt
    let clean (l : List Spot) : Prop := ∀ p ∈ l, s.spotOk k true p = true ∧ (s.storeSpot k x.1 d p).2.1 = false
    let after (l : List Spot) : Core :=
      { k with csrs := { k.csrs with fpflags := l.foldl (fun f p => f ||| BitVec.ofNat 32 ((s.storeSpot k x.1 d p).2.2 % 64)) k.csrs.fpflags } }
    (∀ t, prefixedAs (.vst g d a b) i m z r v → (s.seen i).take2 a b = some (x, y, k) → k.pointerOk x.1 y.1 strided false = true →
      (b ≠ 0 → ptrBlg x.1 = 0) → clean spots → (∀ p ∈ spots, s.spotIn t p = true) →
        (all → s.CompletesAs i (s.storedSpots k x.1 d spots) (after spots)) ∧
        ∀ e, (s.core s.cur).picks = some e →
          let now := spots.filter fun p => spots.any fun q => e.contains q.i && q.ea == p.ea
          now ≠ spots → ∃ k', s.Pauses i (s.storedSpots k x.1 d now) k' ∧
            k'.partway = some { reads := [], writes := now.map fun p => p.i }) ∧
    (all → prefixedAs (.vsct g d a n) i m z r v → (s.seen i).take a = some (x, k) → k.pointerOk x.1 0 false true = true →
      (∀ j ∈ active, (k.regs.vecPoison n).getLsbD j = false) → clean indices →
        s.CompletesAs i (s.storedSpots k x.1 d indices) (after indices))

/-- (R204, R227, R229) `vshp` sets `SHAPE`; `rng` fills VD with one step's output per element, clean, and leaves the state after those steps;
`rng.jump` moves it on by 2^83 steps, since a jump of 2^p steps by the generator's matrix is that many single steps. -/
def Obligations.RandomNumbers : Prop :=
  (∀ (s : State) (g : Sel) (d : VReg) (t r c : BitVec 4),
    (s.clear (.vshp g r c) = true → s.Completes (.vshp g r c)
      { s.seen (.vshp g r c) with csrs := { (s.seen (.vshp g r c)).csrs with shape := r ++ c } }) ∧
    (s.clear (.rng g d t) = true →
      let k := s.seen (.rng g d t)
      let state (n : Nat) : Nat := Nat.repeat rngNext n (k.csrs.rngs0.toNat + 2 ^ 64 * k.csrs.rngs1.toNat)
      let last := state k.count
      let x : Csrs := { k.csrs with rngs0 := BitVec.ofNat 64 last, rngs1 := BitVec.ofNat 64 (last / 2 ^ 64) }
      ∃ v : BitVec 1024, s.Completes (.rng g d t) { k with regs := k.regs.setVec d v 0, csrs := x } ∧
        (∀ j < k.count, v.toNat / 2 ^ (32 * j) % 2 ^ 32 = rngElem t.toNat (rngOut (state j)) % 2 ^ 32) ∧
        ∀ b, 32 * k.count ≤ b → v.getLsbD b = false) ∧
    (s.clear (.rngJump g t) = true →
      let k := s.seen (.rngJump g t)
      let st := rngJump (k.csrs.rngs0.toNat + 2 ^ 64 * k.csrs.rngs1.toNat)
      s.Completes (.rngJump g t)
        { k with csrs := { k.csrs with rngs0 := BitVec.ofNat 64 st, rngs1 := BitVec.ofNat 64 (st / 2 ^ 64) } })) ∧
  ∀ p st, st < 2 ^ 128 → gfApply (gfPower rngColumns p) st = Nat.repeat rngNext (2 ^ p) st

/-! ## What befalls cores at the hands of other agents (R21, R27, R33-R37, R41-R44, R51, R113, R167-R170, R177, R314-R316, R340, R349, R385) -/

/-- (R340, R349) At a user-level boundary the pending cause of the highest priority is taken with its `XVAL`, that of the energy quota with
`EQUOTA`, and only its slot empties; 0x0E kills the task first (R311). (R33) A late register arrives, unless a later instruction has
written it, and its freeze ends. (R113, R177, R385) A `slp`, an engine wait or an `evw` that has lasted `BARTMO` cycles takes a deadline
fault with 0, its own address or its counter's; the `slp` and the `evw` are also charged (the model's choice: log entry 68), and an `evw`
whose counter has come meanwhile takes none (log entry 63). (R27) A waiting `halt` ends the task once nothing holds it. (R349, R371) A whole mJ lowers `EQUOTA`, which at 0 or below makes 0x10 pending; with a
new period each context gets its grant, less what it has overdrawn. -/
def Obligations.BoundariesWaitsAndEnergy : Prop :=
  ∀ (s : State) (c : Nat), let k := s.core c
    let deadline (v : Word) (z : Freeze) : State := s.setCore c (k.takeTrap 0x0A v z.pc)
    (∀ (n cause : Nat) (x : Word), s.cur = c → k.run = .running → k.wait = .none → k.level = .user → k.group.pair = .none →
      k.group.fwd = .none → k.storing = false →
      let order := [0x0E, 0x0A, 0x0B, 0x04, 0x05, 0x17, 0x11, 0x12, 0x01, 0x19, 0x0F, 0x10]
      order[n]? = some cause → k.pend.find? (fun e => e.1 == cause) = some (cause, x) → (∀ m < n, ∀ e ∈ k.pend, order[m]? ≠ some e.1) →
      let v := if cause = 0x10 then k.csrs.equota.signExtend 64 else x
      let q : Core := { k with pend := k.pend.eraseP fun e => e.1 == cause }
      (cause ≠ 0x0E → exec .boundaryEvent s = .next (s.setCore c (q.takeTrap cause v k.pc))) ∧
      (cause = 0x0E → ∃ t, exec .boundaryEvent s = .next t ∧ (t.core c).killed = true ∧ (t.core c).csrs.xcause = 0x0E ∧
        (t.core c).csrs.xval = x ∧ (t.core c).level = .supervisor ∧ (t.core c).pc = k.csrs.xvec)) ∧
    (∀ r, k.late = some r → k.group.pair = .none → ∃ t, exec (.lateResultArrival c) s = .next t ∧ t.mem = s.mem ∧
      (∀ f ≠ c, t.core f = s.core f) ∧ (t.core c).late = none ∧ (t.core c).pc = k.pc ∧ (t.core c).csrs = k.csrs ∧
      (t.core c).regs = (if r.void then k.regs else k.regs.setVec r.reg r.data r.poison) ∧
      (∀ z, k.freeze = some z → (t.core c).freeze = if z.kind = .engine then none else some z)) ∧
    (∀ z, k.freeze = some z → k.run = .running → k.level = .user →
      z.since + (if k.csrs.bartmo = 0 then 2 ^ 32 else k.csrs.bartmo.toNat) ≤ s.fabric →
      k.group.pair ≠ .leader →
      let issued (i : Instr) (v : Word) : State := s.setCore c (({ (k.charge i).tick 1 with group := k.group } : Core).takeTrap 0x0A v z.pc)
      (z.kind = .sleep → k.wake = false → k.inq = Vector.replicate 4 [] → exec (.slpTimeout c) s = .next (issued (.slp 0) 0)) ∧
      (z.kind = .engine ∨ z.kind = .haltWork → exec (.engineWaitTimeout c) s = .next (deadline k.pc z)) ∧
      ∀ g a b t p, z.kind = .awaitCounter → fetch { s with cur := c } = .ok (.evw g a b) t → a.toNat < 60 → b.toNat < 60 →
        let x (r : SReg) : Word := (t.core t.cur).regs.scalar r.toNat
        inWindow (x a).toNat = true → windowPlace (chipOf t.cur) (x a).toNat = some p → t.tags = [] → t.latent = [] →
        (t.core t.cur).flit = none → t.anyMarked p 8 = false →
          exec (.evwTimeout c) s = .next (if readNat t.mem p 8 < (x b).toNat then issued (.evw 0 0 0) (x a) else s)) ∧
    (∀ z g t, k.freeze = some z → z.kind = .haltWork → k.run = .running → fetch { s with cur := c } = .ok (.halt g) t → t.cur = c →
      t.clear (.halt g) = true → (t.core c).level = .user → (t.core c).openPacket = none → t.engineWork c = false →
      (t.core c).slog = [] → (t.core c).loss = none → (∀ l ∈ t.l1Of c, l.dirty = 0 ∧ l.updateOnly = false) → (∀ w ∈ t.flights, w.core ≠ c) →
        ∃ k', exec (.taskEnd c) s = .next (t.setCore c k') ∧ k'.run = .ended false) ∧
    (10 ^ 9 ≤ k.energy →
      let q := k.csrs.equota - 1
      exec (.energyDecrement c) s = .next (s.setCore c
        { k with
          energy := k.energy - 10 ^ 9
          csrs := { k.csrs with equota := q }
          pend := if 0 < q.toInt ∨ ∃ e ∈ k.pend, e.1 = 0x10 then k.pend else k.pend ++ [(0x10, q.signExtend 64)] })) ∧
    (s.dev.period < s.fabric / 2 / 10 ^ 8 → ∃ t, exec .energyPeriodStart s = .next t ∧ t.dev.period = s.fabric / 2 / 10 ^ 8 ∧
      ∀ f, let q := (s.core f).csrs.equota
        t.core f = { s.core f with csrs := { (s.core f).csrs with equota :=
          if (s.core f).run = .running ∨ (s.core f).run = .stopped then (s.core f).task.grant + (if q.toInt < 0 then q else 0) else q } })

/-- (R42, R111) A row or pair whose members all wait goes on together, the pair's follower with its leader's registers; (R44) so does a row
whose released followers have joined or ended, and those that joined follow again; (R42, R44, R111) a wait with a member missing that has
lasted `BARTMO` ends in a deadline fault of every waiting member, while one with nobody missing takes none (the model's choice: log entry
63). (R167, R170) The root completes a phase once every member has arrived and the counter is 0; (R21, R28) a member that has the
completion goes on to the exchange section, its lines of released-mode memory dropped; (R51) at the timeout the phase is abandoned and
every member owed a deadline fault. (R35-R37) An offset copy whose moment has come holds its core until it starts, and is cancelled with a
timing fault where its source is write-locked by a command registered later too (log entry 27). (R314-R316) Agreeing cores of a pair
record a checkpoint; disagreeing ones go back to it, one error poorer, and at the third disagreement both are killed there (log entry 34). -/
def Obligations.GroupsAndBarriersGoOn : Prop :=
  ∀ (s : State) (c : Nat), let k := s.core c
    let limit := if k.csrs.bartmo = 0 then 2 ^ 32 else k.csrs.bartmo.toNat
    let resumed (i : Nat) (f : Nat) (t : State) : Prop := (t.core f).wait = .none ∧
      ((s.core f).inLoop = false → (s.core f).inFrame = false → (t.core f).pc = (s.core f).pc + BitVec.ofNat 64 i)
    (∀ d, k.wait = .fwd d → k.group.fwd = .leader → (∀ f ∈ k.rowFollowers c, (s.core f).wait = .fwd d) →
      ∃ t, exec (.forwardingStarts c) s = .next t ∧ ∀ f, (f = c ∨ f ∈ k.rowFollowers c → resumed 4 f t) ∧
        (f ≠ c → f ∉ k.rowFollowers c → t.core f = s.core f)) ∧
    (∀ d y w h, k.wait = .echo d → subRect k.csrs.rect (d.setWidth 64) = some (xOf c, y, w, h) → (s.core (c + 1)).wait = .echo d →
      ∃ t, exec (.forwardingStarts c) s = .next t ∧ resumed 4 c t ∧ resumed 4 (c + 1) t ∧ (t.core c).group.pair = .leader ∧
        (t.core (c + 1)).group.pair = .follower ∧ (t.core c).group.partner = c + 1 ∧ (t.core (c + 1)).group.partner = c ∧
        (t.core (c + 1)).regs = { k.regs with a := (s.core (c + 1)).regs.a, ap := (s.core (c + 1)).regs.ap }) ∧
    (k.wait = .join → k.group.fwd = .leader → (∀ f ∈ k.rowFollowers c,
        (s.core f).run ≠ .running ∨ ((s.core f).group.fwd = .follower ∧ (s.core f).group.stream = []) ∨
          ((s.core f).group.fwd = .released ∧ (s.core f).wait = .join)) →
      ∃ t, exec (.forwardingRejoin c) s = .next t ∧ resumed 4 c t ∧ ∀ f ∈ k.rowFollowers c,
        (s.core f).group.fwd = .released → (s.core f).wait = .join → resumed 4 f t ∧ (t.core f).group.fwd = .follower) ∧
    (∀ d x y w h, k.wait = .join ∧ d = k.group.fwdDesc ∨ k.wait = .fwd d ∨ k.wait = .echo d → k.waitSince + limit ≤ s.fabric →
      (s.gathered c = true → exec (.fwdWaitTimeout c) s = .next s) ∧ (s.gathered c = false → subRect k.csrs.rect (d.setWidth 64) = some (x, y, w, h) →
      (∀ i < w, (s.core (coreAt (x + i) (yOf c))).wait = k.wait → (s.core (coreAt (x + i) (yOf c))).level = .user) →
      ∃ t, exec (.fwdWaitTimeout c) s = .next t ∧ ∀ i < w, let f := coreAt (x + i) (yOf c)
        (s.core f).wait = k.wait → (t.core f).csrs.xcause = 0x0A ∧ (t.core f).csrs.xval = (s.core f).pc ∧ (t.core f).wait = .none ∧
          (t.core f).level = .supervisor ∧ (t.core f).pc = (s.core f).csrs.xvec ∧ (t.core f).regs = (s.core f).regs)) ∧
    (∀ n, k.wait = .barrier n true →
      let clean (f : Nat) : Prop := ∀ l ∈ s.l1Of f, l.dirty = 0 ∧ l.updateOnly = false
      let kept (f : Nat) : List L1Line := (s.l1Of f).filter fun l => (s.part (s.core f).task.part).managed (l.line * 64)
      let on (t : State) : Prop := (t.core c).wait = .none ∧ (t.core c).sect = .exchange ∧ (t.core c).regs = k.regs ∧ (t.core c).pc = k.pc ∧
        (t.core c).csrs = k.csrs ∧ t.mem = s.mem ∧ t.l1Of c = kept c
      (k.group.pair = .none → clean c → ∃ t, exec (.barrierContinue c) s = .next t ∧ on t) ∧
      (k.group.pair = .leader → clean c → clean k.group.partner → ∃ t, exec (.barrierContinue c) s = .next t ∧ on t ∧
        (t.core k.group.partner).sect = .exchange ∧ t.l1Of k.group.partner = kept k.group.partner)) ∧
    (∀ pond num b, s.barriers.find? (fun y => y.held && y.name.root == pond && y.name.num == num) = some b →
      (b.arrived ≠ [] → b.inbox = [] → b.early = [] → s.allArrived b = true → b.counter = 0 →
        ∃ t, exec (.barrierRootCycle pond num) s = .next t ∧ (∃ b' ∈ t.barriers, b'.name = b.name ∧ b'.phase = b.phase + 1 ∧
          b'.arrived = [] ∧ b'.counter = 0) ∧ ∀ f ∈ b.arrived, (s.core f).wait = .barrier num false → (t.core f).wait = .barrier num true) ∧
      (∀ t0 l, b.first = some (t0, l) → t0 + l ≤ s.fabric → s.launches = [] → (∀ e ∈ s.cores, e.2.freeze = none) →
        ∃ t, exec (.barrierTimeout pond num) s = .next t ∧ (∃ b' ∈ t.barriers, b'.name = b.name ∧ b'.phase = b.phase + 1 ∧
          b'.arrived = [] ∧ b'.counter = 0) ∧ ∀ e ∈ s.cores, s.core e.1 = e.2 → b.name.member e.1 = true → e.2.run = .running →
            e.2.killed = false → e.2.group.pair = .none → ∃ p ∈ (t.core e.1).pend, p.1 = 0x0A)) ∧
    (∀ x d m, k.matq = [] → k.thrq = [] → k.chan = #v[{ Channel.reset with cmds := [x] }, Channel.reset, Channel.reset, Channel.reset] →
      x.work = .copy d → d.ring = none → x.started = false → x.start = some m → m.toNat ≤ k.csrs.taskclk.toNat → s.colls = [] →
      x.moment = false → k.freeze = none → (s.pond (pondOf c)).locks = [] →
        exec (.engineOffsetStart c) s = .next (s.setCore c
          { k with
            chan := #v[{ Channel.reset with cmds := [{ x with moment := true }] }, Channel.reset, Channel.reset, Channel.reset]
            freeze := some { kind := .engine, pc := k.pc, since := s.fabric } })) ∧
    (∀ x d m own l, k.matq = [] → k.thrq = [] → k.chan = #v[{ Channel.reset with cmds := [x] }, Channel.reset, Channel.reset, Channel.reset] →
      x.work = .copy d → x.started = false → x.moment = false → x.start = some m → m.toNat ≤ k.csrs.taskclk.toNat → s.colls = [] →
      x.count = none → (s.pond (pondOf c)).locks = [l, own] → own.cmd = x.id → own.write = false → l.cmd ≠ x.id → l.write = true →
      own.spans.any l.meets = true → k.pend = [] →
        ∃ t, exec (.engineOffsetStart c) s = .next t ∧ (t.core c).cmds = [] ∧ (t.core c).pend = [(0x0B, x.issuer.pc)] ∧
          (t.pond (pondOf c)).locks = [l] ∧ t.mem = s.mem ∧ (t.core c).regs = k.regs ∧ (t.core c).pc = k.pc) ∧
    (∀ z upset, k.run = .running → k.level = .user → k.group.pair = .leader → k.freeze = some z → z.kind = .checkpoint →
      let f := k.group.partner
      let q := s.core f
      f ≠ c → q.group.pair = .follower → q.group.stream = [] → q.freeze = none → k.group.storeLog = [] →
      (k.group.print = q.group.print ^^^ upset → ∃ t, exec (.pairCheckpoint c upset) s = .next t ∧
        (t.core c).freeze = none ∧ (t.core c).regs = k.regs ∧ (t.core c).pc = k.pc ∧ (t.core c).group.sinceCheck = 0 ∧
        (t.core c).group.disagreed = 0 ∧ (∃ p, (t.core c).group.saved = some p ∧ p.regs = k.regs ∧ p.pc = k.pc) ∧
        ∃ p, (t.core f).group.saved = some p ∧ p.regs = q.regs ∧ p.pc = q.pc) ∧
      (∀ p p', k.group.print ≠ q.group.print ^^^ upset → k.group.saved = some p → q.group.saved = some p' →
        (k.group.disagreed < 2 → ∃ t, exec (.pairCheckpoint c upset) s = .next t ∧ (t.core c).regs = p.regs ∧ (t.core c).pc = p.pc ∧
          (t.core f).regs = p'.regs ∧ (t.core f).pc = p'.pc ∧ (t.core c).group.disagreed = k.group.disagreed + 1 ∧
          (t.core c).csrs.taskclk = p.csrs.taskclk ∧ (t.core c).csrs.budget = p.csrs.budget ∧
          ∀ e, (e = c ∨ e = f) → (s.core e).csrs.ebud ≠ 0xFFFFFFFF → (t.core e).csrs.ebud.toNat = (s.core e).csrs.ebud.toNat - 1) ∧
        (2 ≤ k.group.disagreed → (∀ e, (e = c ∨ e = f) → ∀ l ∈ s.l1Of e, l.dirty = 0 ∧ l.updateOnly = false) →
          (∀ w ∈ s.flights, w.core ≠ c ∧ w.core ≠ f) → k.slog = [] → q.slog = [] → q.level = .user →
          ∃ t, exec (.pairCheckpoint c upset) s = .next t ∧ (t.core c).csrs.xcause = 0x18 ∧ (t.core c).csrs.xval = p.pc ∧
            (t.core c).killed = true ∧ (t.core f).killed = true)))

/-! ## What arrives (R136, R141, R151, R161, R172, R176, R179, R181, R266, R307, R318, R329, R337) -/

/-- (R172) The words of a packet leave their outbound queue; one that fits and has no other waiting before it enters its inbound queue whole,
a release's mark on its first word, an error's on its last; one that does not fit waits there; at a core whose task has ended it is
dropped; of two that reach it in one fabric cycle that of the lower core goes first. (R39, R174) At a ring its data land in the slot of its number, and the slot's tag becomes the number. (R176) A wake sets
the wake flag. (R136, R151) A write-back merges into its line at the home slice by byte mask; a flush does the same for every line a cache
has recorded, also for one on its way, and leaves the lines clean. (R165) A `dsc` drops its lines there. (R141, R318) A clean line gives
way. A walk brings a missing line into its home slice, from the frame the translation
names; which line gives way, and when, is the model's choice (log entry 6). (R307, R337) Errors mark what they spoil and are counted, a
failed fill of host memory by the core that reads it, one that nothing of a context meets by the management controller (log entries 18 and
59); memory of class detect corrects none, that of class none and host memory report none. -/
def Obligations.PacketsAndLinesArrive : Prop :=
  ∀ (s : State) (c : Nat), let k := s.core c
    (∀ i p, s.packets[i]? = some p → p.dst = c → p.ring = false →
      (∀ q ∈ s.packets.take i, q.src ≠ p.src ∨ q.dst ≠ p.dst ∨ q.ring = true ∨ (q.queue ≠ p.queue ∧ p.queue ≠ 4)) →
      let u := p.reach.getD s.fabric
      (∀ j q r, s.packets[j]? = some q → j ≠ i → q.ring = false → q.dst = p.dst → q.queue = p.queue → q.reach = some r →
        u < r ∨ (u = r ∧ (p.src < q.src ∨ (p.src = q.src ∧ i < j)))) →
      let last := k.lastIn.toArray.getD p.queue (0, 0)
      let tooLate : Prop := last.1 = s.fabric ∧ p.src < last.2 ∧ p.reach = none
      let t : State := { s with packets := (leaving s.packets i p).eraseIdx i }
      let old := k.inq.toArray.getD p.queue []
      (p.queue < 4 → k.run = .running → k.sealed = false → tooLate →
        exec (.packetArrival i) s = .next { s with packets := leaving s.packets i p }) ∧
      (p.queue < 4 → k.run = .running → k.sealed = false → ¬ tooLate → old.length + p.words.length ≤ 32 → ∃ ws,
        exec (.packetArrival i) s = .next (t.setCore c { k with
          inq := k.inq.setIfInBounds p.queue (old ++ ws), lastIn := k.lastIn.setIfInBounds p.queue (s.fabric, p.src) }) ∧
        ws.map (fun w => (w.word, w.poison)) = p.words ∧ ∀ j w, ws[j]? = some w →
          w.rel = (if j = 0 then p.rel else none) ∧ w.err = (p.err && decide (j + 1 = p.words.length))) ∧
      (p.queue < 4 → k.run = .running → k.sealed = false → ¬ tooLate → 32 < old.length + p.words.length →
        ∃ t, exec (.packetArrival i) s = .next t ∧ t.cores = s.cores ∧ t.mem = s.mem ∧
          t.packets[i]? = some { p with left := true, reach := some u }) ∧
      (p.queue < 4 → (∃ b, k.run = .ended b) → exec (.packetArrival i) s = .next t) ∧
      (p.queue = 4 → k.run = .running →
        exec (.wakeArrival i) s = .next (({ s with packets := s.packets.eraseIdx i } : State).setCore c { k with wake := true }))) ∧
    (∀ i p r n data, let v := (s.core p.src).task
      s.packets[i]? = some p → p.queue < 4 → p.ring = true →
      s.rings.find? (fun r => r.base == p.dst && r.part == v.part && r.queue == v.queue && r.seq == v.seq) = some r →
      p.words = (n, false) :: data → 0 < r.slots → 8 * data.length ≤ r.size → Memory.wf s.mem = true →
      (∀ q ∈ s.packets.take i, q.src ≠ p.src ∨ q.dst ≠ p.dst ∨ q.ring = false ∨ q.queue ≠ p.queue) →
      let slot := n.toNat % r.slots
      ∃ t, exec (.packetArrival i) s = .next t ∧ t.packets = (leaving s.packets i p).eraseIdx i ∧ t.cores = s.cores ∧
        readNat t.mem (r.base + 8 * slot) 8 = n.toNat ∧
        ∀ j w, data[j]? = some w → readNat t.mem (r.base + 8 * r.slots + slot * r.size + 8 * j) 8 = w.1.toNat) ∧
    (∀ w, s.flights.find? (fun w => w.core == c) = some w → w.drop ≠ 0 → exec (.writebackMerge c) s = .next { s with
      flights := s.flights.erase w
      l2 := s.l2.filter fun y => !(y.part == w.part && y.asid == w.asid && decide (w.line ≤ y.line) && decide (y.line < w.line + w.drop)) }) ∧
    (∀ w x, s.flights.find? (fun w => w.core == c) = some w → w.drop = 0 → k.slog = [] → w.line < 2 ^ 51 → inControl (64 * w.line) = false →
      s.l2Get w.part w.asid w.line = some x → s.homesFixed w.part → s.tags = [] →
      ∃ t y, exec (.writebackMerge c) s = .next t ∧ t.flights = s.flights.erase w ∧ t.l2Get w.part w.asid w.line = some y ∧
        t.cores = s.cores ∧ t.mem = s.mem ∧ y.dirty = x.dirty ||| w.mask ∧ y.marks = (x.marks &&& ~~~w.clears) ||| w.marks ∧
        (∀ j < 64, y.data.toNat / 256 ^ j % 256 =
          if w.mask.getLsbD j then w.data.toNat / 256 ^ j % 256 else x.data.toNat / 256 ^ j % 256) ∧
        (s.flights = [w] → w.recorded = true → s.l1Of c = [] → exec (.flushRequest c) s = .next t)) ∧
    (∀ l x, s.l1Of c = [l] → l.recorded = true → l.updateOnly = false → l.dirty ≠ 0 → k.slog = [] → s.flights = [] → s.tags = [] →
      l.line < 2 ^ 51 → inControl (64 * l.line) = false → s.l2Get k.task.part l.asid l.line = some x → s.homesFixed k.task.part →
      ∃ t y, exec (.flushRequest c) s = .next t ∧ t.l1Of c = [(l.disturbed (l.err == some true)).cleaned] ∧
        t.l2Get k.task.part l.asid l.line = some y ∧ t.cores = s.cores ∧ t.mem = s.mem ∧ y.dirty = x.dirty ||| l.dirty ∧
        ∀ j < 64, y.data.toNat / 256 ^ j % 256 =
          if l.dirty.getLsbD j then l.data.toNat / 256 ^ j % 256 else x.data.toNat / 256 ^ j % 256) ∧
    (∀ (va : Word) (w : Bool) (t : State) (pa cls : Nat), k.run = .running → va.toNat < 2 ^ 57 → inWindow va.toNat = false →
      inControl va.toNat = false → s.l2Get k.task.part k.csrs.asid (va.toNat / 64) = none → s.latent = [] →
      (s.touch k.task.part (chipOf c) va.toNat).translate (s.reqOf c (!w) w false) va.toNat = (t, .ok pa cls) → t.latent = [] → t.l2.length < 32768 →
      (t.spring ((t.part k.task.part).homeSpring va.toNat)).held = [] →
      ∃ t' y, exec (.translationWalk c va w s.l2.length) s = .next t' ∧ t'.l2 = y :: t.l2 ∧ y.part = k.task.part ∧
        y.asid = k.csrs.asid ∧ y.line = va.toNat / 64 ∧ y.dirty = 0 ∧ y.data.toNat = readNat t.mem (pa / 64 * 64) 64 ∧ t'.mem = t.mem) ∧
    (∀ (va : Word) (w : Bool) i x, s.l2[i]? = some x → x.dirty = 0 → x.err = none → s.pinned x = false → k.run ≠ .running →
      exec (.translationWalk c va w i) s =
        .next { s with l2 := s.l2.eraseP fun y => y.part == x.part && y.asid == x.asid && y.line == x.line }) ∧
    (∀ unit bad, let t : State := { s with latent := s.latent ++ [(unit, bad)] }
      exec (.backgroundError (.unit unit) bad false) s = .next t ∧
      ((∀ e ∈ s.latent, e.1 ≠ unit) →
        let p := 64 * unit
        let met (b : Bool) : State := { (if b then s.mark p 64 else s) with dev := { s.dev with errors := s.dev.errors + 1 } }
        exec (.backgroundError (.unit unit) bad true) s = .next (if 2 ^ 48 ≤ p ∨ (p < 2 ^ 41 ∧ s.classAt p = 0) then met bad
          else if p < 2 ^ 41 ∧ s.classAt p = 1 then met true else t))) ∧
    ∀ (p : Nat) (asid : BitVec 16) (va : Nat) (t : State) (pa cls : Nat), va < 2 ^ 57 → s.l2Get p asid (va / 64) = none → t.l2.length < 32768 →
      s.translate { part := p, asid := asid, user := false, r := true, w := false, x := false, who := some c } (va / 64 * 64) =
        (t, .ok pa cls) → 2 ^ 47 ≤ pa →
      ∃ t' y, exec (.hostLinkError c p asid va false) s = .next t' ∧ t'.l2 = y :: t.l2 ∧ y.part = p ∧ y.asid = asid ∧
        y.line = va / 64 ∧ y.marks = BitVec.allOnes 16 ∧ y.dirty = 0 ∧ t'.mem = t.mem ∧
        ((t.core c).csrs.ebud ≠ 0xFFFFFFFF → (t'.core c).csrs.ebud.toNat = (t.core c).csrs.ebud.toNat - 16)

/-- (R329, R331) A success lets a held access be tried again, with no TLB entry of its address left, a failure makes it fail; both take the request off the table. An answer that
fits no request is counted in LATE. (R161, R383) A host read at an address that a partition's decoder maps answers with the line and its
poison; an access that is not allowed changes nothing, is counted, and a read of it gives ones; that an address no decoder maps is one of
these, counted once, is the model's choice (log entry 38). (R181, R275) What a member sends is held, under its slot and count (log entry
31), ends this member's command, or is passed on by one that is complete. (R266) Terms that differ cancel the command with a layout fault;
with all members' terms the instance runs. (R179, R272) Once every part of DST is written the command is complete and its locks are gone;
then what it wrote poisoned and unmarked is reported, the lowest address of all (log entry 31). -/
def Obligations.AnswersAndCollectivesArrive : Prop :=
  ∀ (s : State) (p : Nat),
    (∀ (id res : Word) (r : PageReq), s.outstanding id.toNat = some r → r.part = p → r.kind = 0 → s.launches = [] →
      (s.core r.core).gen = r.gen →
      let k := s.core r.core
      (res.toNat = 1 + r.gen.toNat * 2 ^ 48 → ∃ t, exec (.pageAnswer p id res) s = .next t ∧ t.outstanding id.toNat = none ∧
        t.core r.core = { k with pages := k.pages.filter fun h => h.req != r.id } ∧ t.mem = s.mem ∧
        ∀ e ∈ (t.spring (id.toNat / 2 ^ 59)).tlb, e.part = p → e.asid = r.asid → e.base / 2 ^ e.bits ≠ r.va / 2 ^ e.bits) ∧
      (res.toNat = 2 + r.gen.toNat * 2 ^ 48 → ∃ t, exec (.pageAnswer p id res) s = .next t ∧ t.outstanding id.toNat = none ∧
        (t.core r.core).pages = k.pages.map (fun h => if h.req = r.id then { h with failed := true } else h) ∧ t.mem = s.mem)) ∧
    (∀ (id res : Word), s.outstanding id.toNat = none → Memory.wf s.mem = true → ∃ m, exec (.pageAnswer p id res) s = .next { s with mem := m } ∧
      s.Stored m (ctlPlace p 0x8B0) 8 (readNat s.mem (ctlPlace p 0x8B0) 8 + 1)) ∧
    (∀ addr keyed w data mask, keyed = false ∨ (s.part p).keyed = false ∨ (s.part p).live = false ∨ (s.dev.decoders = [] ∧ (addr < 2 ^ 47 ∨ w = true)) →
      exec (.hostMemoryAccess p addr keyed w data mask) s = .next { s with dev := { s.dev with
        blocked := s.dev.blocked + 1
        hostReply := if w then s.dev.hostReply else some (BitVec.allOnes 512, false) } }) ∧
    (∀ off base size data mask x, let va := readNat s.mem (ctlPlace p 0x1228) 8 % 2 ^ 57 + off
      s.dev.decoders = [(p, base, size)] → off + 64 ≤ size → base + off < 2 ^ 47 → (s.part p).keyed = true → (s.part p).live = true → (readNat s.mem (ctlPlace p 0x1230) 8).testBit 63 = true → va % 64 = 0 →
      va + 64 ≤ 2 ^ 57 → inWindow va = false → inControl va = false → s.l1 = [] → s.tags = [] →
      s.l2Get p (BitVec.ofNat 16 (readNat s.mem (ctlPlace p 0x1230) 8)) (va / 64) = some x → x.err = none →
      exec (.hostMemoryAccess p (base + off) true false data mask) s = .next { s with dev := { s.dev with
        hostReply := some (x.data, decide (x.marks ≠ 0)) } }) ∧
    (∀ slot ord member x, let a : Arrival := { part := p, slot := slot, ordinal := ord, member := member, parcel := x }
      ((∀ y ∈ s.colls, y.issuer.part = p → y.slot = slot → y.ordinal = ord → y.active = false ∧ y.state ≠ .complete) →
        exec (.treeContribution p slot ord member x) s = .next { s with arrivals := s.arrivals ++ [a] }) ∧
      (∀ y, s.colls = [y] → y.issuer.part = p → y.slot = slot → y.ordinal = ord → y.active = true → x = .ended →
        ∃ t, exec (.treeContribution p slot ord member x) s = .next t ∧ t.arrivals = s.arrivals ++ [a] ∧
          t.colls = [{ y with state := .cancelled, count := none, held := none, report := none }]) ∧
      (∀ y, s.colls = [y] → y.issuer.part = p → y.slot = slot → y.ordinal = ord → y.state = .complete → x ≠ .ended →
        let s1 : State := { s with arrivals := s.arrivals ++ [a] }
        ∃ t, exec (.treeContribution p slot ord member x) s = .next t ∧ t.colls = [{ y with sent := s1.sends y }] ∧ t.mem = s.mem ∧
          t.cores = s.cores ∧ (s1.allSent y = false → t.arrivals = s1.arrivals))) ∧
    (∀ x peers, s.colls = [x] → s.arrivals = [] → s.launches = [] → x.state = .waiting → x.handed = true →
      ((∃ q ∈ peers, q ≠ x.desc.terms) → (s.core x.issuer.core).gen = x.issuer.gen →
        ∃ t, exec (.collectiveMatch x.id peers) s = .next t ∧ t.colls = [{ x with state := .cancelled, count := none, held := none, report := none }] ∧
          (t.core x.issuer.core).csrs = (s.core x.issuer.core).csrs ∧ ∃ e ∈ (t.core x.issuer.core).pend, e.1 = 0x12) ∧
      ((∀ q ∈ peers, q = x.desc.terms) → peers.length + 1 = x.desc.count →
        exec (.collectiveMatch x.id peers) s = .next (State.collStep { s with colls := [{ x with state := .running }] } x.id))) ∧
    ∀ x, s.colls = [x] → x.state = .running → x.handed = true → x.own.isSome = true → (∀ e ∈ x.keys (s.rankOf x), e ∈ x.written) →
      ∃ t, exec (.collectiveCompletion x.id) s = .next t ∧ (∃ y, t.colls = [y] ∧ y.id = x.id ∧ y.state = .complete ∧ y.bytes = x.bytes) ∧
        t.mem = s.mem ∧ (∀ l ∈ (t.pond (pondOf x.issuer.core)).locks, l.cmd ≠ x.id) ∧ (x.report = none → t.cores = s.cores) ∧
        ∀ va, x.report = some va → s.launches = [] → (s.core x.issuer.core).gen = x.issuer.gen → (s.core x.issuer.core).pend = [] →
          (t.core x.issuer.core).pend = [(0x0E, BitVec.ofNat 64 va)]

/-! ## The engines at work (R199, R233, R238-R240, R246, R250, R255, R257, R264, R282-R284, R288, R289, R294, R295) -/

/-- (R250, R157) The head of a channel starts when no earlier lock conflicts, and none of the cycle that brought its own can still come. (R255, R264) A beat moves up to 64 bytes: of a copy of bytes
between tarns each destination byte takes the source's and no other byte changes. (R255, R257) A copy whose elements are all moved leaves
its channel and releases its locks. (R199, R233, R238) A granted step of an i8 product adds to each tile element the exact sum of its 32
products, modulo 2^32. (R240) A command whose output is performed leaves its queue with its locks. (R246) `mmld.v` of 32-bit elements, so
here one row, writes that row of the tile from the value read at issue; `mmst.v` of such leaves the row as a late result for its register. -/
def Obligations.CopiesAndMatricesRun : Prop :=
  ∀ (s : State) (c : Nat), let k := s.core c
    let chip := chipOf c
    let place (va : Nat) : Nat := (windowPlace chip va).getD 0
    let tarn (va : Nat) : Prop := inWindow va = true ∧ (windowPlace chip va).isSome = true
    (∀ h x, k.copyHead h = some x → x.started = false → x.start = none → k.lively → s.lockTurn (pondOf c) x.id →
      ∃ t, exec (.copyStart c h) s = .next t ∧ (t.core c).copyHead h = some { x with started := true } ∧ (t.core c).regs = k.regs ∧
        t.mem = s.mem ∧ t.ponds = s.ponds) ∧
    (∀ h x d, h < 4 → (k.chan.toArray.getD h Channel.reset).cmds = [x] → (∀ y ∈ k.cmds, y.id = x.id → y = x) → x.work = .copy d →
      x.started = true → x.held = none → x.count = none → x.progress = 0 → x.wrote = 0 → s.copyGrant (pondOf c) = some (4 * localIndex c + h) →
      ptrFmt d.src = ptrFmt d.dst → ptrFmt d.src < 2 → ptrBlg d.src = 0 → d.rows = 1 → 0 < d.len → d.ring = none →
      s.marks = [] → s.latent = [] → s.tags = [] → Memory.wf s.mem = true →
      let n := min d.len 64
      let src := ptrVa d.src
      let dst := ptrVa d.dst
      (∀ j < n, tarn (src + j) ∧ tarn (dst + j) ∧ place (src + j) = place src + j ∧ place (dst + j) = place dst + j) →
      (place src + n ≤ place dst ∨ place dst + n ≤ place src) →
      ∃ t, exec (.copyBeat c h) s = .next t ∧ (∀ j < n, readByte t.mem (place dst + j) = readByte s.mem (place src + j)) ∧
        (∀ a, a < place dst ∨ place dst + n ≤ a → readByte t.mem a = readByte s.mem a) ∧ t.marks = [] ∧
        (t.core c).copyHead h = some { x with progress := n, wrote := 1 } ∧ (t.core c).regs = k.regs) ∧
    (∀ h x d, h < 4 → (k.chan.toArray.getD h Channel.reset).cmds = [x] → x.work = .copy d → x.started = true → x.held = none →
      d.ring = none → d.rows * d.len ≤ x.progress →
      ∃ t, exec (.copyCompletion c h) s = .next t ∧ (t.core c).copyHead h = none ∧ (t.core c).regs = k.regs ∧ t.mem = s.mem ∧
        ((t.core c).chan.toArray.getD h Channel.reset).ended = (k.chan.toArray.getD h Channel.reset).ended + 1 ∧
        ∀ l, l ∈ (t.pond (pondOf c)).locks ↔ l ∈ (s.pond (pondOf c)).locks ∧ l.cmd ≠ x.id) ∧
    (∀ x d rows cols again, k.matq = [x] → (∀ y ∈ k.cmds, y.id = x.id → y = x) → x.work = .mm d → x.started = true → x.held = none →
      x.progress = 0 → x.issuer.cls = .none → x.issuer.core = c → s.matGrant (pondOf c) = some (localIndex c) →
      d.sparse = false → ptrFmt d.aptr = 0 → ptrFmt d.bptr = 0 → d.sa = true → d.sb = true → d.isat = false → d.hasC = false →
      d.mt = 0 → d.nt = 0 → d.kt = 0 → d.tile < 2 → s.marks = [] → s.latent = [] → s.tags = [] →
      let a (r n : Nat) : Nat := ptrVa d.aptr + r * d.aStride + n
      let b (n q : Nat) : Nat := ptrVa d.bptr + n * d.bStride + q
      let byte (va : Nat) : Int := (BitVec.ofNat 8 (readNat s.mem (place va) 1)).toInt
      (∀ r < 32, ∀ n < 32, tarn (a r n) ∧ tarn (b r n)) →
      ∃ t, exec (.matrixStep (pondOf c) rows cols again) s = .next t ∧ (t.core c).matq = [] ∧ t.mem = s.mem ∧
        (t.core c).regs.s = k.regs.s ∧ ∀ r < 32, ∀ q < 32, ∀ (old : Nat) (p : Bool), (k.regs.tile d.tile)[32 * r + q]? = some (old, p) →
          ((t.core c).regs.tile d.tile)[32 * r + q]? =
            some ((BitVec.ofInt 32 (((if d.acc then old else 0 : Nat) : Int) + (List.range 32).foldl (fun z n => z + byte (a r n) * byte (b n q)) 0)).toNat,
              d.acc && p)) ∧
    (∀ x d, k.matq = [x] → x.work = .mm d → x.started = true → d.steps ≤ x.progress → (d.hasC = true → x.progress / d.groups ≤ x.wrote) →
      ∃ t, exec (.matrixCompletion c) s = .next t ∧ (t.core c).matq = [] ∧ (t.core c).regs = k.regs ∧ t.mem = s.mem ∧
        ∀ l, l ∈ (t.pond (pondOf c)).locks ↔ l ∈ (s.pond (pondOf c)).locks ∧ l.cmd ≠ x.id) ∧
    ∀ x d v, k.matq = [x] → (∀ y ∈ k.cmds, y.id = x.id → y = x) → x.work = .tile d → x.started = true → x.held = none →
      s.matGrant (pondOf c) = some (localIndex c) → d.vreg = some v → d.fmt = 6 → d.tile < 2 → d.addr.toNat < 32 →
      ∃ t, exec (.tileMove c) s = .next t ∧ (t.core c).matq = [] ∧ t.mem = s.mem ∧
        (d.store = true → (t.core c).regs = k.regs ∧ ∃ r, (t.core c).late = some r ∧ r.reg = v ∧ r.void = d.void ∧
          r.sup = decide (x.issuer.level = .supervisor) ∧ ∀ n < 32,
            (k.regs.tile d.tile)[32 * d.addr.toNat + n]? = some (r.data.toNat / 2 ^ (32 * n) % 2 ^ 32, r.poison.getLsbD n)) ∧
        (d.store = false → ∀ n < 1024, ((t.core c).regs.tile d.tile)[n]? =
          if 32 * d.addr.toNat ≤ n ∧ n < 32 * d.addr.toNat + 32
          then some (d.data.toNat / 2 ^ (32 * (n - 32 * d.addr.toNat)) % 2 ^ 32, d.poison.getLsbD (n - 32 * d.addr.toNat))
          else (k.regs.tile d.tile)[n]?)

/-- (R295) With the array free the next ready head of the round takes it. (R282, R283) A `tload` of one cell stores its image; a
cell whose image is malformed is not valid. (R284, R294) A `teval` of one sample and column writes the lowest leaf left by the masks of the cells
whose test fails. (R202, R288) A `tlv` of one tree writes the leaf's value for an index within the table. (R289) At completion the locks are
gone and the array is free. -/
def Obligations.ThresholdCommandsRun : Prop :=
  ∀ (s : State) (c : Nat), let k := s.core c
    let pond := pondOf c
    let place (va : Nat) : Nat := (windowPlace (chipOf c) va).getD 0
    let tarn (va : Nat) : Prop := va % 4 = 0 ∧ inWindow va = true ∧ (windowPlace (chipOf c) va).isSome = true
    let clean : Prop := s.marks = [] ∧ s.latent = [] ∧ s.tags = [] ∧ Memory.wf s.mem = true
    ∀ x, k.thrq = [x] → (∀ y ∈ k.cmds, y.id = x.id → y = x) → x.count = none → x.issuer.core = c →
    (x.started = false → x.start = none → k.lively → (s.pond pond).thrRunning = none →
      (∀ n < 8, n ≠ localIndex c → (s.core (pondCore pond n)).thrq = []) → s.lockTurn pond x.id →
      ∃ t, exec (.thresholdCommandStart pond) s = .next t ∧ (t.pond pond).thrRunning = some x.id ∧
        (t.pond pond).thrNext = (localIndex c + 1) % 8 ∧ (t.core c).thrq = [{ x with started := true }] ∧ (t.core c).regs = k.regs ∧
        t.mem = s.mem) ∧
    (x.started = true → x.progress ≠ 0 → ∃ t, exec (.thresholdCompletion c) s = .next t ∧ (t.core c).thrq = [] ∧
      (t.pond pond).thrRunning = none ∧ (t.core c).regs = k.regs ∧ t.mem = s.mem ∧
      ∀ l, l ∈ (t.pond pond).locks ↔ l ∈ (s.pond pond).locks ∧ l.cmd ≠ x.id) ∧
    (x.started = true → x.progress = 0 → clean →
      (∀ d col, x.work = .tload d → d.nr = 1 → d.nc = 1 → d.row0 < 64 → d.clr = false → s.lockedColumns pond x.id = [col] →
        d.addr.toNat % 16 = 0 → tarn d.addr.toNat →
        let image := readNat s.mem (place d.addr.toNat) 16
        let valid := image.testBit 95 && decide (image / 2 ^ 74 % 2 ^ 20 = 0)
        ∃ t, exec (.tloadRun c) s = .next t ∧ t.mem = s.mem ∧ (t.core c).thrq = [{ x with progress := 1, wrote := 16 }] ∧
          let info : Word := BitVec.ofNat 64 (image / 2 ^ 64)
          let cell : ThrCell := { mask := BitVec.ofNat 64 image, info := if valid then info else info &&& ~~~0x80000000, poison := false }
          (cell.mask ≠ 0 ∨ cell.info ≠ 0 → find (t.pond pond).cells (64 * col + d.row0) = some cell) ∧
          (cell.mask = 0 → cell.info = 0 → (s.pond pond).cells = [] → (t.pond pond).cells = []) ∧
          (image / 2 ^ 74 % 2 ^ 20 ≠ 0 → k.gen = x.issuer.gen → s.launches = [] → ∃ e ∈ (t.core c).pend, e.1 = 0x01)) ∧
      (∀ d col, x.work = .teval d → d.ns = 1 → d.nf = 1 → d.nc = 1 → d.int = true → d.pairs = 0 → s.lockedColumns pond x.id = [col] →
        tarn (ptrVa d.fptr) → tarn (ptrVa d.lptr) → (∀ e ∈ (s.pond pond).cells, e.2.poison = false ∧ e.2.info.toNat % 1024 = 0) →
        let f : Int := (BitVec.ofNat 32 (readNat s.mem (place (ptrVa d.fptr)) 4)).toInt
        let left (j : Nat) : Prop := j < 64 ∧ ∀ e ∈ (s.pond pond).cells, e.1 / 64 = col → e.2.info.getLsbD 31 = true →
          (BitVec.ofNat 32 (e.2.info.toNat / 2 ^ 32)).toInt < f → e.2.mask.getLsbD j = true
        ∃ t v, exec (.tevalRun c) s = .next t ∧ s.Stored t.mem (place (ptrVa d.lptr)) 4 v ∧ t.marks = [] ∧
          (t.core c).thrq = [{ x with progress := 1, wrote := 4 }] ∧
          ((left v ∧ ∀ j < v, ¬ left j) ∨ (v = 0xFFFFFFFF ∧ ∀ j < 64, ¬ left j))) ∧
      ∀ d, x.work = .tlv d → d.ns = 1 → d.nt = 1 → tarn (ptrVa d.iptr) → tarn (ptrVa d.optr) →
        let i := readNat s.mem (place (ptrVa d.iptr)) 4
        let at_ := ptrVa d.vptr + 4 * i
        let v := readNat s.mem (place at_) 4
        i < d.ln → tarn at_ → finite32 v →
        ∃ t, exec (.tlvRun c) s = .next t ∧ s.Stored t.mem (place (ptrVa d.optr)) 4 v ∧ t.marks = [] ∧
          (t.core c).thrq = [{ x with progress := 1, wrote := 4 }])

/-! ## The supervisor's commands to the springs (R142, R146, R278, R305, R306, R320, R321, R333-R335) -/

/-- (R142, R320) A command that no `stl.d.sys` has started does nothing. (R142, R146) A commit word of zero starts nothing; while a launch
is held a commit is busy; a table whose valid entries neither overlap, nor name what the partition lacks, nor break R143 is in force with
result 1. (R305, R306) A class command on a granule that no translation uses rewrites its class and leaves it zero, with no write-back
held for it. (R321) A probe reports where the walk stops; an edit writes (old AND NOT CLR) OR SET at its level and leaves no translation
formed from the entry, by the path it records (the model's choice: log entry 35). (R334) Set root, invalidate and clean drop translations
and lines, an answer is delivered. (R159, R335) A migration begins, is refused with result 2 while its spring moves another frame, and
ends, in a later turn of its own (log entry 36), with the bytes and marks in the new frame, the write-backs its spring has held since over
them in their order, and the leaf moved. Every command writes its status to the control page, which has a place of its own in the model
(log entry 53); no other byte of memory changes but those a clause names. -/
def Obligations.SupervisorCommandsAreDone : Prop :=
  ∀ (s : State) (p : Nat), Memory.wf s.mem = true → s.flights = [] →
    let q := s.part p
    let due (word : Nat) : Prop := ∃ c rest, q.pendingCmds = (word, c) :: rest ∧ ∀ l ∈ s.l1Of c, l.recorded = false
    let idle (word : Nat) : Prop := ∀ e ∈ q.pendingCmds, e.1 ≠ word
    let w := s.page p
    let status (t : State) (off gen result : Nat) : Prop := t.page p off = gen % 2 ^ 56 * 256 + result
    let only (t : State) (l : List (Nat × Nat)) : Prop :=
      ∀ a, (∀ x ∈ l, a < x.1 ∨ x.1 + x.2 ≤ a) → readByte t.mem a = readByte s.mem a
    let st (off : Nat) : Nat × Nat := (ctlPlace p off, 8)
    let reports : List (Nat × Nat) := [st 0x868, st 0x870, st 0x878]
    let new := ((List.range 64).filter fun n => (s.entryWord p n 0).testBit 63).map (s.entryAt p)
    ((idle 0x800 → exec (.rangeTableCommit p) s = .next s) ∧ (idle 0x810 → exec (.setClass p) s = .next s) ∧
      (idle 0x840 → exec (.probe p) s = .next s ∧ exec (.edit p) s = .next s) ∧ (idle 0x880 → exec (.setRoot p) s = .next s ∧
        exec (.invalidate p) s = .next s ∧ exec (.clean p) s = .next s ∧ exec (.answer p) s = .next s)) ∧
    (due 0x800 → w 0x800 = 0 → ∃ t, exec (.rangeTableCommit p) s = .next t ∧ t.mem = s.mem ∧ (t.part p).table = q.table) ∧
    (due 0x800 → w 0x800 ≠ 0 → s.launchHeld p = true → ∃ t, exec (.rangeTableCommit p) s = .next t ∧ status t 0x808 (w 0x800) 2 ∧
      only t [st 0x808] ∧ (t.part p).table = q.table) ∧
    (due 0x800 → w 0x800 ≠ 0 → s.launchHeld p = false → new.Pairwise (fun x y => x.overlaps y = false) → (∀ e ∈ new, q.lacks e = false) →
      (∀ n < 64, (s.entryWord p n 0).testBit 63 = true → s.entryBroken p n = false) → s.l1 = [] → s.l2 = [] →
      ∃ t, exec (.rangeTableCommit p) s = .next t ∧ status t 0x808 (w 0x800) 1 ∧ only t [st 0x808] ∧ (t.part p).table = new) ∧
    (let d := w 0x810
      let sp := bits d 15 5
      let gran := d % 2 ^ 15
      let g := sp * 2 ^ 36 + gran * 2 ^ 21
      let cls : BitVec 2 := BitVec.ofNat 2 (bits d 20 2)
      let others := (((s.spring sp).classes.filter fun e => e.1 / 1024 == gran / 1024 && e.1 != gran).map fun e => footprint e.2).foldl (· + ·) 0
      due 0x810 → d / 2 ^ 60 = 1 → bits d 22 38 = 0 → w 0x818 ≠ 0 → (32 * sp + gran / 1024) ∈ q.chans →
      ((s.spring sp).uses g = true → ∃ t, exec (.setClass p) s = .next t ∧ status t 0x820 (w 0x818) 2 ∧ only t [st 0x820] ∧
        t.springs = s.springs) ∧
      ((s.spring sp).uses g = false → others + footprint cls ≤ 2 ^ 21 → sortedKeys (s.spring sp).classes = true →
        ∃ t, exec (.setClass p) s = .next t ∧ status t 0x820 (w 0x818) 1 ∧ only t [st 0x820, (g, 2 ^ 21)] ∧ t.classAt g = cls ∧
          (∀ j < 2 ^ 21, readByte t.mem (g + j) = 0) ∧
          (∀ h ∈ (t.spring sp).held, ∀ u, h.frame = some u → ¬ (g ≤ 64 * u ∧ 64 * u < g + 2 ^ 21)) ∧ ∀ x ∈ t.marks, ¬ (g ≤ 4 * x ∧ 4 * x < g + 2 ^ 21))) ∧
    (let d := w 0x840
      let va := w 0x848
      let root := find q.roots (d % 2 ^ 16)
      due 0x840 → bits d 19 41 = 0 → bits va 57 7 = 0 → w 0x860 ≠ 0 →
      (d / 2 ^ 60 = 1 → bits d 16 3 = 0 → ∃ t, exec (.probe p) s = .next t ∧ only t reports ∧ t.springs = s.springs ∧
        match root with
        | none => status t 0x868 (w 0x860) 6 ∧ t.page p 0x870 = 0 ∧ t.page p 0x878 = 0
        | some r => let z := s.walkTo p va 6 5 1 r
          status t 0x868 (w 0x860) (if z.leaf then 1 else 6) ∧ t.page p 0x870 = z.lvl ∧ t.page p 0x878 = z.entry) ∧
      (d / 2 ^ 60 = 2 → bits d 16 3 = 1 → ∀ r, root = some r → r + 4096 ≤ 2 ^ 48 →
        let a := r + 8 * walkIndex va 1
        ∃ t, exec (.edit p) s = .next t ∧ only t ((a, 8) :: reports) ∧ status t 0x868 (w 0x860) 1 ∧ t.page p 0x870 = 1 ∧
          t.page p 0x878 = readNat s.mem a 8 ∧
          (∀ b < 64, (readNat t.mem a 8).testBit b = ((w 0x858).testBit b || ((readNat s.mem a 8).testBit b && !(w 0x850).testBit b))) ∧
          ∀ n ∈ q.springs, ∀ x ∈ (t.spring n).tlb, x.part = p → a ∉ x.path)) ∧
    (let d := w 0x880
      let asid : BitVec 16 := BitVec.ofNat 16 d
      let va := w 0x888
      let y := w 0x890
      let gen := w 0x8A0
      let span (b n : Nat) : Prop := va < b + n ∧ b < va + y
      due 0x880 → bits d 16 44 = 0 → w 0x898 = 0 → gen ≠ 0 →
      (d / 2 ^ 60 = 1 → va = 0 → y = 0 ∨ (y % 4096 = 0 ∧ y < 2 ^ 48 ∧ s.tableOk p y = true) → sortedKeys q.roots = true →
        ∃ t, exec (.setRoot p) s = .next t ∧ status t 0x8A8 gen 1 ∧ only t [st 0x8A8] ∧
          (∀ n, find (t.part p).roots n = if n = asid.toNat then (if y = 0 then none else some y) else find q.roots n) ∧
          ∀ n ∈ q.springs, ∀ x ∈ (t.spring n).tlb, x.part = p → x.asid ≠ asid ∧ x.leaf.getLsbD 6 = false) ∧
      (bits va 57 7 = 0 → 1 ≤ y → y ≤ 2 ^ 40 →
        (d / 2 ^ 60 = 2 → ∃ t, exec (.invalidate p) s = .next t ∧ status t 0x8A8 gen 1 ∧ only t [st 0x8A8] ∧
          ∀ n ∈ q.springs, (∀ x ∈ (t.spring n).tlb, x.part = p → x.asid = asid ∨ x.leaf.getLsbD 6 = true → ¬ span x.base (2 ^ x.bits)) ∧
            ∀ x ∈ (t.spring n).walk, x.part = p → x.asid = asid → ¬ span (x.pfx * 2 ^ (57 - 9 * x.level)) (2 ^ (57 - 9 * x.level))) ∧
        (d / 2 ^ 60 = 3 → (∀ x ∈ s.l2, x.dirty = 0) → ∃ t, exec (.clean p) s = .next t ∧ status t 0x8A8 gen 1 ∧ only t [st 0x8A8] ∧
          t.l1 = s.l1 ∧ (s.l2.Pairwise (fun x z => ¬ (x.part = z.part ∧ x.asid = z.asid ∧ x.line = z.line)) →
            ∀ x, x ∈ t.l2 ↔ x ∈ s.l2 ∧ ¬ (x.part = p ∧ x.asid = asid ∧ span (x.line * 64) 64)))) ∧
      (d / 2 ^ 60 = 4 → bits va 57 7 = 0 → ∀ r, find q.roots asid.toNat = some r →
        let z := s.walkTo p va 6 5 1 r
        let old := bits z.entry 12 36 * 4096
        (z.leaf = false → ∃ t, exec (.migrate p) s = .next t ∧ status t 0x8A8 gen 5 ∧ only t [st 0x8A8]) ∧
        (z.leaf = true → z.lvl = 5 → y % 4096 = 0 → y < 2 ^ 41 → old < 2 ^ 41 → y / 2 ^ 36 = old / 2 ^ 36 → q.ownsPa y = true →
          s.frameOk p va y 5 (bits z.entry 10 2) = true →
          ((s.spring (old / 2 ^ 36)).moving ≠ none → ∃ t, exec (.migrate p) s = .next t ∧ status t 0x8A8 gen 2 ∧ only t [st 0x8A8] ∧
            t.springs = s.springs) ∧
          ((s.spring (old / 2 ^ 36)).moving = none → ∃ t, exec (.migrate p) s = .next t ∧ t.mem = s.mem ∧
            t.turns = s.turns ++ [.unit (.migrate p)] ∧ (0x8A8, old / 2 ^ 36) ∈ (t.part p).pendingCmds ∧ (t.spring (old / 2 ^ 36)).moving =
              some { part := p, asid := asid, va := va, entry := z.addr, old := old, new := y, size := 4096, gen := gen }))) ∧
      (∀ c rest, q.pendingCmds = (0x880, c) :: rest → d / 2 ^ 60 = 5 → d % 2 ^ 16 = 0 →
        ∃ t, exec (.pageAnswer p (BitVec.ofNat 64 va) (BitVec.ofNat 64 y)) (s.modPart p fun q => { q with pendingCmds := rest }) = .next t ∧
          exec (.answer p) s = .next (t.maintResult p 1))) ∧
    ∀ sp m, q.pendingCmds.find? (fun e => e.1 == 0x880 || e.1 == 0x8A8) = some (0x8A8, sp) →
      let g := s.spring sp
      g.moving = some m →
      m.old % 4096 = 0 → m.new % 4096 = 0 → m.size % 4096 = 0 → m.old < 2 ^ 41 → m.new < 2 ^ 41 → m.size ≤ 2 ^ 36 →
      m.old + m.size ≤ m.new ∨ m.new + m.size ≤ m.old → s.latent = [] → m.entry + 8 ≤ 2 ^ 48 →
      m.entry + 8 ≤ m.new ∨ m.new + m.size ≤ m.entry → (∀ h ∈ g.held, ∀ u, h.frame = some u → m.old ≤ 64 * u ∧ 64 * u < m.old + m.size) →
      let entry := readNat s.mem m.entry 8
      let leaf := entry - bits entry 12 36 * 4096 + m.new
      ∃ t, exec (.migrate p) s = .next t ∧ status t 0x8A8 m.gen 1 ∧ only t [st 0x8A8, (m.new, m.size), (m.entry, 8)] ∧
        readNat t.mem m.entry 8 = leaf ∧ (t.spring sp).moving = none ∧ (t.part p).pendingCmds = q.pendingCmds.erase (0x8A8, sp) ∧
        (∀ j < m.size, readByte t.mem (m.new + j) =
          match g.held.reverse.find? (fun h => h.frame == some ((m.old + j) / 64) && h.mask.getLsbD (j % 64)) with
          | some h => BitVec.ofNat 8 (h.data.toNat / 256 ^ (j % 64))
          | none => readByte s.mem (m.old + j)) ∧
        ((∀ h ∈ g.held, h.frame = none) → ∀ j < m.size / 4, m.new / 4 + j ∈ t.marks ↔ m.old / 4 + j ∈ s.marks) ∧
        ∀ n ∈ q.springs, ∀ x ∈ (t.spring n).tlb, x.part = p → x.addr = m.entry → x.leaf.toNat = leaf

/-- (R278) With the command block's line in its home slice: register gives the slot its next generation, passing from 4095 to 1, and what
the block says; a slot with a command that has not ended is busy; revoke and forced revoke end the registration, and forced revoke
aborts such a command, whose core takes 0x11 and whose other members are told; nothing happens that no `stl.d.sys` has started. The status
doubleword returns the result and the handle. -/
def Obligations.HandleCommandsAreDone : Prop :=
  ∀ (s : State) (p : Nat) (asid : BitVec 16) (x : L2Line),
    let h := s.htab p
    let w (j : Nat) : Nat := x.data.toNat / 2 ^ (64 * j) % 2 ^ 64
    let slot := w 0 % 2 ^ 20
    let old := (s.part p).handle slot
    let returns (t : State) (result handle : Nat) : Prop := ∃ y, t.l2Get p asid (h / 64) = some y ∧
      y.data.toNat / 2 ^ 256 % 2 ^ 64 = (handle * 2 ^ 32 + result) % 2 ^ 64 ∧ ∀ j < 4, y.data.toNat / 2 ^ (64 * j) % 2 ^ 64 = w j
    ((∀ e ∈ (s.part p).pendingCmds, e.1 ≠ 0x1208) → exec (.register p asid) s = .next s ∧ exec (.revoke p asid) s = .next s ∧
      exec (.forcedRevoke p asid) s = .next s) ∧
    ∀ c rest, (s.part p).pendingCmds = (0x1208, c) :: rest → s.flights = [] →
    h % 64 = 0 → inWindow h = false → inControl h = false → s.l1 = [] → s.tags = [] → s.l2Get p asid (h / 64) = some x → x.err = none →
    bits (w 0) 20 40 = 0 → slot < s.hslots p →
    (w 0 / 2 ^ 60 = 1 → w 1 < 2 ^ 57 → 0 < w 2 → w 2 ≤ 2 ^ 40 → w 3 < Config.numCores → s.slotBusy p slot = false →
      let gen := if old.gen ≥ 4095 then 1 else old.gen + 1
      ∃ t, exec (.register p asid) s = .next t ∧ returns t 1 (slot * 4096 + gen) ∧ t.mem = s.mem ∧ t.cores = s.cores ∧
        (t.part p).handle slot = { old with gen := gen, live := true, base := w 1, len := w 2, owner := w 3 }) ∧
    (w 0 / 2 ^ 60 = 2 → (s.slotBusy p slot = true → ∃ t, exec (.revoke p asid) s = .next t ∧ returns t 2 0 ∧ t.mem = s.mem ∧ (t.part p).handle slot = old) ∧
      (s.slotBusy p slot = false → ∃ t, exec (.revoke p asid) s = .next t ∧ returns t 1 (slot * 4096 + old.gen) ∧ t.mem = s.mem ∧
        (t.part p).handle slot = { old with live := false })) ∧
    (w 0 / 2 ^ 60 = 3 → (s.colls = [] ∨ ∃ z, s.colls = [z] ∧ z.issuer.part = p ∧ z.slot = slot ∧ z.active = true) → s.launches = [] →
      ∃ t, exec (.forcedRevoke p asid) s = .next t ∧ returns t 1 (slot * 4096 + old.gen) ∧ t.mem = s.mem ∧
        (t.part p).handle slot = { old with live := false } ∧
        ∀ z ∈ s.colls, t.colls = [{ z with state := .aborted, count := none, held := none, report := none, sent := z.sent ++ s.endedTo z }] ∧
          ((s.core z.issuer.core).gen = z.issuer.gen → ∃ e ∈ (t.core z.issuer.core).pend, e.1 = 0x11))

/-! ## The host port and the links (R275, R329, R360, R367, R368, R378, R379, R381) -/

/-- (R360, R367) At a live virtual function a doorbell queues the window's record under the queue's next number, which the register then
reads, or leaves the code of a full queue; a write of 0x088 delivers the answer of 0x080; a window doubleword and a queue base take
what is written. (R367, R368) The earliest event that has been held for 2 µs is written to its slot, then the producer index advances,
with a signal where the queue was seen empty. (R381) The nonce's last doubleword asks for a report and clears READY; the report begins with
the nonce and the measurement's 64 bytes. (R161, R378) The host link with its decoders and the keying of a selective stream or the link
stream, (R379) the training, loss, tag failures and pair keys of the scale-out ports. The model's choices: decoders that come with the
host link's training and are checked there (log entry 84), writes that a function ignores until its partition's stream is keyed (log entry
47), a training that clears a loss (log entry 52), the report made in a step of its own (log entry 57). -/
def Obligations.HostAndLinksAct : Prop :=
  ∀ (s : State) (v : Nat), let p := s.part v
    (s.vfLive v = false → (∀ q, exec (.doorbell v q) s = .next s) ∧ ∀ d, exec (.vfAnswer v d) s = .next s ∧
      (∀ off, exec (.registerWrite v off d) s = .next s) ∧ exec (.attestationRequest v d) s = .next s) ∧
    (s.vfLive v = true →
      (∀ q, q < 8 → let l := p.queues.toArray.getD q LaunchQueue.reset
        ∃ t, exec (.doorbell v q) s = .next t ∧ (t.part v).queues.toArray.getD q LaunchQueue.reset =
          if s.queueFull v q then { l with given := 0x8000000000000001 }
          else { next := l.next + 1, given := BitVec.ofNat 64 (l.next % 2 ^ 63), openSeqs := l.openSeqs ++ [l.next],
                 queued := l.queued ++ [{ seq := l.next, slot := l.next % s.slots v q,
                                          words := p.vf.windows.toArray.getD q (Vector.replicate 8 0), rel := none }] }) ∧
      (∀ d, ∃ t, exec (.vfAnswer v d) s = .next t ∧ exec (.pageAnswer v p.vf.answer d) s = .next t) ∧
      (∀ q i d, q < 8 → i < 8 → let record := (p.vf.windows.toArray.getD q (Vector.replicate 8 0)).setIfInBounds i d
        ∃ t, exec (.registerWrite v (0x200 + 64 * q + 8 * i) d) s = .next t ∧ t.mem = s.mem ∧
          (t.part v).vf = { p.vf with windows := p.vf.windows.setIfInBounds q record }) ∧
      (∀ d, ∃ t, exec (.registerWrite v 0x060 d) s = .next t ∧ t.mem = s.mem ∧ (t.part v).vf = { p.vf with eventBase := d &&& ~~~0xFFF }) ∧
      (∀ d, ∃ t, exec (.attestationRequest v d) s = .next t ∧ (t.part v).vf.ready = false ∧ (t.part v).vf.asked = true ∧
        (p.vf.nonce.length = 32 → (t.part v).vf.nonce = p.vf.nonce.take 24 ++ (List.range 8).map fun i => BitVec.ofNat 8 (d.toNat / 2 ^ (8 * i)))) ∧
      (p.vf.asked = true → ∃ t r, exec (.attestationReportReady v) s = .next t ∧ (t.part v).vf.ready = true ∧
        (t.part v).vf.report = p.vf.nonce ++ natBytes 64 s.dev.measure.toNat ++ r)) ∧
    (∀ e ∈ p.events, (∀ x ∈ p.events, x ≠ e → e.before x = true) → Memory.wf s.mem = true →
      (s.gtime < e.time + 2000 → exec (.eventWrite v) s = .next s) ∧
      (e.time + 2000 ≤ s.gtime → p.vf.eventRoom = true →
        let a := hostPlace (p.vf.eventBase.toNat + 32 * (p.vf.eventProd.toNat % 2 ^ (p.vf.eventLog.toNat % 32)))
        ∃ t, exec (.eventWrite v) s = .next t ∧ (t.part v).events = p.events.erase e ∧ (t.part v).vf.eventProd = p.vf.eventProd + 1 ∧
          (t.part v).vf.msix = (if p.vf.eventProd = p.vf.eventCons then p.vf.msix ||| 1 else p.vf.msix) ∧
          readNat t.mem a 8 = e.time % 2 ^ 64 ∧
          readNat t.mem (a + 8) 8 = e.src % 2 ^ 20 * 2 ^ 44 + e.type % 2 ^ 8 * 2 ^ 36 + e.cause % 2 ^ 8 * 2 ^ 28 ∧
          readNat t.mem (a + 16) 8 = e.queue % 2 ^ 3 * 2 ^ 61 + e.seq % 2 ^ 61 ∧ readNat t.mem (a + 24) 8 = e.val.toNat ∧
          ∀ x, x < a ∨ a + 32 ≤ x → readByte t.mem x = readByte s.mem x)) ∧
    (∀ lanes speed (decoders : List (Nat × Nat × Nat)),
      let ok : Prop := (lanes = 16 ∨ lanes = 8 ∨ lanes = 4) ∧ (speed = 64 ∨ speed = 32) ∧
        (∀ d ∈ decoders, d.1 < 32 ∧ d.2.1 % 2 ^ 28 = 0 ∧ d.2.2 % 2 ^ 28 = 0) ∧
        decoders.Pairwise fun a b => a.1 ≠ b.1 ∧ (a.2.1 + a.2.2 ≤ b.2.1 ∨ b.2.1 + b.2.2 ≤ a.2.1)
      (ok → exec (.hostLinkTraining (lanes, speed) decoders) s = .next
        { s with dev := { s.dev with hostLanes := lanes, hostSpeed := speed, decoders := decoders } }) ∧
      (¬ ok → exec (.hostLinkTraining (lanes, speed) decoders) s = .next s)) ∧
    (v ≠ 32 → p.live = true → s.dev.hostLanes ≠ 0 → ∃ t, exec (.ideKeying v) s = .next t ∧
      t.part v = { p with ideKey := some (Config.ideKey (some v) s.stepNo) } ∧ t.dev = s.dev) ∧
    (s.dev.hostLanes ≠ 0 →
      exec (.ideKeying 32) s = .next { s with dev := { s.dev with linkKey := some (Config.ideKey none s.stepNo) } }) ∧
    ((v ≠ 32 ∧ p.live = false) ∨ s.dev.hostLanes = 0 → exec (.ideKeying v) s = .next s) ∧
    (∀ n lanes, 32 ≤ n → exec (.scaleOutTraining n lanes) s = .next s) ∧
    (∀ n lanes, n < 32 → ∃ t, exec (.scaleOutTraining n lanes) s = .next t ∧ t.parts = s.parts ∧ (∀ m, m ≠ n → t.port m = s.port m) ∧
      ((t.port n).trained = true ↔ 4 ≤ lanes ∧ lanes ≤ 8) ∧ (4 ≤ lanes → lanes ≤ 8 → (t.port n).lanes = lanes ∧ (t.port n).lost = false)) ∧
    (∀ n, ∃ t, exec (.flitTagFailure n) s = .next t ∧ (t.port n).trained = false ∧ t.mem = s.mem ∧
      ((s.port n).trained = true → (t.port n).lostAt = some s.fabric)) ∧
    (∀ n x at_, (s.port n).lostAt = some at_ → (s.port n).trained = false → s.colls = [x] → x.active = true →
      (s.fabric < at_ + 2000000 → exec (.linkLost n [x.id]) s = .next s) ∧
      (at_ + 2000000 ≤ s.fabric → ∃ t, exec (.linkLost n [x.id]) s = .next t ∧ (t.port n).lost = true ∧
        t.colls = [{ x with state := .cancelled, count := none, held := none, report := none, sent := x.sent ++ s.endedTo x }])) ∧
    ∀ peer, p.live = true → (∃ e ∈ p.peers, e.num = peer ∧ e.own = false) → ∃ t, exec (.pairKeyAgreement v peer) s = .next t ∧
      find (t.part v).linkKeys peer = some (Config.pairKey v peer s.stepNo, 0) ∧ t.dev = s.dev

/-! ## Partitions and launches (R142, R23, R312, R360-R362, R364, R366, R382) -/

/-- (R142, R356, R365, R382) A partition is created live with what the controller gives it, if its peer table has one entry of its own,
its router shares fit beside the others' and HTAB, HSLOTS, NCTR and CTAB are such as R356 lets them be, its two pages zero but for RTAB,
HTAB, HSLOTS and CTAB, and ends with nothing. The bytes of a channel whose partition it leaves are noise from then on. (R364) What is added
joins at the next admission round; what is removed goes unless a held launch or a backed granule needs it, and either moves the ownership
generation on. (R266, R366) A reset stops the cores and engines, drops the caches and packets of the partition and starts the counts of
its handles anew. The model's choices (log entry 46): when the ownership generation moves on, the refusal of a creation whose shares do
not fit, noise in every byte of a lost channel with a new key for the partition that loses it. -/
def Obligations.PartitionsChange : Prop :=
  ∀ (s : State) (p : Nat), let q := s.part p
    let lost (n a : Nat) : Prop := n * 2 ^ 31 ≤ a ∧ a < (n + 1) * 2 ^ 31
    (∀ self chips chans (peers : List Peer) shares springs (htab slots ctab : Word) hslots nctr, q.live = false → p < Config.numParts →
      slots.toNat = hslots + 2 ^ 32 * nctr → hslots < 2 ^ 20 → 1 ≤ nctr → nctr ≤ 65536 → htab.toNat < 2 ^ 57 → ctab.toNat < 2 ^ 57 →
      (∀ n ∈ chips, s.chipTaken n = false ∧ n < Config.numChips) → (∀ n ∈ chans, s.chanTaken n = false ∧ n < 1024) →
      Memory.wf s.mem = true → ((peers.filter fun e => e.own).map fun e => e.num) = [self] → s.sharesFit shares = true →
      ∃ t, exec (.partitionCreation p self chips chans peers shares springs htab slots ctab) s = .next t ∧
        (t.part p).live = true ∧ (t.part p).peers = peers ∧ (t.part p).self = self ∧ (t.part p).ownGen = q.ownGen + 1 ∧ (∀ n, n ∈ (t.part p).chips ↔ n ∈ chips) ∧
        (∀ n, n ∈ (t.part p).chans ↔ n ∈ chans) ∧ (t.part p).table = [] ∧ (t.part p).memKey = some (Config.memoryKey p s.stepNo) ∧
        (∀ j < 1024, t.page p (8 * j) = if j = 576 then 0x0001000000000000 else if j = 577 then htab.toNat else if j = 578 then slots.toNat
          else if j = 579 then ctab.toNat else 0) ∧
        ∀ a, a < ctlPlace p 0 ∨ ctlPlace p 0 + 8192 ≤ a → readByte t.mem a = readByte s.mem a) ∧
    (∀ self chips chans (peers : List Peer) shares springs (htab slots ctab : Word), ((peers.filter fun e => e.own).map fun e => e.num) ≠ [self] ∨
      s.sharesFit shares = false ∨ 2 ^ 57 ≤ htab.toNat ∨ 2 ^ 57 ≤ ctab.toNat ∨ 2 ^ 20 ≤ slots.toNat % 2 ^ 32 ∨ slots.toNat / 2 ^ 32 = 0 ∨
      65536 < slots.toNat / 2 ^ 32 →
      exec (.partitionCreation p self chips chans peers shares springs htab slots ctab) s = .next s) ∧
    (q.live = true → s.launches = [] → Memory.wf s.mem = true → ∃ t, exec (.partitionDestruction p) s = .next t ∧ (t.part p).live = false ∧
      (t.part p).chips = [] ∧ (t.part p).memKey = none ∧ (∀ n, n ≠ p → t.part n = s.part n) ∧ (∀ x ∈ t.l2, x.part ≠ p) ∧ t.cores = s.cores ∧
      ∀ a, readByte t.mem a = if ∃ n ∈ q.chans, lost n a then Config.noise s.stepNo a else readByte s.mem a) ∧
    (q.live = true → ∀ n,
      (n < Config.numChips → s.chipTaken n = false → ∃ t, exec (.ownershipChange p true false n) s = .next t ∧
        t.part p = { q with joinChips := q.joinChips ++ [n] } ∧ t.mem = s.mem) ∧
      (n < 1024 → s.chanTaken n = false → ∃ t, exec (.ownershipChange p true true n) s = .next t ∧
        t.part p = { q with joinChans := q.joinChans ++ [n] } ∧ t.mem = s.mem) ∧
      (n ∈ q.chips → s.l2 = [] →
        ((∃ l ∈ s.launches, l.part = p ∧ (l.state = .running ∨ l.state = .preempted) ∧ n ∈ rectChips l.rect) →
          exec (.ownershipChange p false false n) s = .next s) ∧
        (s.launches = [] → ∃ t, exec (.ownershipChange p false false n) s = .next t ∧
          t.part p = { q with chips := q.chips.filter (· ≠ n), ownGen := q.ownGen + 1 })) ∧
      (n ∈ q.chans →
        ((∃ e ∈ (s.spring (n / 32)).classes, e.1 / 1024 = n % 32) → exec (.ownershipChange p false true n) s = .next s) ∧
        ((s.spring (n / 32)).classes = [] → Memory.wf s.mem = true → ∃ t, exec (.ownershipChange p false true n) s = .next t ∧
          t.part p = { q with chans := q.chans.filter (· ≠ n), ownGen := q.ownGen + 1, memKey := some (Config.memoryKey p s.stepNo) } ∧
          ∀ a, readByte t.mem a = if lost n a then Config.noise s.stepNo a else readByte s.mem a))) ∧
    (s.launches = [] → ∃ t, exec (.admissionRound p) s = .next t ∧ t.mem = s.mem ∧ (t.part p).round = s.gtime ∧
      (∀ n, n ∈ (t.part p).chips ↔ n ∈ q.chips ∨ n ∈ q.joinChips) ∧ (∀ n, n ∈ (t.part p).chans ↔ n ∈ q.chans ∨ n ∈ q.joinChans) ∧
      (t.part p).joinChips = [] ∧ (t.part p).joinChans = [] ∧
      (t.part p).ownGen = if q.joinChips = [] ∧ q.joinChans = [] then q.ownGen else q.ownGen + 1) ∧
    (s.launches = [] → ∃ t, exec (.partitionReset p) s = .next t ∧ (∀ x, x ∈ t.l2 ↔ x ∈ s.l2 ∧ x.part ≠ p) ∧
      (∀ x, x ∈ t.packets ↔ x ∈ s.packets ∧ x.part ≠ p) ∧ (∀ x, x ∈ t.flights ↔ x ∈ s.flights ∧ x.part ≠ p) ∧ t.mem = s.mem ∧
      (∀ h ∈ (t.part p).handles, h.2.colls = 0) ∧
      ∀ e ∈ s.cores, sortedKeys s.cores = true → e.2.task.part = p → e.2.run = .idle →
        t.core e.1 = { Core.reset e.1 with gen := e.2.gen + 1, task := e.2.task })

/-- (R360) The oldest queued record leaves its queue: where the queue is broken it is rejected with status 0x16 and event 9, where it passes
every check its launch is accepted with event 1. (R25, R362) A round starts an accepted launch at the head of its queue where it fits: each
core of the rectangle runs a task from the image's entry. (R312, R361) When every task has ended the launch is over: its cores are
idle, and it completed (event 2) unless a core was killed (event 3). That the record is judged as its slot holds it when it is handled, and
under the sequencer's ASID, is the model's choice (log entry 41), as is a launch that waits for threshold commands left running on its
cores (log entry 85). -/
def Obligations.LaunchesRun : Prop :=
  ∀ (s : State) (p q : Nat),
    let posted (t : State) (seq type cause : Nat) : Prop :=
      ∃ e ∈ (t.part p).events, e.type = type ∧ e.cause = cause ∧ e.queue = q ∧ e.seq = seq
    (∀ x rest, q < 8 → ((s.part p).queues.toArray.getD q LaunchQueue.reset).queued = x :: rest → x.rel = none → s.l1 = [] →
      (s.queueBroken p q = true → ∃ t, exec (.launchRecordHandling p q) s = .next t ∧ t.launches = s.launches ∧ posted t x.seq 9 0x16 ∧
        ((t.part p).queues.toArray.getD q LaunchQueue.reset).queued = rest ∧
        x.seq ∉ ((t.part p).queues.toArray.getD q LaunchQueue.reset).openSeqs) ∧
      ∀ u r u' e, s.queueBroken p q = false →
        (s.modQueue p q fun l => { l with queued := rest }).fetch8 (s.sequencer p q) (s.slotAddr p q x.seq) = (u, some r) →
        u.judge p q r = (u', .inr e) → ∃ t, exec (.launchRecordHandling p q) s = .next t ∧ posted t x.seq 1 0 ∧ ∃ l,
          t.launches = u'.launches ++ [l] ∧ l.part = p ∧ l.queue = q ∧ l.seq = x.seq ∧ l.state = .accepted ∧ l.record = r ∧ l.image = e) ∧
    (∀ l r, q < 8 → s.launches = [l] → l.part = p → l.queue = q → l.state = .accepted → l.stopping = false → s.queueBroken p q = false →
      bits (s.queueDesc p q 2) 32 32 ≠ 0 → bits (word8 l.record 5) 0 16 = 0 → imgLen l.image = 0 → s.place l [] = some r →
      l.w = recW l.record → l.h = recH l.record →
      (s.part p).joinChips = [] → (s.part p).joinChans = [] → s.l1 = [] → (∀ e ∈ s.cores, ∀ x ∈ e.2.thrq, x.started = false) →
      ∃ t l', exec (.admissionRound p) s = .next t ∧ t.launches = [l'] ∧ l'.state = .running ∧ l'.rect = r ∧
        ∀ c ∈ rectCores r, let k := t.core c
          k.run = .running ∧ k.level = .user ∧ k.pc.toNat = word8 l.image 0 % 2 ^ 57 ∧ k.csrs.taskclk = 0 ∧
          k.csrs.budget.toNat = word8 l.record 3 % 2 ^ 32 ∧ (k.regs.scalar 59).toNat = word8 l.record 1 ∧ k.inq = Vector.replicate 4 []) ∧
    ∀ seq l, s.launches = [l] → l.part = p → l.queue = q → l.seq = seq → l.state = .running → bits (word8 l.record 5) 48 16 = 0 →
      s.l1 = [] →
      ((∃ c ∈ rectCores l.rect, (s.core c).run = .running) → exec (.launchCompletion p q seq) s = .next s) ∧
      ((∀ c ∈ rectCores l.rect, ∃ b, (s.core c).run = .ended b) → ∃ t, exec (.launchCompletion p q seq) s = .next t ∧ t.launches = [] ∧
        (∀ c ∈ rectCores l.rect, (t.core c).run = .idle) ∧
        ((∀ c ∈ rectCores l.rect, (s.core c).run = .ended false) → posted t seq 2 0) ∧
        ((∃ c ∈ rectCores l.rect, (s.core c).run = .ended true) → posted t seq 3 0))

/-! ## Bringing up a window, clocks, budgets and shares (R350-R353, R365, R370, R372, R374, R380) -/

/-- (R380) The boot accepts firmware only where every image's signature verifies, and extends the measurement by every image's digest. (R350)
The first source started names the window, an aligned rectangle; its clock goes to the edge chiplet of its row. (R351) A DARK chiplet locks
to a valid clock that has reached it, once its cycle is over, and 4096 cycles later presents it to its DARK neighbours. (R374) Each state is left only by its own condition; a failed check, an expired limit or the controller fences a
chiplet for good, with the reason recorded, and beyond a state's limit nothing else moves it on. What is DARK when `NSEL` is written stays so. (R375) A
logical column of the window that its row has no site for is fenced (10). (R353) Where some path of every pair is clear, each `NSEL` bit
says that the XY path alone is blocked; otherwise the window is degraded and no chiplet is released. The model's choices (log entry 50): no
firmware from an empty list of images and one boot only, columns without a site fenced when the first source starts, which clocks are
valid, which chiplets are left DARK or passed over, pairs judged among the chiplets that are not cut off, and nothing but fencing beyond a
state's limit. -/
def Obligations.WindowsComeUp : Prop :=
  ∀ (s : State) (n : Nat), let h := s.chip n
    let moved (i : Instr) (st : BitVec 3) : Prop :=
      ∃ t, exec i s = .next t ∧ t.chip n = { h with state := st, since := s.fabric } ∧ (∀ m, m ≠ n → t.chip m = s.chip m) ∧ t.dev = s.dev
    let within : Prop := s.fabric ≤ h.since + 2 ^ 20
    let fenced (i : Instr) (reason : Nat) : Prop :=
      s.launches = [] → n < 320 → ∃ t, exec i s = .next t ∧ (t.chip n).state = 7 ∧ (t.chip n).fail = reason ∧ t.mem = s.mem ∧
        ∀ m, m / 20 ≠ n / 20 → t.chip m = s.chip m
    (∀ images, s.dev.booted = false → ∃ t, exec (.rootOfTrustBoot images) s = .next t ∧ t.dev.booted = true ∧
      (t.dev.firmware = true ↔ images ≠ [] ∧ ∀ i ∈ images, Config.falconVerify i.2 (Config.digest i.1) = true) ∧ t.chips = s.chips ∧
      t.dev.measure = images.foldl (fun m i => Config.shake256 (natBytes 64 m.toNat ++ Config.digest i.1)) s.dev.measure) ∧
    (∀ images, s.dev.booted = true → exec (.rootOfTrustBoot images) s = .next s) ∧
    (∀ src x y w b, s.dev.firmware = false → exec (.edgeSourceStart src x y w b) s = .next s) ∧
    (∀ src x y w b, s.dev.firmware = true → src < 32 → 0 < w → 0 < b → x + w ≤ 20 → y + b ≤ 16 → x % w = 0 → y % b = 0 → src ∉ s.dev.started →
      s.dev.window = some (x, y, w, b) ∨ (s.dev.window = none ∧ s.launches = [] ∧ ∀ m, (s.chip m).state = 0) →
      ∃ t, exec (.edgeSourceStart src x y w b) s = .next t ∧ t.dev.window = some (x, y, w, b) ∧ t.mem = s.mem ∧ t.cores = s.cores ∧
        (∀ m, t.chip m = if s.dev.window = none ∧ m < 320 ∧ x ≤ m % 20 ∧ m % 20 < x + w ∧ y ≤ m / 20 ∧ m / 20 < y + b ∧ siteOf m = none
          then { s.chip m with state := 7, fail := 10, since := s.fabric, cut := true } else s.chip m) ∧
        t.dev.clocks = if y ≤ src % 16 ∧ src % 16 < y + b then
            s.dev.clocks ++ [⟨20 * (src % 16) + (if src < 16 then x else x + w - 1), if src < 16 then 0 else 2, BitVec.ofNat 8 src, s.fabric⟩]
          else s.dev.clocks) ∧
    (∀ c, s.dev.clocks = [c] → c.chip = n → c.at_ < s.fabric → h.state = 0 → s.inWin n = true → n < 320 →
      (∀ m ∈ s.windowChips, m ≠ n → (s.chip m).clocked = true → (s.chip m).presented = true) → s.launches = [] →
      s.dev.routed = false → s.dev.degraded = false → let d := s.deadCount (n / 20)
      ∃ t, exec (.clockArrival n) s = .next t ∧ t.mem = s.mem ∧ t.dev.clocks = [] ∧
        (Config.clockValid s.stepNo = false → t.chips = s.chips) ∧
        (Config.clockValid s.stepNo = true →
          (d < 2 ∨ n % 20 + d < 21 → t.chip n = { h with state := 1, src := c.src, dir := c.dir, since := c.at_, locked := c.at_ }) ∧
          (2 ≤ d → 21 ≤ n % 20 + d → (t.chip n).state = 7 ∧ (t.chip n).fail = 10))) ∧
    (s.dev.routed = true ∨ s.dev.degraded = true → exec (.clockArrival n) s = .next s) ∧
    (h.clocked = true → h.presented = false → h.locked + 4096 ≤ s.fabric → ∃ t, exec (.clockForward n) s = .next t ∧
      t.chip n = { h with presented := true } ∧ (∀ x ∈ s.dev.clocks, x ∈ t.dev.clocks) ∧
      ∀ e ∈ s.neighbours n, (s.chip e.2).state = 0 → (⟨e.2, BitVec.ofNat 2 (facing e.1), h.src, h.locked + 4096⟩ : Clock) ∈ t.dev.clocks) ∧
    (h.clocked = false ∨ s.fabric < h.locked + 4096 → exec (.clockForward n) s = .next s) ∧
    (∀ image digest, (h.state = 1 → within → Config.digest image = digest → moved (.configured n image digest) 2) ∧
      (h.state = 1 → within → Config.digest image ≠ digest → fenced (.configured n image digest) 9) ∧
      (h.state ≠ 1 ∨ ¬ within → exec (.configured n image digest) s = .next s)) ∧
    (h.state = 2 → within → moved (.tested n true) 3 ∧ fenced (.tested n false) 8) ∧ (h.state ≠ 2 ∨ ¬ within → ∀ ok, exec (.tested n ok) s = .next s) ∧
    (∀ dead : BitVec 16, h.state = 3 → within → n < 320 → ∃ t, exec (.trained n dead) s = .next t ∧ (t.chip n).state = 4 ∧ (t.chip n).since = s.fabric ∧
      ∀ e ∈ s.neighbours n, 3 ≤ (s.chip e.2).state.toNat → (s.chip e.2).state ≠ 7 → ∀ b < 4,
        (t.chip n).dead.getLsbD (4 * e.1 + b) = (h.dead.getLsbD (4 * e.1 + b) || dead.getLsbD (4 * e.1 + b)) ∧
        (t.chip e.2).dead.getLsbD (4 * facing e.1 + b) = ((s.chip e.2).dead.getLsbD (4 * facing e.1 + b) || dead.getLsbD (4 * e.1 + b))) ∧
    (h.state ≠ 3 ∨ ¬ within → ∀ dead, exec (.trained n dead) s = .next s) ∧
    (h.state = 4 → within → s.dev.routed = true → s.dev.degraded = false → moved (.forwarding n) 5) ∧
    (h.state ≠ 4 ∨ ¬ within ∨ s.dev.routed = false ∨ s.dev.degraded = true → exec (.forwarding n) s = .next s) ∧
    (h.state = 5 → within → (∀ e ∈ s.neighbours n, s.passedOver e.2 = true ∨ 5 ≤ (s.chip e.2).state.toNat) → moved (.ready n) 6) ∧
    (h.state ≠ 5 ∨ ¬ within ∨ (∃ e ∈ s.neighbours n, s.passedOver e.2 = false ∧ (s.chip e.2).state.toNat < 5) → exec (.ready n) s = .next s) ∧
    (h.state ≠ 0 → h.state ≠ 6 → h.state ≠ 7 → h.since + 2 ^ 20 < s.fabric → fenced (.stateLimitExpiry n) h.state.toNat) ∧
    (s.fabric ≤ h.since + 2 ^ 20 → exec (.stateLimitExpiry n) s = .next s) ∧
    (h.state ≠ 0 → h.state ≠ 7 → fenced (.fenced n 10) 10 ∧ fenced (.fenced n 11) 11) ∧
    (s.dev.window.isSome = true → s.dev.routed = false → s.dev.degraded = false →
      (∀ m ∈ s.windowChips, s.passedOver m = true ∨ (s.chip m).state = 4) → let l := s.routedChips
      let blocked (net a b : Nat) : Prop := s.blocked (pathXy a b) (2 * net) = true
      let other (net a b : Nat) : Prop := s.blocked (pathYx a b) (2 * net + 1) = true
      let lost : Prop := ∃ a ∈ l, ∃ b ∈ l, ∃ net < 2, blocked net a b ∧ other net a b
      ∃ t, exec .nselWrite s = .next t ∧ (lost → t = { s with dev := { s.dev with degraded := true } }) ∧
        (¬ lost → t.dev = { s.dev with routed := true } ∧ ∀ a ∈ l, ∀ b ∈ l,
          ((t.chip a).nselCached.getLsbD b = true ↔ blocked 0 a b ∧ ¬ other 0 a b) ∧
          ((t.chip a).nselMessage.getLsbD b = true ↔ blocked 1 a b ∧ ¬ other 1 a b)))

/-- (R372) A chiplet's clock takes a value from 700 to 1400 MHz in steps of 50 and freezes its cores for at most 4000 fabric cycles; a hot
chiplet is stepped down. A hot spring scales every share of it by one factor and tells each live partition its new share; a hot chiplet's
partition is told. (R370) Once per microsecond the grants of a spring, within what it moves, are in force. (R365) Once in 256 fabric cycles
each live partition's buckets of a port gain its share, up to 64 flits; after several such periods one share each. The model's choices: a factor given as two numbers, what a
spring moves, and which spring is behind a port (log entry 7); tokens and grants that no traffic consumes (log entry 49). -/
def Obligations.SharesAndClocksAreKept : Prop :=
  ∀ (s : State) (n : Nat),
    (∀ mhz, n < 320 → 700 ≤ mhz → mhz ≤ 1400 → mhz % 50 = 0 → ∃ t, exec (.clockChange n mhz) s = .next t ∧ (t.chip n).mhz = mhz ∧
      s.fabric ≤ (t.chip n).frozenUntil ∧ (t.chip n).frozenUntil ≤ s.fabric + 4000 ∧ (∀ m, m ≠ n → t.chip m = s.chip m) ∧ t.cores = s.cores) ∧
    (∀ mhz, 320 ≤ n ∨ mhz < 700 ∨ 1400 < mhz ∨ mhz % 50 ≠ 0 → exec (.clockChange n mhz) s = .next s) ∧
    (n < 320 → ∃ t, exec (.chipletThermalLimit n) s = .next t ∧ (t.chip n).mhz = Nat.max 700 ((s.chip n).mhz - 50) ∧ t.cores = s.cores ∧
      (sortedKeys s.parts = true → ∀ e ∈ s.parts, e.2.live = true → n ∈ e.2.chips → ∃ x ∈ (t.part e.1).events, x.type = 7 ∧ x.time = s.gtime)) ∧
    (∀ num den, n < 32 → 0 < num → num ≤ den → ∃ t, exec (.springThermalLimit n num den) s = .next t ∧ t.cores = s.cores ∧
      (t.spring n).hot = true ∧ (∀ share, (t.spring n).scaled share = share * num / den) ∧
      (sortedKeys s.parts = true → ∀ e ∈ s.parts, ∀ share, e.2.live = true → find e.2.springShares n = some share →
        ∃ x ∈ (t.part e.1).events, x.type = 8 ∧ x.val = BitVec.ofNat 64 (share * num / den))) ∧
    (∀ grants, n < 32 → (find s.dev.intervals n).getD 0 < s.gtime / 1000 → (grants.map Prod.snd).foldl (· + ·) 0 ≤ s.springBytes n →
      ∃ t, exec (.byteBudgetInterval n grants) s = .next t ∧ (t.spring n).budgets = grants ∧ find t.dev.intervals n = some (s.gtime / 1000) ∧
        t.cores = s.cores) ∧
    (s.fabric < (find s.dev.refills n).getD 0 + 256 → exec (.tokenBucketRefill n) s = .next s) ∧
    ((find s.dev.refills n).getD 0 + 256 ≤ s.fabric → sortedKeys s.parts = true → (∀ e ∈ s.parts, e.1 < 32) →
      ∃ t, exec (.tokenBucketRefill n) s = .next t ∧ t.cores = s.cores ∧ t.parts = s.parts ∧ s.fabric < (find t.dev.refills n).getD 0 + 256 ∧
        ∀ e ∈ s.parts, e.2.live = true → let g := s.spring (Config.portSpring n)
          let k := (s.fabric - (find s.dev.refills n).getD 0) / 256
          let was (i : Nat) : Nat := (find s.dev.tokens (64 * n + 2 * e.1 + i)).getD 0
          find t.dev.tokens (64 * n + 2 * e.1) = some (Nat.min 64 (was 0 + k * g.scaled e.2.cachedShare)) ∧
          find t.dev.tokens (64 * n + 2 * e.1 + 1) = some (Nat.min 64 (was 1 + k * g.scaled e.2.messageShare)))

/-! ## Decoding, the step, reset, and what every step keeps (R3, R7, R21, R25, R52, R77, R98, R142, R328, R374) -/

/-- (R52, R60-R71) The words of every well-formed instruction decode to it, with every operand at every value its encoding admits, and leave
the words after it; and words that decode are the words of exactly that instruction, which is well-formed: no two words mean the same. -/
def Obligations.DecodeAndEncodeAgree : Prop :=
  (∀ (i : Instr) (rest : List Word32), i.wf = true → i.word?.isSome = true → decodeWords (encode i ++ rest) = some (i, rest)) ∧
  ∀ (ws rest : List Word32) (i : Instr), decodeWords ws = some (i, rest) → i.wf = true ∧ encode i ++ rest = ws

/-- (R52) Words written out from the encodings of the spec mean what it says: the examples of R108 and R162. -/
def Obligations.WordsDecode : Prop :=
  decodeWords [0x5A010006] = some (.csrr 0 1 6, []) ∧ decodeWords [0x50001803] = some (.loop 0 6 3, []) ∧
  decodeWords [0x48020C4C] = some (.ptag 0 2 3 9 4, []) ∧ decodeWords [0x2A010831] = some (.gop 0 1 2 3 1, []) ∧
  decodeWords [0x56000005] = some (.trap 0 5, []) ∧ decodeWords [0x54000000] = some (.halt 0, []) ∧
  decodeWords [0x52041110] = some (.rpt 0 4 1 1 1 0, []) ∧ decodeWords [0x8C00000D] = some (.fenceAcq 0 3, []) ∧
  decodeWords [0x8C00000B] = some (.fenceFull 0 2, []) ∧ decodeWords [0x8C000012] = some (.fenceRel 0 4, []) ∧
  decodeWords [0x00000001] = none ∧ decodeWords [] = none

/-- (R52, R77, R98) A step of a core that nothing comes before issues the instruction that the words at its pc decode to, whose line is in its
home slice: the step is `exec` of it, once the clock has moved on. A word that is no instruction is the row ILLEGAL_WORD. (R35) Where the
start moment of an offset command comes while the instruction still waits for its operands, the core cycles up to that moment pass and the
instruction has not issued. A step of another agent is `exec` of its row. That a fetch reads the home slice, past the L1, is the model's
choice (log entry 58), as is the wall time that a step takes (log entry 5). -/
def Obligations.StepRunsTheDecodedInstruction : Prop :=
  ∀ (s u : State), (s.turns = [] ∧ u = s) ∨ (∃ c rest, s.turns = .core c :: rest ∧ u = { s with turns := rest, cur := c }) →
    (let k := u.core u.cur
      let line (a : Word) : Option L2Line := u.l2Get k.task.part k.csrs.asid (a.toNat / 64)
      let word (x : L2Line) (a : Word) : Word32 := BitVec.ofNat 32 (lineBytes x.data (a.toNat % 64) 4)
      let merged (a : Word) : Prop := ∀ e ∈ u.l1, ∀ l ∈ e.2, l.updateOnly = true → l.asid = k.csrs.asid → l.line ≠ a.toNat / 64
      let runs (i : Instr) : Prop :=
        (k.level = .supervisor ∨ (∀ n, u.nextStart u.cur = some n → k.waits i < n) → step s = exec i u.tickClock) ∧
        (k.level = .user → ∀ n, u.nextStart u.cur = some n → n ≤ k.waits i → step s = .next (u.tickClock.setCore u.cur (k.tick n)))
      u.cur < Config.numCores → sortedKeys u.cores = true → k.run = .running → k.wait = .none → k.group.fwd = .none → k.group.pair = .none →
      (u.chip (chipOf u.cur)).frozenUntil ≤ u.fabric → k.energy < 10 ^ 9 → u.dueIds u.cur = [] → k.pend = [] ∨ k.level = .supervisor →
      u.beingStopped u.cur = false → u.tickClock.homesFixed k.task.part → k.inFrame = false ∨ frmRun k.csrs.frm = 0 → k.pages = [] → k.pc.toNat + 4 < 2 ^ 57 →
      inWindow k.pc.toNat = false → k.level = .supervisor ∨ inControl k.pc.toNat = false → ∀ x, line k.pc = some x → x.marks = 0 → x.err = none → merged k.pc →
      (takesSecond (word x k.pc) = false →
        (∀ i, decodePair (word x k.pc) 0 = some i → runs i) ∧
        (decodePair (word x k.pc) 0 = none → runs (.illegalWord (word x k.pc)))) ∧
      (takesSecond (word x k.pc) = true → inWindow (k.pc.toNat + 4) = false →
        k.level = .supervisor ∨ inControl (k.pc.toNat + 4) = false → ∀ y, line (k.pc + 4) = some y → y.marks = 0 → y.err = none →
        merged (k.pc + 4) → ∀ i, decodePair (word x k.pc) (word y (k.pc + 4)) = some i → runs i)) ∧
    ∀ i rest, s.turns = .unit i :: rest → step s = exec i ({ s with turns := rest } : State).tickClock

/-- (R3, R142, R291, R374) The machine after reset: memory lists nothing and has its canonical form, no word is marked, every chiplet is DARK,
no partition lives and none has a range table, no launch, packet or command is there, every core is idle; general registers are zero
(the model's choice, log entry 2), and so is what memory lists: a byte that nothing has written reads 0 (log entry 3). -/
def Obligations.ResetLeaves : Prop :=
  let s := State.reset
  s.mem = [] ∧ Memory.wf s.mem = true ∧ s.marks = [] ∧ s.fabric = 0 ∧ s.launches = [] ∧ s.packets = [] ∧ s.l1 = [] ∧ s.l2 = [] ∧
    (∀ n, (s.chip n).state = 0) ∧ (∀ p, (s.part p).live = false ∧ (s.part p).table = []) ∧ (∀ n, (s.pond n).cells = []) ∧
    ∀ c, (s.core c).run = .idle ∧ (s.core c).matq = [] ∧ (s.core c).pend = [] ∧ (∀ r < 60, (s.core c).regs.scalar r = 0) ∧
      (s.core c).csrs.taskclk = 0 ∧ (s.core c).csrs.xstat = 0

/-- No instruction and no step of another agent stops the machine: whatever the state and the operands, `exec` answers a next state, and a
step faults only where the agenda names a core that the device does not have. -/
def Obligations.EveryStepAnswers : Prop :=
  (∀ (i : Instr) (s : State), ∃ t, exec i s = .next t) ∧
  ∀ s : State, (∃ t, step s = .next t) ∨ (step s = .fault .noSuchCore ∧ ∃ c, Config.numCores ≤ c ∧
    ((s.turns = [] ∧ s.cur = c) ∨ ∃ rest, s.turns = .core c :: rest ∨ ∃ l, s.turns = .part c l :: rest))

/-- (R120, R139) The canonical form of memory is kept by every step: addresses rise strictly and no listed byte is the one an unlisted address
reads as, so that equal memories are equal data. -/
def Obligations.EveryStepKeepsMemoryCanonical : Prop :=
  ∀ s t : State, Memory.wf s.mem = true → step s = .next t → Memory.wf t.mem = true
end

