-- ==== Sys2Proof/Laws/Arms.lean ====
section
/-!
SUPPORT. Every instruction that has a word is issued (R78): its meaning is an effect within `issue`. One lemma per constructor, and the
fact for all of them.
-/
namespace Sys2Proof.Machine

/-- The instruction's meaning is an effect within `issue`. -/
def Issued (i : Instr) : Prop := ∃ body : M Done, ∀ s, exec i s = issue i body s

theorem issued_nop : Issued (.nop) := ⟨_, fun _ => rfl⟩
theorem issued_add (g : Sel) (d a b : SReg) (w : Bool) : Issued (.add g d a b w) := ⟨_, fun _ => rfl⟩
theorem issued_sub (g : Sel) (d a b : SReg) (w : Bool) : Issued (.sub g d a b w) := ⟨_, fun _ => rfl⟩
theorem issued_mul (g : Sel) (d a b : SReg) (f : BitVec 2) : Issued (.mul g d a b f) := ⟨_, fun _ => rfl⟩
theorem issued_div (g : Sel) (d a b : SReg) (f : BitVec 2) : Issued (.div g d a b f) := ⟨_, fun _ => rfl⟩
theorem issued_rem (g : Sel) (d a b : SReg) (f : BitVec 2) : Issued (.rem g d a b f) := ⟨_, fun _ => rfl⟩
theorem issued_and (g : Sel) (d a b : SReg) : Issued (.and g d a b) := ⟨_, fun _ => rfl⟩
theorem issued_or (g : Sel) (d a b : SReg) : Issued (.or g d a b) := ⟨_, fun _ => rfl⟩
theorem issued_xor (g : Sel) (d a b : SReg) : Issued (.xor g d a b) := ⟨_, fun _ => rfl⟩
theorem issued_andn (g : Sel) (d a b : SReg) : Issued (.andn g d a b) := ⟨_, fun _ => rfl⟩
theorem issued_shl (g : Sel) (d a b : SReg) (w : Bool) : Issued (.shl g d a b w) := ⟨_, fun _ => rfl⟩
theorem issued_shr (g : Sel) (d a b : SReg) (w : Bool) : Issued (.shr g d a b w) := ⟨_, fun _ => rfl⟩
theorem issued_sra (g : Sel) (d a b : SReg) (w : Bool) : Issued (.sra g d a b w) := ⟨_, fun _ => rfl⟩
theorem issued_rot (g : Sel) (d a b : SReg) (w : Bool) : Issued (.rot g d a b w) := ⟨_, fun _ => rfl⟩
theorem issued_min (g : Sel) (d a b : SReg) (n : Bool) : Issued (.min g d a b n) := ⟨_, fun _ => rfl⟩
theorem issued_max (g : Sel) (d a b : SReg) (n : Bool) : Issued (.max g d a b n) := ⟨_, fun _ => rfl⟩
theorem issued_cmp (g : Sel) (c h : BitVec 3) (a b : SReg) : Issued (.cmp g c h a b) := ⟨_, fun _ => rfl⟩
theorem issued_sel (g : Sel) (d a b : SReg) (s_ : BitVec 3) : Issued (.sel g d a b s_) := ⟨_, fun _ => rfl⟩
theorem issued_bcnt (g : Sel) (d a : SReg) (f : BitVec 2) : Issued (.bcnt g d a f) := ⟨_, fun _ => rfl⟩
theorem issued_bfx (g : Sel) (d a b : SReg) (n : Bool) : Issued (.bfx g d a b n) := ⟨_, fun _ => rfl⟩
theorem issued_bfi (g : Sel) (d a b : SReg) : Issued (.bfi g d a b) := ⟨_, fun _ => rfl⟩
theorem issued_gop (g : Sel) (d a b f : BitVec 3) : Issued (.gop g d a b f) := ⟨_, fun _ => rfl⟩
theorem issued_addi (g : Sel) (d a : SReg) (i : BitVec 10) : Issued (.addi g d a i) := ⟨_, fun _ => rfl⟩
theorem issued_andi (g : Sel) (d a : SReg) (i : BitVec 10) : Issued (.andi g d a i) := ⟨_, fun _ => rfl⟩
theorem issued_ori (g : Sel) (d a : SReg) (i : BitVec 10) : Issued (.ori g d a i) := ⟨_, fun _ => rfl⟩
theorem issued_xori (g : Sel) (d a : SReg) (i : BitVec 10) : Issued (.xori g d a i) := ⟨_, fun _ => rfl⟩
theorem issued_shli (g : Sel) (d a : SReg) (w : Bool) (s_ : BitVec 6) : Issued (.shli g d a w s_) := ⟨_, fun _ => rfl⟩
theorem issued_shri (g : Sel) (d a : SReg) (w : Bool) (s_ : BitVec 6) : Issued (.shri g d a w s_) := ⟨_, fun _ => rfl⟩
theorem issued_srai (g : Sel) (d a : SReg) (w : Bool) (s_ : BitVec 6) : Issued (.srai g d a w s_) := ⟨_, fun _ => rfl⟩
theorem issued_cmpi (g : Sel) (c h : BitVec 3) (a : SReg) (i : BitVec 10) : Issued (.cmpi g c h a i) := ⟨_, fun _ => rfl⟩
theorem issued_muli (g : Sel) (d a : SReg) (i : BitVec 10) : Issued (.muli g d a i) := ⟨_, fun _ => rfl⟩
theorem issued_lit (g : Sel) (d : SReg) (f : BitVec 2) (lit : Word32) : Issued (.lit g d f lit) := ⟨_, fun _ => rfl⟩
theorem issued_addk (g : Sel) (d a : SReg) (n : Bool) (lit : Word32) : Issued (.addk g d a n lit) := ⟨_, fun _ => rfl⟩
theorem issued_cmpk (g : Sel) (c h : BitVec 3) (a : SReg) (n : Bool) (lit : Word32) : Issued (.cmpk g c h a n lit) := ⟨_, fun _ => rfl⟩
theorem issued_padd (g : Sel) (d a b : SReg) : Issued (.padd g d a b) := ⟨_, fun _ => rfl⟩
theorem issued_paddi (g : Sel) (d a : SReg) (i : BitVec 10) : Issued (.paddi g d a i) := ⟨_, fun _ => rfl⟩
theorem issued_ptag (g : Sel) (d a : SReg) (t : BitVec 4) (b : BitVec 3) : Issued (.ptag g d a t b) := ⟨_, fun _ => rfl⟩
theorem issued_br (g : Sel) (o : BitVec 22) : Issued (.br g o) := ⟨_, fun _ => rfl⟩
theorem issued_call (g : Sel) (o : BitVec 22) : Issued (.call g o) := ⟨_, fun _ => rfl⟩
theorem issued_jr (g : Sel) (d a : SReg) : Issued (.jr g d a) := ⟨_, fun _ => rfl⟩
theorem issued_loop (g : Sel) (a : SReg) (l : BitVec 10) : Issued (.loop g a l) := ⟨_, fun _ => rfl⟩
theorem issued_rpt (g : Sel) (n : BitVec 6) (k x y z : BitVec 4) : Issued (.rpt g n k x y z) := ⟨_, fun _ => rfl⟩
theorem issued_halt (g : Sel) : Issued (.halt g) := ⟨_, fun _ => rfl⟩
theorem issued_trap (g : Sel) (n : BitVec 10) : Issued (.trap g n) := ⟨_, fun _ => rfl⟩
theorem issued_eret (g : Sel) : Issued (.eret g) := ⟨_, fun _ => rfl⟩
theorem issued_csrr (g : Sel) (d : SReg) (c : BitVec 10) : Issued (.csrr g d c) := ⟨_, fun _ => rfl⟩
theorem issued_csrw (g : Sel) (a : SReg) (c : BitVec 10) : Issued (.csrw g a c) := ⟨_, fun _ => rfl⟩
theorem issued_csrx (g : Sel) (d a : SReg) (c : BitVec 10) : Issued (.csrx g d a c) := ⟨_, fun _ => rfl⟩
theorem issued_step (g : Sel) : Issued (.step g) := ⟨_, fun _ => rfl⟩
theorem issued_fwd (g : Sel) (a : SReg) : Issued (.fwd g a) := ⟨_, fun _ => rfl⟩
theorem issued_fwdRel (g : Sel) : Issued (.fwdRel g) := ⟨_, fun _ => rfl⟩
theorem issued_fwdJoin (g : Sel) : Issued (.fwdJoin g) := ⟨_, fun _ => rfl⟩
theorem issued_echo (g : Sel) (a : SReg) : Issued (.echo g a) := ⟨_, fun _ => rfl⟩
theorem issued_echoEnd (g : Sel) : Issued (.echoEnd g) := ⟨_, fun _ => rfl⟩
theorem issued_lnch (g : Sel) (d a : SReg) (q : BitVec 3) : Issued (.lnch g d a q) := ⟨_, fun _ => rfl⟩
theorem issued_evw (g : Sel) (a b : SReg) : Issued (.evw g a b) := ⟨_, fun _ => rfl⟩
theorem issued_evs (g : Sel) (a b : SReg) : Issued (.evs g a b) := ⟨_, fun _ => rfl⟩
theorem issued_ld (g : Sel) (d a : SReg) (o : BitVec 8) (s_ : BitVec 2) : Issued (.ld g d a o s_) := ⟨_, fun _ => rfl⟩
theorem issued_ldTag (g : Sel) (d a : SReg) (s_ : BitVec 2) : Issued (.ldTag g d a s_) := ⟨_, fun _ => rfl⟩
theorem issued_ldz (g : Sel) (d a : SReg) (o : BitVec 8) (s_ : BitVec 2) : Issued (.ldz g d a o s_) := ⟨_, fun _ => rfl⟩
theorem issued_ldzTag (g : Sel) (d a : SReg) (s_ : BitVec 2) : Issued (.ldzTag g d a s_) := ⟨_, fun _ => rfl⟩
theorem issued_st (g : Sel) (d a : SReg) (o : BitVec 8) (s_ : BitVec 2) : Issued (.st g d a o s_) := ⟨_, fun _ => rfl⟩
theorem issued_lda (g : Sel) (d a : SReg) (p : BitVec 3) (s_ : BitVec 2) : Issued (.lda g d a p s_) := ⟨_, fun _ => rfl⟩
theorem issued_stl (g : Sel) (d a : SReg) (p : BitVec 3) (s_ : BitVec 2) : Issued (.stl g d a p s_) := ⟨_, fun _ => rfl⟩
theorem issued_aadd (g : Sel) (d a b : SReg) (z : Bool) : Issued (.aadd g d a b z) := ⟨_, fun _ => rfl⟩
theorem issued_aand (g : Sel) (d a b : SReg) (z : Bool) : Issued (.aand g d a b z) := ⟨_, fun _ => rfl⟩
theorem issued_aor (g : Sel) (d a b : SReg) (z : Bool) : Issued (.aor g d a b z) := ⟨_, fun _ => rfl⟩
theorem issued_axor (g : Sel) (d a b : SReg) (z : Bool) : Issued (.axor g d a b z) := ⟨_, fun _ => rfl⟩
theorem issued_amin (g : Sel) (d a b : SReg) (n z : Bool) : Issued (.amin g d a b n z) := ⟨_, fun _ => rfl⟩
theorem issued_amax (g : Sel) (d a b : SReg) (n z : Bool) : Issued (.amax g d a b n z) := ⟨_, fun _ => rfl⟩
theorem issued_axch (g : Sel) (d a b : SReg) (z : Bool) : Issued (.axch g d a b z) := ⟨_, fun _ => rfl⟩
theorem issued_acas (g : Sel) (d a b : SReg) (z : Bool) : Issued (.acas g d a b z) := ⟨_, fun _ => rfl⟩
theorem issued_fadda (g : Sel) (d a b : SReg) : Issued (.fadda g d a b) := ⟨_, fun _ => rfl⟩
theorem issued_famax (g : Sel) (d a b : SReg) : Issued (.famax g d a b) := ⟨_, fun _ => rfl⟩
theorem issued_famin (g : Sel) (d a b : SReg) : Issued (.famin g d a b) := ⟨_, fun _ => rfl⟩
theorem issued_radd (g : Sel) (a b : SReg) (z : Bool) : Issued (.radd g a b z) := ⟨_, fun _ => rfl⟩
theorem issued_rand (g : Sel) (a b : SReg) (z : Bool) : Issued (.rand g a b z) := ⟨_, fun _ => rfl⟩
theorem issued_ror (g : Sel) (a b : SReg) (z : Bool) : Issued (.ror g a b z) := ⟨_, fun _ => rfl⟩
theorem issued_rxor (g : Sel) (a b : SReg) (z : Bool) : Issued (.rxor g a b z) := ⟨_, fun _ => rfl⟩
theorem issued_rmin (g : Sel) (a b : SReg) (n z : Bool) : Issued (.rmin g a b n z) := ⟨_, fun _ => rfl⟩
theorem issued_rmax (g : Sel) (a b : SReg) (n z : Bool) : Issued (.rmax g a b n z) := ⟨_, fun _ => rfl⟩
theorem issued_rfadd (g : Sel) (a b : SReg) : Issued (.rfadd g a b) := ⟨_, fun _ => rfl⟩
theorem issued_rfmax (g : Sel) (a b : SReg) : Issued (.rfmax g a b) := ⟨_, fun _ => rfl⟩
theorem issued_rfmin (g : Sel) (a b : SReg) : Issued (.rfmin g a b) := ⟨_, fun _ => rfl⟩
theorem issued_fenceAcq (g : Sel) (p : BitVec 3) : Issued (.fenceAcq g p) := ⟨_, fun _ => rfl⟩
theorem issued_fenceRel (g : Sel) (p : BitVec 3) : Issued (.fenceRel g p) := ⟨_, fun _ => rfl⟩
theorem issued_fenceFull (g : Sel) (p : BitVec 3) : Issued (.fenceFull g p) := ⟨_, fun _ => rfl⟩
theorem issued_wb (g : Sel) (a b : SReg) : Issued (.wb g a b) := ⟨_, fun _ => rfl⟩
theorem issued_inv (g : Sel) (a b : SReg) : Issued (.inv g a b) := ⟨_, fun _ => rfl⟩
theorem issued_dsc (g : Sel) (a b : SReg) : Issued (.dsc g a b) := ⟨_, fun _ => rfl⟩
theorem issued_bar (g : Sel) (n : BitVec 4) (a : SReg) : Issued (.bar g n a) := ⟨_, fun _ => rfl⟩
theorem issued_bexp (g : Sel) (n : BitVec 4) (a : SReg) : Issued (.bexp g n a) := ⟨_, fun _ => rfl⟩
theorem issued_send (g : Sel) (q : BitVec 2) (x b : SReg) : Issued (.send g q x b) := ⟨_, fun _ => rfl⟩
theorem issued_sendE (g : Sel) (q : BitVec 2) (a b : SReg) : Issued (.sendE g q a b) := ⟨_, fun _ => rfl⟩
theorem issued_sendRel (g : Sel) (q : BitVec 2) (a b : SReg) (s_ : BitVec 3) : Issued (.sendRel g q a b s_) := ⟨_, fun _ => rfl⟩
theorem issued_wake (g : Sel) (a : SReg) : Issued (.wake g a) := ⟨_, fun _ => rfl⟩
theorem issued_slp (g : Sel) : Issued (.slp g) := ⟨_, fun _ => rfl⟩
theorem issued_cpy (g : Sel) (a b : SReg) (u : Bool) (h : BitVec 2) : Issued (.cpy g a b u h) := ⟨_, fun _ => rfl⟩
theorem issued_cpyClk (g : Sel) (a b : SReg) (u : Bool) (h : BitVec 2) (clk : Word32) : Issued (.cpyClk g a b u h clk) := ⟨_, fun _ => rfl⟩
theorem issued_cpyqWm (g : Sel) (d : SReg) (h : BitVec 2) : Issued (.cpyqWm g d h) := ⟨_, fun _ => rfl⟩
theorem issued_cpyqOut (g : Sel) (d : SReg) (h : BitVec 2) : Issued (.cpyqOut g d h) := ⟨_, fun _ => rfl⟩
theorem issued_cpyqSt (g : Sel) (d : SReg) (h : BitVec 2) : Issued (.cpyqSt g d h) := ⟨_, fun _ => rfl⟩
theorem issued_mma (g : Sel) (a : SReg) : Issued (.mma g a) := ⟨_, fun _ => rfl⟩
theorem issued_mmaClk (g : Sel) (a : SReg) (clk : Word32) : Issued (.mmaClk g a clk) := ⟨_, fun _ => rfl⟩
theorem issued_mmsp (g : Sel) (a : SReg) : Issued (.mmsp g a) := ⟨_, fun _ => rfl⟩
theorem issued_mmspClk (g : Sel) (a : SReg) (clk : Word32) : Issued (.mmspClk g a clk) := ⟨_, fun _ => rfl⟩
theorem issued_mmld (g : Sel) (a b : SReg) (t : Bool) : Issued (.mmld g a b t) := ⟨_, fun _ => rfl⟩
theorem issued_mmldV (g : Sel) (a b : SReg) (c : VReg) (t : Bool) : Issued (.mmldV g a b c t) := ⟨_, fun _ => rfl⟩
theorem issued_mmst (g : Sel) (a b : SReg) (t : Bool) : Issued (.mmst g a b t) := ⟨_, fun _ => rfl⟩
theorem issued_mmstV (g : Sel) (a b : SReg) (c : VReg) (t : Bool) : Issued (.mmstV g a b c t) := ⟨_, fun _ => rfl⟩
theorem issued_tload (g : Sel) (a b : SReg) : Issued (.tload g a b) := ⟨_, fun _ => rfl⟩
theorem issued_teval (g : Sel) (a : SReg) : Issued (.teval g a) := ⟨_, fun _ => rfl⟩
theorem issued_tevalClk (g : Sel) (a : SReg) (clk : Word32) : Issued (.tevalClk g a clk) := ⟨_, fun _ => rfl⟩
theorem issued_tlv (g : Sel) (a : SReg) : Issued (.tlv g a) := ⟨_, fun _ => rfl⟩
theorem issued_coll (g : Sel) (a b : SReg) : Issued (.coll g a b) := ⟨_, fun _ => rfl⟩
theorem issued_collClk (g : Sel) (a b : SReg) (clk : Word32) : Issued (.collClk g a b clk) := ⟨_, fun _ => rfl⟩
theorem issued_collqSt (g : Sel) (d a : SReg) : Issued (.collqSt g d a) := ⟨_, fun _ => rfl⟩
theorem issued_collqDone (g : Sel) (d a : SReg) : Issued (.collqDone g d a) := ⟨_, fun _ => rfl⟩
theorem issued_rng (g : Sel) (d : VReg) (t : BitVec 4) : Issued (.rng g d t) := ⟨_, fun _ => rfl⟩
theorem issued_rngJump (g : Sel) (t : BitVec 4) : Issued (.rngJump g t) := ⟨_, fun _ => rfl⟩
theorem issued_vshp (g : Sel) (r c : BitVec 4) : Issued (.vshp g r c) := ⟨_, fun _ => rfl⟩
theorem issued_vld (g : Sel) (d : VReg) (a b : SReg) : Issued (.vld g d a b) := ⟨_, fun _ => rfl⟩
theorem issued_vldTag (g : Sel) (d : VReg) (a b : SReg) : Issued (.vldTag g d a b) := ⟨_, fun _ => rfl⟩
theorem issued_vst (g : Sel) (d : VReg) (a b : SReg) : Issued (.vst g d a b) := ⟨_, fun _ => rfl⟩
theorem issued_vgat (g : Sel) (d : VReg) (a : SReg) (i : VReg) : Issued (.vgat g d a i) := ⟨_, fun _ => rfl⟩
theorem issued_vsct (g : Sel) (d : VReg) (a : SReg) (i : VReg) : Issued (.vsct g d a i) := ⟨_, fun _ => rfl⟩
theorem issued_vadd (g : Sel) (d a b : VReg) (t : BitVec 4) : Issued (.vadd g d a b t) := ⟨_, fun _ => rfl⟩
theorem issued_vsub (g : Sel) (d a b : VReg) (t : BitVec 4) : Issued (.vsub g d a b t) := ⟨_, fun _ => rfl⟩
theorem issued_vmul (g : Sel) (d a b : VReg) (t : BitVec 4) (h : Bool) : Issued (.vmul g d a b t h) := ⟨_, fun _ => rfl⟩
theorem issued_vfma (g : Sel) (d a b : VReg) (t : BitVec 4) (f : BitVec 2) : Issued (.vfma g d a b t f) := ⟨_, fun _ => rfl⟩
theorem issued_vmin (g : Sel) (d a b : VReg) (t : BitVec 4) : Issued (.vmin g d a b t) := ⟨_, fun _ => rfl⟩
theorem issued_vmax (g : Sel) (d a b : VReg) (t : BitVec 4) : Issued (.vmax g d a b t) := ⟨_, fun _ => rfl⟩
theorem issued_vdiv (g : Sel) (d a b : VReg) (t : BitVec 4) : Issued (.vdiv g d a b t) := ⟨_, fun _ => rfl⟩
theorem issued_vsqr (g : Sel) (d a : VReg) (t : BitVec 4) : Issued (.vsqr g d a t) := ⟨_, fun _ => rfl⟩
theorem issued_vsfn (g : Sel) (d a : VReg) (t : BitVec 4) (f : BitVec 6) : Issued (.vsfn g d a t f) := ⟨_, fun _ => rfl⟩
theorem issued_vcvt (g : Sel) (d a : VReg) (t s_ : BitVec 4) : Issued (.vcvt g d a t s_) := ⟨_, fun _ => rfl⟩
theorem issued_vcmp (g : Sel) (m : BitVec 3) (a b : VReg) (t : BitVec 4) (c : BitVec 3) : Issued (.vcmp g m a b t c) := ⟨_, fun _ => rfl⟩
theorem issued_vsel (g : Sel) (d a b : VReg) (t : BitVec 4) (m : BitVec 3) : Issued (.vsel g d a b t m) := ⟨_, fun _ => rfl⟩
theorem issued_vred (g : Sel) (d a : VReg) (t : BitVec 4) (x : BitVec 2) (o : BitVec 3) : Issued (.vred g d a t x o) := ⟨_, fun _ => rfl⟩
theorem issued_vint (g : Sel) (d a b : VReg) (t : BitVec 4) (f : BitVec 6) : Issued (.vint g d a b t f) := ⟨_, fun _ => rfl⟩
theorem issued_vmov (g : Sel) (d a : VReg) (t : BitVec 4) : Issued (.vmov g d a t) := ⟨_, fun _ => rfl⟩
theorem issued_vmovBc (g : Sel) (d : VReg) (s_ : SReg) (t : BitVec 4) : Issued (.vmovBc g d s_ t) := ⟨_, fun _ => rfl⟩
theorem issued_vpermTr (g : Sel) (d a : VReg) (t : BitVec 4) : Issued (.vpermTr g d a t) := ⟨_, fun _ => rfl⟩
theorem issued_vpermIdx (g : Sel) (d a b : VReg) (t : BitVec 4) : Issued (.vpermIdx g d a b t) := ⟨_, fun _ => rfl⟩
theorem issued_vmsk (g : Sel) (d a b : BitVec 3) (f : BitVec 6) : Issued (.vmsk g d a b f) := ⟨_, fun _ => rfl⟩
theorem issued_vectorPrefix (m : Sel) (z : Bool) (r : BitVec 3) (v : VReg) (w : Word32) : Issued (.vectorPrefix m z r v w) := ⟨_, fun _ => rfl⟩
theorem issued_illegalWord (w : Word32) : Issued (.illegalWord w) := ⟨_, fun _ => rfl⟩

theorem issued_of_word {i : Instr} (h : i.word?.isSome = true) : Issued i := by
  cases i with
  | nop => exact issued_nop
  | add => exact issued_add _ _ _ _ _
  | sub => exact issued_sub _ _ _ _ _
  | mul => exact issued_mul _ _ _ _ _
  | div => exact issued_div _ _ _ _ _
  | rem => exact issued_rem _ _ _ _ _
  | and => exact issued_and _ _ _ _
  | or => exact issued_or _ _ _ _
  | xor => exact issued_xor _ _ _ _
  | andn => exact issued_andn _ _ _ _
  | shl => exact issued_shl _ _ _ _ _
  | shr => exact issued_shr _ _ _ _ _
  | sra => exact issued_sra _ _ _ _ _
  | rot => exact issued_rot _ _ _ _ _
  | min => exact issued_min _ _ _ _ _
  | max => exact issued_max _ _ _ _ _
  | cmp => exact issued_cmp _ _ _ _ _
  | sel => exact issued_sel _ _ _ _ _
  | bcnt => exact issued_bcnt _ _ _ _
  | bfx => exact issued_bfx _ _ _ _ _
  | bfi => exact issued_bfi _ _ _ _
  | gop => exact issued_gop _ _ _ _ _
  | addi => exact issued_addi _ _ _ _
  | andi => exact issued_andi _ _ _ _
  | ori => exact issued_ori _ _ _ _
  | xori => exact issued_xori _ _ _ _
  | shli => exact issued_shli _ _ _ _ _
  | shri => exact issued_shri _ _ _ _ _
  | srai => exact issued_srai _ _ _ _ _
  | cmpi => exact issued_cmpi _ _ _ _ _
  | muli => exact issued_muli _ _ _ _
  | lit => exact issued_lit _ _ _ _
  | addk => exact issued_addk _ _ _ _ _
  | cmpk => exact issued_cmpk _ _ _ _ _ _
  | padd => exact issued_padd _ _ _ _
  | paddi => exact issued_paddi _ _ _ _
  | ptag => exact issued_ptag _ _ _ _ _
  | br => exact issued_br _ _
  | call => exact issued_call _ _
  | jr => exact issued_jr _ _ _
  | loop => exact issued_loop _ _ _
  | rpt => exact issued_rpt _ _ _ _ _ _
  | halt => exact issued_halt _
  | trap => exact issued_trap _ _
  | eret => exact issued_eret _
  | csrr => exact issued_csrr _ _ _
  | csrw => exact issued_csrw _ _ _
  | csrx => exact issued_csrx _ _ _ _
  | step => exact issued_step _
  | fwd => exact issued_fwd _ _
  | fwdRel => exact issued_fwdRel _
  | fwdJoin => exact issued_fwdJoin _
  | echo => exact issued_echo _ _
  | echoEnd => exact issued_echoEnd _
  | lnch => exact issued_lnch _ _ _ _
  | evw => exact issued_evw _ _ _
  | evs => exact issued_evs _ _ _
  | ld => exact issued_ld _ _ _ _ _
  | ldTag => exact issued_ldTag _ _ _ _
  | ldz => exact issued_ldz _ _ _ _ _
  | ldzTag => exact issued_ldzTag _ _ _ _
  | st => exact issued_st _ _ _ _ _
  | lda => exact issued_lda _ _ _ _ _
  | stl => exact issued_stl _ _ _ _ _
  | aadd => exact issued_aadd _ _ _ _ _
  | aand => exact issued_aand _ _ _ _ _
  | aor => exact issued_aor _ _ _ _ _
  | axor => exact issued_axor _ _ _ _ _
  | amin => exact issued_amin _ _ _ _ _ _
  | amax => exact issued_amax _ _ _ _ _ _
  | axch => exact issued_axch _ _ _ _ _
  | acas => exact issued_acas _ _ _ _ _
  | fadda => exact issued_fadda _ _ _ _
  | famax => exact issued_famax _ _ _ _
  | famin => exact issued_famin _ _ _ _
  | radd => exact issued_radd _ _ _ _
  | rand => exact issued_rand _ _ _ _
  | ror => exact issued_ror _ _ _ _
  | rxor => exact issued_rxor _ _ _ _
  | rmin => exact issued_rmin _ _ _ _ _
  | rmax => exact issued_rmax _ _ _ _ _
  | rfadd => exact issued_rfadd _ _ _
  | rfmax => exact issued_rfmax _ _ _
  | rfmin => exact issued_rfmin _ _ _
  | fenceAcq => exact issued_fenceAcq _ _
  | fenceRel => exact issued_fenceRel _ _
  | fenceFull => exact issued_fenceFull _ _
  | wb => exact issued_wb _ _ _
  | inv => exact issued_inv _ _ _
  | dsc => exact issued_dsc _ _ _
  | bar => exact issued_bar _ _ _
  | bexp => exact issued_bexp _ _ _
  | send => exact issued_send _ _ _ _
  | sendE => exact issued_sendE _ _ _ _
  | sendRel => exact issued_sendRel _ _ _ _ _
  | wake => exact issued_wake _ _
  | slp => exact issued_slp _
  | cpy => exact issued_cpy _ _ _ _ _
  | cpyClk => exact issued_cpyClk _ _ _ _ _ _
  | cpyqWm => exact issued_cpyqWm _ _ _
  | cpyqOut => exact issued_cpyqOut _ _ _
  | cpyqSt => exact issued_cpyqSt _ _ _
  | mma => exact issued_mma _ _
  | mmaClk => exact issued_mmaClk _ _ _
  | mmsp => exact issued_mmsp _ _
  | mmspClk => exact issued_mmspClk _ _ _
  | mmld => exact issued_mmld _ _ _ _
  | mmldV => exact issued_mmldV _ _ _ _ _
  | mmst => exact issued_mmst _ _ _ _
  | mmstV => exact issued_mmstV _ _ _ _ _
  | tload => exact issued_tload _ _ _
  | teval => exact issued_teval _ _
  | tevalClk => exact issued_tevalClk _ _ _
  | tlv => exact issued_tlv _ _
  | coll => exact issued_coll _ _ _
  | collClk => exact issued_collClk _ _ _ _
  | collqSt => exact issued_collqSt _ _ _
  | collqDone => exact issued_collqDone _ _ _
  | rng => exact issued_rng _ _ _
  | rngJump => exact issued_rngJump _ _
  | vshp => exact issued_vshp _ _ _
  | vld => exact issued_vld _ _ _ _
  | vldTag => exact issued_vldTag _ _ _ _
  | vst => exact issued_vst _ _ _ _
  | vgat => exact issued_vgat _ _ _ _
  | vsct => exact issued_vsct _ _ _ _
  | vadd => exact issued_vadd _ _ _ _ _
  | vsub => exact issued_vsub _ _ _ _ _
  | vmul => exact issued_vmul _ _ _ _ _ _
  | vfma => exact issued_vfma _ _ _ _ _ _
  | vmin => exact issued_vmin _ _ _ _ _
  | vmax => exact issued_vmax _ _ _ _ _
  | vdiv => exact issued_vdiv _ _ _ _ _
  | vsqr => exact issued_vsqr _ _ _ _
  | vsfn => exact issued_vsfn _ _ _ _ _
  | vcvt => exact issued_vcvt _ _ _ _ _
  | vcmp => exact issued_vcmp _ _ _ _ _ _
  | vsel => exact issued_vsel _ _ _ _ _ _
  | vred => exact issued_vred _ _ _ _ _ _
  | vint => exact issued_vint _ _ _ _ _ _
  | vmov => exact issued_vmov _ _ _ _
  | vmovBc => exact issued_vmovBc _ _ _ _
  | vpermTr => exact issued_vpermTr _ _ _ _
  | vpermIdx => exact issued_vpermIdx _ _ _ _ _
  | vmsk => exact issued_vmsk _ _ _ _ _
  | vectorPrefix => exact issued_vectorPrefix _ _ _ _ _
  | illegalWord => exact issued_illegalWord _
  | boundaryEvent => exact absurd h (by simp [Instr.word?])
  | lateResultArrival => exact absurd h (by simp [Instr.word?])
  | forwardingStarts => exact absurd h (by simp [Instr.word?])
  | forwardingRejoin => exact absurd h (by simp [Instr.word?])
  | fwdWaitTimeout => exact absurd h (by simp [Instr.word?])
  | evwTimeout => exact absurd h (by simp [Instr.word?])
  | slpTimeout => exact absurd h (by simp [Instr.word?])
  | engineWaitTimeout => exact absurd h (by simp [Instr.word?])
  | taskEnd => exact absurd h (by simp [Instr.word?])
  | barrierRootCycle => exact absurd h (by simp [Instr.word?])
  | barrierContinue => exact absurd h (by simp [Instr.word?])
  | barrierTimeout => exact absurd h (by simp [Instr.word?])
  | engineOffsetStart => exact absurd h (by simp [Instr.word?])
  | matrixStep => exact absurd h (by simp [Instr.word?])
  | matrixCompletion => exact absurd h (by simp [Instr.word?])
  | tileMove => exact absurd h (by simp [Instr.word?])
  | copyStart => exact absurd h (by simp [Instr.word?])
  | copyBeat => exact absurd h (by simp [Instr.word?])
  | copyCompletion => exact absurd h (by simp [Instr.word?])
  | thresholdCommandStart => exact absurd h (by simp [Instr.word?])
  | tloadRun => exact absurd h (by simp [Instr.word?])
  | tevalRun => exact absurd h (by simp [Instr.word?])
  | tlvRun => exact absurd h (by simp [Instr.word?])
  | thresholdCompletion => exact absurd h (by simp [Instr.word?])
  | collectiveMatch => exact absurd h (by simp [Instr.word?])
  | treeContribution => exact absurd h (by simp [Instr.word?])
  | collectiveCompletion => exact absurd h (by simp [Instr.word?])
  | writebackMerge => exact absurd h (by simp [Instr.word?])
  | flushRequest => exact absurd h (by simp [Instr.word?])
  | translationWalk => exact absurd h (by simp [Instr.word?])
  | pageAnswer => exact absurd h (by simp [Instr.word?])
  | hostMemoryAccess => exact absurd h (by simp [Instr.word?])
  | hostLinkError => exact absurd h (by simp [Instr.word?])
  | packetArrival => exact absurd h (by simp [Instr.word?])
  | wakeArrival => exact absurd h (by simp [Instr.word?])
  | rangeTableCommit => exact absurd h (by simp [Instr.word?])
  | setClass => exact absurd h (by simp [Instr.word?])
  | probe => exact absurd h (by simp [Instr.word?])
  | edit => exact absurd h (by simp [Instr.word?])
  | setRoot => exact absurd h (by simp [Instr.word?])
  | invalidate => exact absurd h (by simp [Instr.word?])
  | clean => exact absurd h (by simp [Instr.word?])
  | migrate => exact absurd h (by simp [Instr.word?])
  | answer => exact absurd h (by simp [Instr.word?])
  | register => exact absurd h (by simp [Instr.word?])
  | revoke => exact absurd h (by simp [Instr.word?])
  | forcedRevoke => exact absurd h (by simp [Instr.word?])
  | doorbell => exact absurd h (by simp [Instr.word?])
  | vfAnswer => exact absurd h (by simp [Instr.word?])
  | registerWrite => exact absurd h (by simp [Instr.word?])
  | nselRead => exact absurd h (by simp [Instr.word?])
  | launchRecordHandling => exact absurd h (by simp [Instr.word?])
  | admissionRound => exact absurd h (by simp [Instr.word?])
  | launchCompletion => exact absurd h (by simp [Instr.word?])
  | partitionReset => exact absurd h (by simp [Instr.word?])
  | ownershipChange => exact absurd h (by simp [Instr.word?])
  | eventWrite => exact absurd h (by simp [Instr.word?])
  | energyDecrement => exact absurd h (by simp [Instr.word?])
  | energyPeriodStart => exact absurd h (by simp [Instr.word?])
  | backgroundError => exact absurd h (by simp [Instr.word?])
  | pairCheckpoint => exact absurd h (by simp [Instr.word?])
  | byteBudgetInterval => exact absurd h (by simp [Instr.word?])
  | clockChange => exact absurd h (by simp [Instr.word?])
  | springThermalLimit => exact absurd h (by simp [Instr.word?])
  | chipletThermalLimit => exact absurd h (by simp [Instr.word?])
  | edgeSourceStart => exact absurd h (by simp [Instr.word?])
  | clockArrival => exact absurd h (by simp [Instr.word?])
  | clockForward => exact absurd h (by simp [Instr.word?])
  | configured => exact absurd h (by simp [Instr.word?])
  | tested => exact absurd h (by simp [Instr.word?])
  | trained => exact absurd h (by simp [Instr.word?])
  | nselWrite => exact absurd h (by simp [Instr.word?])
  | forwarding => exact absurd h (by simp [Instr.word?])
  | ready => exact absurd h (by simp [Instr.word?])
  | stateLimitExpiry => exact absurd h (by simp [Instr.word?])
  | fenced => exact absurd h (by simp [Instr.word?])
  | rootOfTrustBoot => exact absurd h (by simp [Instr.word?])
  | hostLinkTraining => exact absurd h (by simp [Instr.word?])
  | ideKeying => exact absurd h (by simp [Instr.word?])
  | scaleOutTraining => exact absurd h (by simp [Instr.word?])
  | linkLost => exact absurd h (by simp [Instr.word?])
  | pairKeyAgreement => exact absurd h (by simp [Instr.word?])
  | flitTagFailure => exact absurd h (by simp [Instr.word?])
  | attestationRequest => exact absurd h (by simp [Instr.word?])
  | attestationReportReady => exact absurd h (by simp [Instr.word?])
  | partitionCreation => exact absurd h (by simp [Instr.word?])
  | partitionDestruction => exact absurd h (by simp [Instr.word?])
  | tokenBucketRefill => exact absurd h (by simp [Instr.word?])

end Sys2Proof.Machine
end

