-- ==== Sys2Proof/Laws/Maps.lean ====
section
/-!
SUPPORT. Laws of lists with keys and of memory: reading what was put, the rising order kept, and the canonical form of memory kept
by every operation on it.
-/
namespace Sys2Proof.Machine

variable {α : Type}

/-! ## Reading what was put -/

@[simp] theorem find_put_self (m : List (Nat × α)) (i : Nat) (x : α) : find (put m i x) i = some x := by
  induction m with
  | nil => simp [put, find]
  | cons e rest ih =>
    obtain ⟨k, v⟩ := e
    rcases Nat.lt_trichotomy i k with h | h | h
    · simp [put, find, h]
    · simp [put, find, h]
    · simp [put, find, Nat.not_lt.mpr (Nat.le_of_lt h), Nat.ne_of_lt h, Nat.ne_of_gt h, ih]

theorem find_put_of_ne (m : List (Nat × α)) {i j : Nat} (x : α) (h : j ≠ i) : find (put m i x) j = find m j := by
  induction m with
  | nil => simp [put, find, h.symm]
  | cons e rest ih =>
    obtain ⟨k, v⟩ := e
    rcases Nat.lt_trichotomy i k with hk | hk | hk
    · simp [put, find, hk, h.symm]
    · subst hk; simp [put, find, h.symm]
    · simp [put, find, Nat.not_lt.mpr (Nat.le_of_lt hk), Nat.ne_of_gt hk, ih]

@[simp] theorem put_put (m : List (Nat × α)) (i : Nat) (x y : α) : put (put m i x) i y = put m i y := by
  induction m with
  | nil => simp [put]
  | cons e rest ih =>
    obtain ⟨k, v⟩ := e
    rcases Nat.lt_trichotomy i k with h | h | h
    · simp [put, h]
    · simp [put, h]
    · simp [put, Nat.not_lt.mpr (Nat.le_of_lt h), Nat.ne_of_gt h, ih]

/-! ## Rising keys -/

/-- Every key of the list is above a bound. -/
def above (b : Nat) (m : List (Nat × α)) : Prop := ∀ e ∈ m, b < e.1

theorem sortedKeys_cons (a : Nat) (x : α) (m : List (Nat × α)) :
    sortedKeys ((a, x) :: m) = true ↔ above a m ∧ sortedKeys m = true := by
  induction m generalizing a x with
  | nil => simp [sortedKeys, above]
  | cons e rest ih =>
    obtain ⟨b, y⟩ := e
    simp only [sortedKeys, Bool.and_eq_true, decide_eq_true_eq, ih b y]
    refine ⟨fun ⟨hab, hb, hr⟩ => ⟨?_, hb, hr⟩, fun ⟨ha, hb, hr⟩ => ⟨ha (b, y) (by simp), hb, hr⟩⟩
    intro e he
    rcases List.mem_cons.mp he with rfl | he
    · exact hab
    · exact Nat.lt_trans hab (hb e he)

theorem mem_put {m : List (Nat × α)} {i : Nat} {x : α} {e : Nat × α} (h : e ∈ put m i x) : e = (i, x) ∨ e ∈ m := by
  induction m with
  | nil => simpa [put] using h
  | cons e' rest ih =>
    obtain ⟨k, v⟩ := e'
    simp only [put] at h
    split at h
    · simpa using h
    · split at h
      · rcases List.mem_cons.mp h with h | h
        · exact .inl h
        · exact .inr (List.mem_cons_of_mem _ h)
      · rcases List.mem_cons.mp h with h | h
        · exact .inr (h ▸ List.mem_cons_self ..)
        · exact (ih h).imp id (List.mem_cons_of_mem _)

theorem mem_del {m : List (Nat × α)} {i : Nat} {e : Nat × α} (h : e ∈ del m i) : e ∈ m := by
  induction m with
  | nil => simp [del] at h
  | cons e' rest ih =>
    obtain ⟨k, v⟩ := e'
    simp only [del] at h
    split at h
    · exact List.mem_cons_of_mem _ h
    · rcases List.mem_cons.mp h with h | h
      · exact h ▸ List.mem_cons_self ..
      · exact List.mem_cons_of_mem _ (ih h)

theorem sortedKeys_put {m : List (Nat × α)} (i : Nat) (x : α) (h : sortedKeys m = true) : sortedKeys (put m i x) = true := by
  induction m with
  | nil => rfl
  | cons e rest ih =>
    obtain ⟨k, v⟩ := e
    have hs := (sortedKeys_cons k v rest).mp h
    simp only [put]
    split
    · rename_i hik
      refine (sortedKeys_cons ..).mpr ⟨?_, h⟩
      intro e he
      rcases List.mem_cons.mp he with rfl | he
      · exact hik
      · exact Nat.lt_trans hik (hs.1 e he)
    · split
      · rename_i hik
        exact (sortedKeys_cons ..).mpr ⟨hik ▸ hs.1, hs.2⟩
      · refine (sortedKeys_cons ..).mpr ⟨?_, ih hs.2⟩
        intro e he
        rcases mem_put he with rfl | he
        · simp only; omega
        · exact hs.1 e he

theorem sortedKeys_del {m : List (Nat × α)} (i : Nat) (h : sortedKeys m = true) : sortedKeys (del m i) = true := by
  induction m with
  | nil => rfl
  | cons e rest ih =>
    obtain ⟨k, v⟩ := e
    have hs := (sortedKeys_cons k v rest).mp h
    simp only [del]
    split
    · exact hs.2
    · exact (sortedKeys_cons ..).mpr ⟨fun e he => hs.1 e (mem_del he), ih hs.2⟩

theorem find_of_above {m : List (Nat × α)} {i : Nat} (h : above i m) : find m i = none := by
  induction m with
  | nil => rfl
  | cons e rest ih =>
    obtain ⟨k, v⟩ := e
    have hk : i < k := h (k, v) (List.mem_cons_self ..)
    simp only [find, if_neg (Nat.ne_of_gt hk)]
    exact ih fun e he => h e (List.mem_cons_of_mem _ he)

theorem find_del_self {m : List (Nat × α)} (i : Nat) (h : sortedKeys m = true) : find (del m i) i = none := by
  induction m with
  | nil => rfl
  | cons e rest ih =>
    obtain ⟨k, v⟩ := e
    have hs := (sortedKeys_cons k v rest).mp h
    simp only [del]
    split
    · rename_i hk; exact find_of_above (hk ▸ hs.1)
    · rename_i hk; simp only [find, if_neg hk]; exact ih hs.2

theorem find_del_of_ne (m : List (Nat × α)) {i j : Nat} (h : j ≠ i) : find (del m i) j = find m j := by
  induction m with
  | nil => rfl
  | cons e rest ih =>
    obtain ⟨k, v⟩ := e
    simp only [del]
    split
    · rename_i hk; subst hk; simp [find, h.symm]
    · simp only [find, ih]

/-! ## Memory keeps its canonical form (R139) -/

theorem writeByte_wf {m : Memory} (a : Nat) (b : Byte) (h : m.wf = true) : Memory.wf (writeByte m a b) = true := by
  simp only [Memory.wf, Bool.and_eq_true, List.all_eq_true] at h ⊢
  unfold writeByte
  split
  · exact ⟨sortedKeys_del a h.1, fun e he => h.2 e (mem_del he)⟩
  · rename_i hb
    refine ⟨sortedKeys_put a b h.1, fun e he => ?_⟩
    rcases mem_put he with rfl | he
    · simpa using hb
    · exact h.2 e he

theorem writeNat_wf {m : Memory} (a n v : Nat) (h : m.wf = true) : Memory.wf (writeNat m a n v) = true := by
  induction n generalizing m a v with
  | zero => exact h
  | succ n ih => exact ih _ _ (writeByte_wf _ _ h)

theorem writeMasked_wf {m : Memory} (a n v mask : Nat) (h : m.wf = true) : Memory.wf (writeMasked m a n v mask) = true := by
  induction n generalizing m a v mask with
  | zero => exact h
  | succ n ih =>
    refine ih _ _ _ ?_
    split
    · exact writeByte_wf _ _ h
    · exact h

theorem readByte_writeByte_self {m : Memory} (a : Nat) (b : Byte) (h : m.wf = true) : readByte (writeByte m a b) a = b := by
  have hs : sortedKeys m = true := by simp only [Memory.wf, Bool.and_eq_true] at h; exact h.1
  unfold readByte writeByte
  split
  · rename_i hb; rw [find_del_self a hs, hb]; rfl
  · simp

theorem readByte_writeByte_of_ne (m : Memory) {a x : Nat} (b : Byte) (h : x ≠ a) : readByte (writeByte m a b) x = readByte m x := by
  unfold readByte writeByte
  split
  · rw [find_del_of_ne m h]
  · rw [find_put_of_ne m b h]

/-- A write of `n` bytes leaves every byte outside them alone. -/
theorem readByte_writeNat_outside (m : Memory) {a x : Nat} (n v : Nat) (h : x < a ∨ a + n ≤ x) :
    readByte (writeNat m a n v) x = readByte m x := by
  induction n generalizing m a v with
  | zero => rfl
  | succ n ih =>
    simp only [writeNat]
    rw [ih _ _ (by omega), readByte_writeByte_of_ne _ _ (by omega)]

/-- Byte `i` of the bytes written is byte `i` of the number (R7). -/
theorem readByte_writeNat_inside {m : Memory} (a n v : Nat) {i : Nat} (hi : i < n) (h : m.wf = true) :
    readByte (writeNat m a n v) (a + i) = BitVec.ofNat 8 (v / 256 ^ i) := by
  induction n generalizing m a v i with
  | zero => omega
  | succ n ih =>
    simp only [writeNat]
    cases i with
    | zero => rw [readByte_writeNat_outside _ _ _ (by omega), Nat.add_zero, readByte_writeByte_self _ _ h]; simp
    | succ i =>
      have := ih (m := writeByte m a (BitVec.ofNat 8 v)) (a + 1) (v / 256) (i := i) (by omega) (writeByte_wf _ _ h)
      rw [show a + (i + 1) = a + 1 + i by omega, this, Nat.div_div_eq_div_mul, Nat.pow_succ, Nat.mul_comm]

/-- Reading the bytes just written gives the number's low bytes. -/
theorem readNat_writeNat {m : Memory} (a n v : Nat) (h : m.wf = true) : readNat (writeNat m a n v) a n = v % 256 ^ n := by
  induction n generalizing m a v with
  | zero => simp [readNat, Nat.mod_one]
  | succ n ih =>
    simp only [readNat, writeNat]
    rw [ih _ _ (writeByte_wf _ _ h), readByte_writeNat_outside _ _ _ (by omega), readByte_writeByte_self _ _ h]
    rw [BitVec.toNat_ofNat, show 256 ^ (n + 1) = 256 * 256 ^ n by rw [Nat.pow_succ, Nat.mul_comm], Nat.mod_mul]

/-! ## The state's writes keep the form -/

theorem State.mark_mem (s : State) (p n : Nat) : (s.mark p n).mem = s.mem := by unfold State.mark; split <;> rfl
@[simp] theorem State.unmark_mem (s : State) (p n : Nat) : (s.unmark p n).mem = s.mem := rfl
@[simp] theorem State.writeClean_mem (s : State) (p n v : Nat) : (s.writeClean p n v).mem = writeNat s.mem p n v := rfl
@[simp] theorem State.writePlace_mem (s : State) (p n v : Nat) (b : Bool) : (s.writePlace p n v b).mem = writeNat s.mem p n v := by
  unfold State.writePlace; split
  · exact State.mark_mem ..
  · rfl

/-- Marking and unmarking words of a unit changes no byte. -/
theorem marks_foldl_mem (p touched covered : Nat) (marks : BitVec 16) (l : List Nat) (s : State) :
    (l.foldl (fun st i =>
      if touched.testBit i && marks.getLsbD i then st.mark (p + 4 * i) 4
      else if covered.testBit i then st.unmark (p + 4 * i) 4 else st) s).mem = s.mem := by
  induction l generalizing s with
  | nil => rfl
  | cons i l ih =>
    simp only [List.foldl_cons, ih]
    split
    · exact State.mark_mem ..
    · split <;> rfl

@[simp] theorem State.writeLine_mem (s : State) (p : Nat) (data : BitVec 512) (mask : BitVec 64) (marks : BitVec 16) :
    (s.writeLine p data mask marks).mem = writeMasked s.mem p 64 data.toNat mask.toNat := by
  unfold State.writeLine; exact marks_foldl_mem ..

theorem State.writePlace_wf {s : State} (p n v : Nat) (b : Bool) (h : Memory.wf s.mem = true) : Memory.wf (s.writePlace p n v b).mem = true := by
  rw [State.writePlace_mem]; exact writeNat_wf _ _ _ h
theorem State.writeLine_wf {s : State} (p : Nat) (data : BitVec 512) (mask : BitVec 64) (marks : BitVec 16) (h : Memory.wf s.mem = true) :
    Memory.wf (s.writeLine p data mask marks).mem = true := by
  rw [State.writeLine_mem]; exact writeMasked_wf _ _ _ _ h

theorem reset_mem_wf : Memory.wf State.reset.mem = true := rfl

end Sys2Proof.Machine
end

