-- ==== Sys2Proof/Laws/State.lean ====
section
/-!
SUPPORT. What each named update of the state leaves in each field, and what the keyed accessors read after it.
-/
namespace Sys2Proof.Machine

/-! ## `State.setCore` -/

@[simp] theorem State.setCore_stepNo (s : State) (c : Nat) (k : Core) : (s.setCore c k).stepNo = s.stepNo := rfl
@[simp] theorem State.setCore_turns (s : State) (c : Nat) (k : Core) : (s.setCore c k).turns = s.turns := rfl
@[simp] theorem State.setCore_cur (s : State) (c : Nat) (k : Core) : (s.setCore c k).cur = s.cur := rfl
@[simp] theorem State.setCore_fabric (s : State) (c : Nat) (k : Core) : (s.setCore c k).fabric = s.fabric := rfl
@[simp] theorem State.setCore_l1 (s : State) (c : Nat) (k : Core) : (s.setCore c k).l1 = s.l1 := rfl
@[simp] theorem State.setCore_mem (s : State) (c : Nat) (k : Core) : (s.setCore c k).mem = s.mem := rfl
@[simp] theorem State.setCore_marks (s : State) (c : Nat) (k : Core) : (s.setCore c k).marks = s.marks := rfl
@[simp] theorem State.setCore_latent (s : State) (c : Nat) (k : Core) : (s.setCore c k).latent = s.latent := rfl
@[simp] theorem State.setCore_l2 (s : State) (c : Nat) (k : Core) : (s.setCore c k).l2 = s.l2 := rfl
@[simp] theorem State.setCore_flights (s : State) (c : Nat) (k : Core) : (s.setCore c k).flights = s.flights := rfl
@[simp] theorem State.setCore_tags (s : State) (c : Nat) (k : Core) : (s.setCore c k).tags = s.tags := rfl
@[simp] theorem State.setCore_springs (s : State) (c : Nat) (k : Core) : (s.setCore c k).springs = s.springs := rfl
@[simp] theorem State.setCore_parts (s : State) (c : Nat) (k : Core) : (s.setCore c k).parts = s.parts := rfl
@[simp] theorem State.setCore_launches (s : State) (c : Nat) (k : Core) : (s.setCore c k).launches = s.launches := rfl
@[simp] theorem State.setCore_rings (s : State) (c : Nat) (k : Core) : (s.setCore c k).rings = s.rings := rfl
@[simp] theorem State.setCore_landings (s : State) (c : Nat) (k : Core) : (s.setCore c k).landings = s.landings := rfl
@[simp] theorem State.setCore_barriers (s : State) (c : Nat) (k : Core) : (s.setCore c k).barriers = s.barriers := rfl
@[simp] theorem State.setCore_packets (s : State) (c : Nat) (k : Core) : (s.setCore c k).packets = s.packets := rfl
@[simp] theorem State.setCore_ponds (s : State) (c : Nat) (k : Core) : (s.setCore c k).ponds = s.ponds := rfl
@[simp] theorem State.setCore_colls (s : State) (c : Nat) (k : Core) : (s.setCore c k).colls = s.colls := rfl
@[simp] theorem State.setCore_arrivals (s : State) (c : Nat) (k : Core) : (s.setCore c k).arrivals = s.arrivals := rfl
@[simp] theorem State.setCore_chips (s : State) (c : Nat) (k : Core) : (s.setCore c k).chips = s.chips := rfl
@[simp] theorem State.setCore_dev (s : State) (c : Nat) (k : Core) : (s.setCore c k).dev = s.dev := rfl

/-! ## `State.modCore` -/

@[simp] theorem State.modCore_stepNo (s : State) (c : Nat) (f : Core → Core) : (s.modCore c f).stepNo = s.stepNo := rfl
@[simp] theorem State.modCore_turns (s : State) (c : Nat) (f : Core → Core) : (s.modCore c f).turns = s.turns := rfl
@[simp] theorem State.modCore_cur (s : State) (c : Nat) (f : Core → Core) : (s.modCore c f).cur = s.cur := rfl
@[simp] theorem State.modCore_fabric (s : State) (c : Nat) (f : Core → Core) : (s.modCore c f).fabric = s.fabric := rfl
@[simp] theorem State.modCore_l1 (s : State) (c : Nat) (f : Core → Core) : (s.modCore c f).l1 = s.l1 := rfl
@[simp] theorem State.modCore_mem (s : State) (c : Nat) (f : Core → Core) : (s.modCore c f).mem = s.mem := rfl
@[simp] theorem State.modCore_marks (s : State) (c : Nat) (f : Core → Core) : (s.modCore c f).marks = s.marks := rfl
@[simp] theorem State.modCore_latent (s : State) (c : Nat) (f : Core → Core) : (s.modCore c f).latent = s.latent := rfl
@[simp] theorem State.modCore_l2 (s : State) (c : Nat) (f : Core → Core) : (s.modCore c f).l2 = s.l2 := rfl
@[simp] theorem State.modCore_flights (s : State) (c : Nat) (f : Core → Core) : (s.modCore c f).flights = s.flights := rfl
@[simp] theorem State.modCore_tags (s : State) (c : Nat) (f : Core → Core) : (s.modCore c f).tags = s.tags := rfl
@[simp] theorem State.modCore_springs (s : State) (c : Nat) (f : Core → Core) : (s.modCore c f).springs = s.springs := rfl
@[simp] theorem State.modCore_parts (s : State) (c : Nat) (f : Core → Core) : (s.modCore c f).parts = s.parts := rfl
@[simp] theorem State.modCore_launches (s : State) (c : Nat) (f : Core → Core) : (s.modCore c f).launches = s.launches := rfl
@[simp] theorem State.modCore_rings (s : State) (c : Nat) (f : Core → Core) : (s.modCore c f).rings = s.rings := rfl
@[simp] theorem State.modCore_landings (s : State) (c : Nat) (f : Core → Core) : (s.modCore c f).landings = s.landings := rfl
@[simp] theorem State.modCore_barriers (s : State) (c : Nat) (f : Core → Core) : (s.modCore c f).barriers = s.barriers := rfl
@[simp] theorem State.modCore_packets (s : State) (c : Nat) (f : Core → Core) : (s.modCore c f).packets = s.packets := rfl
@[simp] theorem State.modCore_ponds (s : State) (c : Nat) (f : Core → Core) : (s.modCore c f).ponds = s.ponds := rfl
@[simp] theorem State.modCore_colls (s : State) (c : Nat) (f : Core → Core) : (s.modCore c f).colls = s.colls := rfl
@[simp] theorem State.modCore_arrivals (s : State) (c : Nat) (f : Core → Core) : (s.modCore c f).arrivals = s.arrivals := rfl
@[simp] theorem State.modCore_chips (s : State) (c : Nat) (f : Core → Core) : (s.modCore c f).chips = s.chips := rfl
@[simp] theorem State.modCore_dev (s : State) (c : Nat) (f : Core → Core) : (s.modCore c f).dev = s.dev := rfl

/-! ## `State.setL1` -/

@[simp] theorem State.setL1_stepNo (s : State) (c : Nat) (l : List L1Line) : (s.setL1 c l).stepNo = s.stepNo := rfl
@[simp] theorem State.setL1_turns (s : State) (c : Nat) (l : List L1Line) : (s.setL1 c l).turns = s.turns := rfl
@[simp] theorem State.setL1_cur (s : State) (c : Nat) (l : List L1Line) : (s.setL1 c l).cur = s.cur := rfl
@[simp] theorem State.setL1_fabric (s : State) (c : Nat) (l : List L1Line) : (s.setL1 c l).fabric = s.fabric := rfl
@[simp] theorem State.setL1_cores (s : State) (c : Nat) (l : List L1Line) : (s.setL1 c l).cores = s.cores := rfl
@[simp] theorem State.setL1_mem (s : State) (c : Nat) (l : List L1Line) : (s.setL1 c l).mem = s.mem := rfl
@[simp] theorem State.setL1_marks (s : State) (c : Nat) (l : List L1Line) : (s.setL1 c l).marks = s.marks := rfl
@[simp] theorem State.setL1_latent (s : State) (c : Nat) (l : List L1Line) : (s.setL1 c l).latent = s.latent := rfl
@[simp] theorem State.setL1_l2 (s : State) (c : Nat) (l : List L1Line) : (s.setL1 c l).l2 = s.l2 := rfl
@[simp] theorem State.setL1_flights (s : State) (c : Nat) (l : List L1Line) : (s.setL1 c l).flights = s.flights := rfl
@[simp] theorem State.setL1_tags (s : State) (c : Nat) (l : List L1Line) : (s.setL1 c l).tags = s.tags := rfl
@[simp] theorem State.setL1_springs (s : State) (c : Nat) (l : List L1Line) : (s.setL1 c l).springs = s.springs := rfl
@[simp] theorem State.setL1_parts (s : State) (c : Nat) (l : List L1Line) : (s.setL1 c l).parts = s.parts := rfl
@[simp] theorem State.setL1_launches (s : State) (c : Nat) (l : List L1Line) : (s.setL1 c l).launches = s.launches := rfl
@[simp] theorem State.setL1_rings (s : State) (c : Nat) (l : List L1Line) : (s.setL1 c l).rings = s.rings := rfl
@[simp] theorem State.setL1_landings (s : State) (c : Nat) (l : List L1Line) : (s.setL1 c l).landings = s.landings := rfl
@[simp] theorem State.setL1_barriers (s : State) (c : Nat) (l : List L1Line) : (s.setL1 c l).barriers = s.barriers := rfl
@[simp] theorem State.setL1_packets (s : State) (c : Nat) (l : List L1Line) : (s.setL1 c l).packets = s.packets := rfl
@[simp] theorem State.setL1_ponds (s : State) (c : Nat) (l : List L1Line) : (s.setL1 c l).ponds = s.ponds := rfl
@[simp] theorem State.setL1_colls (s : State) (c : Nat) (l : List L1Line) : (s.setL1 c l).colls = s.colls := rfl
@[simp] theorem State.setL1_arrivals (s : State) (c : Nat) (l : List L1Line) : (s.setL1 c l).arrivals = s.arrivals := rfl
@[simp] theorem State.setL1_chips (s : State) (c : Nat) (l : List L1Line) : (s.setL1 c l).chips = s.chips := rfl
@[simp] theorem State.setL1_dev (s : State) (c : Nat) (l : List L1Line) : (s.setL1 c l).dev = s.dev := rfl

/-! ## `State.modPond` -/

@[simp] theorem State.modPond_stepNo (s : State) (p : Nat) (f : Pond → Pond) : (s.modPond p f).stepNo = s.stepNo := rfl
@[simp] theorem State.modPond_turns (s : State) (p : Nat) (f : Pond → Pond) : (s.modPond p f).turns = s.turns := rfl
@[simp] theorem State.modPond_cur (s : State) (p : Nat) (f : Pond → Pond) : (s.modPond p f).cur = s.cur := rfl
@[simp] theorem State.modPond_fabric (s : State) (p : Nat) (f : Pond → Pond) : (s.modPond p f).fabric = s.fabric := rfl
@[simp] theorem State.modPond_cores (s : State) (p : Nat) (f : Pond → Pond) : (s.modPond p f).cores = s.cores := rfl
@[simp] theorem State.modPond_l1 (s : State) (p : Nat) (f : Pond → Pond) : (s.modPond p f).l1 = s.l1 := rfl
@[simp] theorem State.modPond_mem (s : State) (p : Nat) (f : Pond → Pond) : (s.modPond p f).mem = s.mem := rfl
@[simp] theorem State.modPond_marks (s : State) (p : Nat) (f : Pond → Pond) : (s.modPond p f).marks = s.marks := rfl
@[simp] theorem State.modPond_latent (s : State) (p : Nat) (f : Pond → Pond) : (s.modPond p f).latent = s.latent := rfl
@[simp] theorem State.modPond_l2 (s : State) (p : Nat) (f : Pond → Pond) : (s.modPond p f).l2 = s.l2 := rfl
@[simp] theorem State.modPond_flights (s : State) (p : Nat) (f : Pond → Pond) : (s.modPond p f).flights = s.flights := rfl
@[simp] theorem State.modPond_tags (s : State) (p : Nat) (f : Pond → Pond) : (s.modPond p f).tags = s.tags := rfl
@[simp] theorem State.modPond_springs (s : State) (p : Nat) (f : Pond → Pond) : (s.modPond p f).springs = s.springs := rfl
@[simp] theorem State.modPond_parts (s : State) (p : Nat) (f : Pond → Pond) : (s.modPond p f).parts = s.parts := rfl
@[simp] theorem State.modPond_launches (s : State) (p : Nat) (f : Pond → Pond) : (s.modPond p f).launches = s.launches := rfl
@[simp] theorem State.modPond_rings (s : State) (p : Nat) (f : Pond → Pond) : (s.modPond p f).rings = s.rings := rfl
@[simp] theorem State.modPond_landings (s : State) (p : Nat) (f : Pond → Pond) : (s.modPond p f).landings = s.landings := rfl
@[simp] theorem State.modPond_barriers (s : State) (p : Nat) (f : Pond → Pond) : (s.modPond p f).barriers = s.barriers := rfl
@[simp] theorem State.modPond_packets (s : State) (p : Nat) (f : Pond → Pond) : (s.modPond p f).packets = s.packets := rfl
@[simp] theorem State.modPond_colls (s : State) (p : Nat) (f : Pond → Pond) : (s.modPond p f).colls = s.colls := rfl
@[simp] theorem State.modPond_arrivals (s : State) (p : Nat) (f : Pond → Pond) : (s.modPond p f).arrivals = s.arrivals := rfl
@[simp] theorem State.modPond_chips (s : State) (p : Nat) (f : Pond → Pond) : (s.modPond p f).chips = s.chips := rfl
@[simp] theorem State.modPond_dev (s : State) (p : Nat) (f : Pond → Pond) : (s.modPond p f).dev = s.dev := rfl

/-! ## `State.modSpring` -/

@[simp] theorem State.modSpring_stepNo (s : State) (n : Nat) (f : Spring → Spring) : (s.modSpring n f).stepNo = s.stepNo := rfl
@[simp] theorem State.modSpring_turns (s : State) (n : Nat) (f : Spring → Spring) : (s.modSpring n f).turns = s.turns := rfl
@[simp] theorem State.modSpring_cur (s : State) (n : Nat) (f : Spring → Spring) : (s.modSpring n f).cur = s.cur := rfl
@[simp] theorem State.modSpring_fabric (s : State) (n : Nat) (f : Spring → Spring) : (s.modSpring n f).fabric = s.fabric := rfl
@[simp] theorem State.modSpring_cores (s : State) (n : Nat) (f : Spring → Spring) : (s.modSpring n f).cores = s.cores := rfl
@[simp] theorem State.modSpring_l1 (s : State) (n : Nat) (f : Spring → Spring) : (s.modSpring n f).l1 = s.l1 := rfl
@[simp] theorem State.modSpring_mem (s : State) (n : Nat) (f : Spring → Spring) : (s.modSpring n f).mem = s.mem := rfl
@[simp] theorem State.modSpring_marks (s : State) (n : Nat) (f : Spring → Spring) : (s.modSpring n f).marks = s.marks := rfl
@[simp] theorem State.modSpring_latent (s : State) (n : Nat) (f : Spring → Spring) : (s.modSpring n f).latent = s.latent := rfl
@[simp] theorem State.modSpring_l2 (s : State) (n : Nat) (f : Spring → Spring) : (s.modSpring n f).l2 = s.l2 := rfl
@[simp] theorem State.modSpring_flights (s : State) (n : Nat) (f : Spring → Spring) : (s.modSpring n f).flights = s.flights := rfl
@[simp] theorem State.modSpring_tags (s : State) (n : Nat) (f : Spring → Spring) : (s.modSpring n f).tags = s.tags := rfl
@[simp] theorem State.modSpring_parts (s : State) (n : Nat) (f : Spring → Spring) : (s.modSpring n f).parts = s.parts := rfl
@[simp] theorem State.modSpring_launches (s : State) (n : Nat) (f : Spring → Spring) : (s.modSpring n f).launches = s.launches := rfl
@[simp] theorem State.modSpring_rings (s : State) (n : Nat) (f : Spring → Spring) : (s.modSpring n f).rings = s.rings := rfl
@[simp] theorem State.modSpring_landings (s : State) (n : Nat) (f : Spring → Spring) : (s.modSpring n f).landings = s.landings := rfl
@[simp] theorem State.modSpring_barriers (s : State) (n : Nat) (f : Spring → Spring) : (s.modSpring n f).barriers = s.barriers := rfl
@[simp] theorem State.modSpring_packets (s : State) (n : Nat) (f : Spring → Spring) : (s.modSpring n f).packets = s.packets := rfl
@[simp] theorem State.modSpring_ponds (s : State) (n : Nat) (f : Spring → Spring) : (s.modSpring n f).ponds = s.ponds := rfl
@[simp] theorem State.modSpring_colls (s : State) (n : Nat) (f : Spring → Spring) : (s.modSpring n f).colls = s.colls := rfl
@[simp] theorem State.modSpring_arrivals (s : State) (n : Nat) (f : Spring → Spring) : (s.modSpring n f).arrivals = s.arrivals := rfl
@[simp] theorem State.modSpring_chips (s : State) (n : Nat) (f : Spring → Spring) : (s.modSpring n f).chips = s.chips := rfl
@[simp] theorem State.modSpring_dev (s : State) (n : Nat) (f : Spring → Spring) : (s.modSpring n f).dev = s.dev := rfl

/-! ## `State.modPart` -/

@[simp] theorem State.modPart_stepNo (s : State) (p : Nat) (f : Part → Part) : (s.modPart p f).stepNo = s.stepNo := rfl
@[simp] theorem State.modPart_turns (s : State) (p : Nat) (f : Part → Part) : (s.modPart p f).turns = s.turns := rfl
@[simp] theorem State.modPart_cur (s : State) (p : Nat) (f : Part → Part) : (s.modPart p f).cur = s.cur := rfl
@[simp] theorem State.modPart_fabric (s : State) (p : Nat) (f : Part → Part) : (s.modPart p f).fabric = s.fabric := rfl
@[simp] theorem State.modPart_cores (s : State) (p : Nat) (f : Part → Part) : (s.modPart p f).cores = s.cores := rfl
@[simp] theorem State.modPart_l1 (s : State) (p : Nat) (f : Part → Part) : (s.modPart p f).l1 = s.l1 := rfl
@[simp] theorem State.modPart_mem (s : State) (p : Nat) (f : Part → Part) : (s.modPart p f).mem = s.mem := rfl
@[simp] theorem State.modPart_marks (s : State) (p : Nat) (f : Part → Part) : (s.modPart p f).marks = s.marks := rfl
@[simp] theorem State.modPart_latent (s : State) (p : Nat) (f : Part → Part) : (s.modPart p f).latent = s.latent := rfl
@[simp] theorem State.modPart_l2 (s : State) (p : Nat) (f : Part → Part) : (s.modPart p f).l2 = s.l2 := rfl
@[simp] theorem State.modPart_flights (s : State) (p : Nat) (f : Part → Part) : (s.modPart p f).flights = s.flights := rfl
@[simp] theorem State.modPart_tags (s : State) (p : Nat) (f : Part → Part) : (s.modPart p f).tags = s.tags := rfl
@[simp] theorem State.modPart_springs (s : State) (p : Nat) (f : Part → Part) : (s.modPart p f).springs = s.springs := rfl
@[simp] theorem State.modPart_launches (s : State) (p : Nat) (f : Part → Part) : (s.modPart p f).launches = s.launches := rfl
@[simp] theorem State.modPart_rings (s : State) (p : Nat) (f : Part → Part) : (s.modPart p f).rings = s.rings := rfl
@[simp] theorem State.modPart_landings (s : State) (p : Nat) (f : Part → Part) : (s.modPart p f).landings = s.landings := rfl
@[simp] theorem State.modPart_barriers (s : State) (p : Nat) (f : Part → Part) : (s.modPart p f).barriers = s.barriers := rfl
@[simp] theorem State.modPart_packets (s : State) (p : Nat) (f : Part → Part) : (s.modPart p f).packets = s.packets := rfl
@[simp] theorem State.modPart_ponds (s : State) (p : Nat) (f : Part → Part) : (s.modPart p f).ponds = s.ponds := rfl
@[simp] theorem State.modPart_colls (s : State) (p : Nat) (f : Part → Part) : (s.modPart p f).colls = s.colls := rfl
@[simp] theorem State.modPart_arrivals (s : State) (p : Nat) (f : Part → Part) : (s.modPart p f).arrivals = s.arrivals := rfl
@[simp] theorem State.modPart_chips (s : State) (p : Nat) (f : Part → Part) : (s.modPart p f).chips = s.chips := rfl
@[simp] theorem State.modPart_dev (s : State) (p : Nat) (f : Part → Part) : (s.modPart p f).dev = s.dev := rfl

/-! ## `State.modChip` -/

@[simp] theorem State.modChip_stepNo (s : State) (n : Nat) (f : Chip → Chip) : (s.modChip n f).stepNo = s.stepNo := rfl
@[simp] theorem State.modChip_turns (s : State) (n : Nat) (f : Chip → Chip) : (s.modChip n f).turns = s.turns := rfl
@[simp] theorem State.modChip_cur (s : State) (n : Nat) (f : Chip → Chip) : (s.modChip n f).cur = s.cur := rfl
@[simp] theorem State.modChip_fabric (s : State) (n : Nat) (f : Chip → Chip) : (s.modChip n f).fabric = s.fabric := rfl
@[simp] theorem State.modChip_cores (s : State) (n : Nat) (f : Chip → Chip) : (s.modChip n f).cores = s.cores := rfl
@[simp] theorem State.modChip_l1 (s : State) (n : Nat) (f : Chip → Chip) : (s.modChip n f).l1 = s.l1 := rfl
@[simp] theorem State.modChip_mem (s : State) (n : Nat) (f : Chip → Chip) : (s.modChip n f).mem = s.mem := rfl
@[simp] theorem State.modChip_marks (s : State) (n : Nat) (f : Chip → Chip) : (s.modChip n f).marks = s.marks := rfl
@[simp] theorem State.modChip_latent (s : State) (n : Nat) (f : Chip → Chip) : (s.modChip n f).latent = s.latent := rfl
@[simp] theorem State.modChip_l2 (s : State) (n : Nat) (f : Chip → Chip) : (s.modChip n f).l2 = s.l2 := rfl
@[simp] theorem State.modChip_flights (s : State) (n : Nat) (f : Chip → Chip) : (s.modChip n f).flights = s.flights := rfl
@[simp] theorem State.modChip_tags (s : State) (n : Nat) (f : Chip → Chip) : (s.modChip n f).tags = s.tags := rfl
@[simp] theorem State.modChip_springs (s : State) (n : Nat) (f : Chip → Chip) : (s.modChip n f).springs = s.springs := rfl
@[simp] theorem State.modChip_parts (s : State) (n : Nat) (f : Chip → Chip) : (s.modChip n f).parts = s.parts := rfl
@[simp] theorem State.modChip_launches (s : State) (n : Nat) (f : Chip → Chip) : (s.modChip n f).launches = s.launches := rfl
@[simp] theorem State.modChip_rings (s : State) (n : Nat) (f : Chip → Chip) : (s.modChip n f).rings = s.rings := rfl
@[simp] theorem State.modChip_landings (s : State) (n : Nat) (f : Chip → Chip) : (s.modChip n f).landings = s.landings := rfl
@[simp] theorem State.modChip_barriers (s : State) (n : Nat) (f : Chip → Chip) : (s.modChip n f).barriers = s.barriers := rfl
@[simp] theorem State.modChip_packets (s : State) (n : Nat) (f : Chip → Chip) : (s.modChip n f).packets = s.packets := rfl
@[simp] theorem State.modChip_ponds (s : State) (n : Nat) (f : Chip → Chip) : (s.modChip n f).ponds = s.ponds := rfl
@[simp] theorem State.modChip_colls (s : State) (n : Nat) (f : Chip → Chip) : (s.modChip n f).colls = s.colls := rfl
@[simp] theorem State.modChip_arrivals (s : State) (n : Nat) (f : Chip → Chip) : (s.modChip n f).arrivals = s.arrivals := rfl
@[simp] theorem State.modChip_dev (s : State) (n : Nat) (f : Chip → Chip) : (s.modChip n f).dev = s.dev := rfl

/-! ## Keyed accessors -/

@[simp] theorem State.core_setCore (s : State) (c : Nat) (k : Core) : (s.setCore c k).core c = k := by
  simp [State.core, State.setCore]
theorem State.core_setCore_of_ne (s : State) {c d : Nat} (k : Core) (h : d ≠ c) : (s.setCore c k).core d = s.core d := by
  simp [State.core, State.setCore, find_put_of_ne _ _ h]
@[simp] theorem State.setCore_setCore (s : State) (c : Nat) (k k' : Core) : (s.setCore c k).setCore c k' = s.setCore c k' := by
  simp [State.setCore]
theorem State.modCore_eq (s : State) (c : Nat) (f : Core → Core) : s.modCore c f = s.setCore c (f (s.core c)) := rfl
@[simp] theorem State.core_modCore (s : State) (c : Nat) (f : Core → Core) : (s.modCore c f).core c = f (s.core c) := by
  simp [State.modCore]
theorem State.core_modCore_of_ne (s : State) {c d : Nat} (f : Core → Core) (h : d ≠ c) : (s.modCore c f).core d = s.core d :=
  State.core_setCore_of_ne _ _ h
@[simp] theorem State.l1Of_setL1 (s : State) (c : Nat) (l : List L1Line) : (s.setL1 c l).l1Of c = l := by
  simp [State.l1Of, State.setL1]
theorem State.l1Of_setL1_of_ne (s : State) {c d : Nat} (l : List L1Line) (h : d ≠ c) : (s.setL1 c l).l1Of d = s.l1Of d := by
  simp [State.l1Of, State.setL1, find_put_of_ne _ _ h]
@[simp] theorem State.pond_modPond (s : State) (p : Nat) (f : Pond → Pond) : (s.modPond p f).pond p = f (s.pond p) := by
  simp [State.pond, State.modPond]
@[simp] theorem State.spring_modSpring (s : State) (n : Nat) (f : Spring → Spring) : (s.modSpring n f).spring n = f (s.spring n) := by
  simp [State.spring, State.modSpring]
@[simp] theorem State.part_modPart (s : State) (p : Nat) (f : Part → Part) : (s.modPart p f).part p = f (s.part p) := by
  simp [State.part, State.modPart]
theorem State.part_modPart_of_ne (s : State) {p q : Nat} (f : Part → Part) (h : q ≠ p) : (s.modPart p f).part q = s.part q := by
  simp [State.part, State.modPart, find_put_of_ne _ _ h]
@[simp] theorem State.chip_modChip (s : State) (n : Nat) (f : Chip → Chip) : (s.modChip n f).chip n = f (s.chip n) := by
  simp [State.chip, State.modChip]
theorem State.chip_modChip_of_ne (s : State) {n m : Nat} (f : Chip → Chip) (h : m ≠ n) : (s.modChip n f).chip m = s.chip m := by
  simp [State.chip, State.modChip, find_put_of_ne _ _ h]

@[simp] theorem State.l1Of_setCore (s : State) (c : Nat) (k : Core) (c' : Nat) : (s.setCore c k).l1Of c' = s.l1Of c' := rfl
@[simp] theorem State.pond_setCore (s : State) (c : Nat) (k : Core) (c' : Nat) : (s.setCore c k).pond c' = s.pond c' := rfl
@[simp] theorem State.spring_setCore (s : State) (c : Nat) (k : Core) (c' : Nat) : (s.setCore c k).spring c' = s.spring c' := rfl
@[simp] theorem State.part_setCore (s : State) (c : Nat) (k : Core) (c' : Nat) : (s.setCore c k).part c' = s.part c' := rfl
@[simp] theorem State.chip_setCore (s : State) (c : Nat) (k : Core) (c' : Nat) : (s.setCore c k).chip c' = s.chip c' := rfl
@[simp] theorem State.l1Of_modCore (s : State) (c : Nat) (f : Core → Core) (c' : Nat) : (s.modCore c f).l1Of c' = s.l1Of c' := rfl
@[simp] theorem State.pond_modCore (s : State) (c : Nat) (f : Core → Core) (c' : Nat) : (s.modCore c f).pond c' = s.pond c' := rfl
@[simp] theorem State.spring_modCore (s : State) (c : Nat) (f : Core → Core) (c' : Nat) : (s.modCore c f).spring c' = s.spring c' := rfl
@[simp] theorem State.part_modCore (s : State) (c : Nat) (f : Core → Core) (c' : Nat) : (s.modCore c f).part c' = s.part c' := rfl
@[simp] theorem State.chip_modCore (s : State) (c : Nat) (f : Core → Core) (c' : Nat) : (s.modCore c f).chip c' = s.chip c' := rfl
@[simp] theorem State.core_setL1 (s : State) (c : Nat) (l : List L1Line) (c' : Nat) : (s.setL1 c l).core c' = s.core c' := rfl
@[simp] theorem State.pond_setL1 (s : State) (c : Nat) (l : List L1Line) (c' : Nat) : (s.setL1 c l).pond c' = s.pond c' := rfl
@[simp] theorem State.spring_setL1 (s : State) (c : Nat) (l : List L1Line) (c' : Nat) : (s.setL1 c l).spring c' = s.spring c' := rfl
@[simp] theorem State.part_setL1 (s : State) (c : Nat) (l : List L1Line) (c' : Nat) : (s.setL1 c l).part c' = s.part c' := rfl
@[simp] theorem State.chip_setL1 (s : State) (c : Nat) (l : List L1Line) (c' : Nat) : (s.setL1 c l).chip c' = s.chip c' := rfl
@[simp] theorem State.core_modPond (s : State) (p : Nat) (f : Pond → Pond) (c' : Nat) : (s.modPond p f).core c' = s.core c' := rfl
@[simp] theorem State.l1Of_modPond (s : State) (p : Nat) (f : Pond → Pond) (c' : Nat) : (s.modPond p f).l1Of c' = s.l1Of c' := rfl
@[simp] theorem State.spring_modPond (s : State) (p : Nat) (f : Pond → Pond) (c' : Nat) : (s.modPond p f).spring c' = s.spring c' := rfl
@[simp] theorem State.part_modPond (s : State) (p : Nat) (f : Pond → Pond) (c' : Nat) : (s.modPond p f).part c' = s.part c' := rfl
@[simp] theorem State.chip_modPond (s : State) (p : Nat) (f : Pond → Pond) (c' : Nat) : (s.modPond p f).chip c' = s.chip c' := rfl
@[simp] theorem State.core_modSpring (s : State) (n : Nat) (f : Spring → Spring) (c' : Nat) : (s.modSpring n f).core c' = s.core c' := rfl
@[simp] theorem State.l1Of_modSpring (s : State) (n : Nat) (f : Spring → Spring) (c' : Nat) : (s.modSpring n f).l1Of c' = s.l1Of c' := rfl
@[simp] theorem State.pond_modSpring (s : State) (n : Nat) (f : Spring → Spring) (c' : Nat) : (s.modSpring n f).pond c' = s.pond c' := rfl
@[simp] theorem State.part_modSpring (s : State) (n : Nat) (f : Spring → Spring) (c' : Nat) : (s.modSpring n f).part c' = s.part c' := rfl
@[simp] theorem State.chip_modSpring (s : State) (n : Nat) (f : Spring → Spring) (c' : Nat) : (s.modSpring n f).chip c' = s.chip c' := rfl
@[simp] theorem State.core_modPart (s : State) (p : Nat) (f : Part → Part) (c' : Nat) : (s.modPart p f).core c' = s.core c' := rfl
@[simp] theorem State.l1Of_modPart (s : State) (p : Nat) (f : Part → Part) (c' : Nat) : (s.modPart p f).l1Of c' = s.l1Of c' := rfl
@[simp] theorem State.pond_modPart (s : State) (p : Nat) (f : Part → Part) (c' : Nat) : (s.modPart p f).pond c' = s.pond c' := rfl
@[simp] theorem State.spring_modPart (s : State) (p : Nat) (f : Part → Part) (c' : Nat) : (s.modPart p f).spring c' = s.spring c' := rfl
@[simp] theorem State.chip_modPart (s : State) (p : Nat) (f : Part → Part) (c' : Nat) : (s.modPart p f).chip c' = s.chip c' := rfl
@[simp] theorem State.core_modChip (s : State) (n : Nat) (f : Chip → Chip) (c' : Nat) : (s.modChip n f).core c' = s.core c' := rfl
@[simp] theorem State.l1Of_modChip (s : State) (n : Nat) (f : Chip → Chip) (c' : Nat) : (s.modChip n f).l1Of c' = s.l1Of c' := rfl
@[simp] theorem State.pond_modChip (s : State) (n : Nat) (f : Chip → Chip) (c' : Nat) : (s.modChip n f).pond c' = s.pond c' := rfl
@[simp] theorem State.spring_modChip (s : State) (n : Nat) (f : Chip → Chip) (c' : Nat) : (s.modChip n f).spring c' = s.spring c' := rfl
@[simp] theorem State.part_modChip (s : State) (n : Nat) (f : Chip → Chip) (c' : Nat) : (s.modChip n f).part c' = s.part c' := rfl

end Sys2Proof.Machine
end

