-- ==== Sys2Proof/Laws/Issue.lean ====
section
/-!
SUPPORT. What the issue of an instruction does around its effect, once for all instructions.
-/
namespace Sys2Proof.Machine

/-! ## Homes of granules (R145) -/

/-- A partition without a range table has no granule whose home a first touch fixes. -/
theorem State.homesFixed_of_table {s : State} {p : Nat} (h : (s.part p).table = []) : s.homesFixed p := by
  intro chip va
  simp only [State.touch, Part.range, h]
  rfl

/-! ## The bookkeeping touches nothing of `Core.bare` -/

@[simp] theorem Core.bare_tick (k : Core) (n : Nat) : (k.tick n).bare = k.bare := by
  unfold Core.tick Core.bare; cases k.level <;> rfl
@[simp] theorem Core.bare_interlock (k : Core) (i : Instr) : (k.interlock i).bare = k.bare := by
  unfold Core.interlock; extract_lets; split <;> simp
@[simp] theorem Core.bare_book (k : Core) (i : Instr) (l : Nat) : (k.book i l).bare = k.bare := rfl
@[simp] theorem Core.bare_endCheck (k : Core) (n : Word) : (k.endCheck n).bare = k.bare := by
  unfold Core.endCheck; split
  · split <;> rfl
  · rfl
@[simp] theorem Core.bare_closeFrame (k : Core) : k.closeFrame.bare = k.bare := rfl
@[simp] theorem Core.bare_advance (k : Core) (i : Instr) : (k.advance i).bare = k.bare := by
  unfold Core.advance
  extract_lets nxt f k1
  have h1 : k1.bare = k.bare := by unfold k1; split <;> rfl
  clear_value k1
  split
  · split
    · exact h1
    · split
      · exact h1
      · simp [h1]
  · simp
@[simp] theorem Core.bare_transfer (k : Core) (t : Word) : (k.transfer t).bare = k.bare := by
  unfold Core.transfer; extract_lets src k1
  have h1 : k1.bare = k.bare := by unfold k1; split <;> rfl
  exact h1


/-! ## The interlock and the charge leave alone what the checks read -/

theorem Core.interlock_eq (k : Core) (i : Instr) : ∃ n, k.interlock i = k.tick n ∨ k.interlock i = k := by
  unfold Core.interlock
  extract_lets g need need'
  split
  · exact ⟨need' - k.cyc, .inl rfl⟩
  · exact ⟨0, .inr rfl⟩
@[simp] theorem Core.tick_before (k : Core) (n : Nat) (i : Instr) : (k.tick n).before i = k.before i := by
  unfold Core.tick; split <;> rfl
@[simp] theorem Core.interlock_before (k : Core) (i j : Instr) : (k.interlock i).before j = k.before j := by
  obtain ⟨n, h | h⟩ := k.interlock_eq i <;> simp [h]
theorem Core.tick_fields (k : Core) (n : Nat) :
    (k.tick n).matq = k.matq ∧ (k.tick n).late = k.late ∧ (k.tick n).group = k.group ∧ (k.tick n).level = k.level ∧
    (k.tick n).regs = k.regs ∧ (k.tick n).run = k.run ∧ (k.tick n).pc = k.pc := ⟨rfl, rfl, rfl, rfl, rfl, rfl, rfl⟩
theorem Core.interlock_fields (k : Core) (i : Instr) :
    (k.interlock i).matq = k.matq ∧ (k.interlock i).late = k.late ∧ (k.interlock i).group = k.group ∧
    (k.interlock i).level = k.level ∧ (k.interlock i).regs = k.regs ∧ (k.interlock i).run = k.run ∧ (k.interlock i).pc = k.pc := by
  obtain ⟨n, h | h⟩ := k.interlock_eq i <;> rw [h]
  · exact k.tick_fields n
  · exact ⟨rfl, rfl, rfl, rfl, rfl, rfl, rfl⟩
/-- The interlock changes nothing that the freeze for a late result looks at but the clock. -/
@[simp] theorem Core.interlock_awaited (k : Core) (i : Instr) : (k.interlock i).awaited = k.awaited := by
  obtain ⟨a, b, _, d, _⟩ := k.interlock_fields i
  unfold Core.awaited; rw [a, b, d]
theorem Core.lateNow_of {k : Core} (h : k.awaited = []) : k.lateNow = false := by simp [Core.lateNow, Core.lateFrom, h]
theorem Core.charge_fields (k : Core) (i : Instr) :
    (k.charge i).matq = k.matq ∧ (k.charge i).late = k.late ∧ (k.charge i).level = k.level ∧
    (k.charge i).regs = k.regs ∧ (k.charge i).run = k.run ∧ (k.charge i).pc = k.pc ∧ (k.charge i).inq = k.inq ∧
    (k.charge i).group.fwd = k.group.fwd ∧ (k.charge i).group.pair = k.group.pair := by
  unfold Core.charge; extract_lets; split <;> exact ⟨rfl, rfl, rfl, rfl, rfl, rfl, rfl, rfl, rfl⟩

/-! ## An instruction that nothing stands in the way of -/

/-- The parts of `State.clear`. -/
theorem State.clear_iff (s : State) (i : Instr) : s.clear i = true ↔
    (s.core s.cur).run = .running ∧ (s.core s.cur).wait = .none ∧ (s.core s.cur).group.fwd = .none ∧
    (s.core s.cur).group.pair = .none ∧ (s.core s.cur).awaited = [] ∧
    (s.core s.cur).before i = .go ∧ (s.core s.cur).guardFor i = (true, false) := by
  simp only [State.clear, Bool.and_eq_true, beq_iff_eq, List.isEmpty_iff, and_assoc]

/-- The core after its instruction's effect, its results booked and its own cycle counted. -/
def Core.counted (old new : Core) (i : Instr) (lat : Nat) : Core :=
  let k := { new with cyc := old.cyc }.book i lat
  { k with cyc := k.cyc + 1, csrs := if old.level == .user then { k.csrs with taskclk := k.csrs.taskclk + 1 } else k.csrs }
/-- The core after its instruction's effect, as `State.finish` leaves it: `old` is the core at issue. -/
def Core.closed (old new : Core) (i : Instr) (d : Done) : Core :=
  match d.flow with
  | .seq => { (old.counted new i d.lat).advance i with freeze := none }
  | .taken t => { ((old.counted new i d.lat).transfer t).tick 2 with freeze := none }
  | .skip t => { (old.counted new i d.lat) with pc := t, freeze := none }
  | .back => { (old.counted new i d.lat).tick 3 with freeze := none }
  | _ => { (old.counted new i d.lat) with freeze := none }

theorem Core.advance_taskclk (k : Core) (i : Instr) : (k.advance i).csrs.taskclk = k.csrs.taskclk := by
  have he : ∀ (k : Core) (n : Word), (k.endCheck n).csrs.taskclk = k.csrs.taskclk := by
    intro k n; unfold Core.endCheck; split
    · split <;> rfl
    · rfl
  unfold Core.advance
  extract_lets nxt f k1
  have h1 : k1.csrs.taskclk = k.csrs.taskclk := by unfold k1; split <;> rfl
  clear_value k1
  split
  · split
    · exact h1
    · split
      · exact h1
      · exact (he _ _).trans h1
  · exact he _ _
theorem Core.endCheck_else {k : Core} {n : Word} (h : (k.inLoop && n == k.csrs.lend) = false) : k.endCheck n = { k with pc := n } := by
  unfold Core.endCheck; rw [h]; rfl
theorem Core.advance_noFrame {k : Core} {i : Instr} (h : k.inFrame = false) :
    k.advance i = k.endCheck (k.pc + w64 (4 * wordsIn i)) := by
  unfold Core.advance; extract_lets; rw [h]; rfl
/-- An instruction in sequence that no loop's end and no frame moves, as `Core.closed` ends it. -/
theorem Core.closed_seq (old new : Core) (i : Instr) (l : Nat) (hf : new.inFrame = false)
    (hn : new.inLoop = false ∨ new.pc + BitVec.ofNat 64 (4 * wordsIn i) ≠ new.csrs.lend) :
    (old.closed new i { flow := .seq, lat := l }).pc = new.pc + BitVec.ofNat 64 (4 * wordsIn i) ∧
    (old.closed new i { flow := .seq, lat := l }).csrs.lcnt = new.csrs.lcnt ∧
    (old.closed new i { flow := .seq, lat := l }).csrs.frm = new.csrs.frm ∧
    (old.closed new i { flow := .seq, lat := l }).frame = new.frame := by
  have hs : old.closed new i { flow := .seq, lat := l } = { (old.counted new i l).advance i with freeze := none } := rfl
  generalize hk : old.counted new i l = k1 at hs
  have h1 : k1.inLoop = new.inLoop ∧ k1.inFrame = new.inFrame ∧ k1.pc = new.pc ∧ k1.csrs.lend = new.csrs.lend ∧
      k1.csrs.lcnt = new.csrs.lcnt ∧ k1.csrs.frm = new.csrs.frm ∧ k1.frame = new.frame := by
    refine ⟨?_, ?_, ?_, ?_, ?_, ?_, ?_⟩ <;> rw [← hk] <;> unfold Core.counted <;> cases old.level <;> rfl
  obtain ⟨a, b, c, d, e, f, g⟩ := h1
  have hc : (k1.inLoop && (k1.pc + w64 (4 * wordsIn i) == k1.csrs.lend)) = false := by
    rcases hn with hn | hn
    · simp [a, hn]
    · rw [a, c, d]; simp [w64, hn]
  have ha : k1.advance i = { k1 with pc := new.pc + BitVec.ofNat 64 (4 * wordsIn i) } := by
    rw [Core.advance_noFrame (b.trans hf), Core.endCheck_else hc, c]; rfl
  simp only [hs, ha, e, f, g, and_self]
theorem Core.closed_seq_taskclk (old new : Core) (i : Instr) (l : Nat) (h : old.level = .supervisor) :
    (old.closed new i { flow := .seq, lat := l }).csrs.taskclk = new.csrs.taskclk := by
  refine (Core.advance_taskclk (old.counted new i l) i).trans ?_
  unfold Core.counted; rw [h]; rfl
@[simp] theorem Core.bare_freeze (k : Core) (f : Option Freeze) : ({ k with freeze := f } : Core).bare = k.bare := rfl
@[simp] theorem Core.bare_pc (k : Core) (pc : Word) (f : Option Freeze) : ({ k with pc := pc, freeze := f } : Core).bare = k.bare := rfl
@[simp] theorem Core.bare_closed (old new : Core) (i : Instr) (d : Done) : (old.closed new i d).bare = new.bare := by
  obtain ⟨fl, lat⟩ := d
  have h1 : (old.counted new i lat).bare = new.bare := by unfold Core.counted; split <;> rfl
  cases fl with
  | seq => exact (Core.bare_advance _ i).trans h1
  | taken t => exact ((Core.bare_tick _ 2).trans (Core.bare_transfer _ _)).trans h1
  | back => exact (Core.bare_tick _ 3).trans h1
  | _ => exact h1

/-- `State.clear` without a row and a pair: the core fetches for itself. -/
theorem State.clear_streams {s : State} {i : Instr} (h : s.clear i = true) : (s.core s.cur).streams = false := by
  obtain ⟨_, _, hf, hp, _⟩ := (s.clear_iff i).mp h
  simp [Core.streams, hf, hp]

/-- An instruction that nothing stands in the way of runs its effect, and its end follows. -/
theorem State.issueAt_clear {s : State} {i : Instr} (body : M Done) (h : s.clear i = true) :
    s.issueAt i body = match body (s.setCore s.cur (s.seen i)) with
      | .ok d s3 => s3.finish i ((s.core s.cur).interlock i) true d
      | .error (.freeze kind) s3 => (s3.modCore s.cur fun new => new.refund ((s.core s.cur).interlock i) (s.seen i)).frozen ((s.core s.cur).interlock i) kind
      | .error (.trap cause xval) s3 =>
        (s3.modCore s.cur fun new => ((s.seen i).rewind new).tick 1).trapAt i ((s.core s.cur).interlock i) cause xval
      | .error (.packet q xval) s3 =>
        (s3.modCore s.cur fun new => (((s.seen i).rewind new).dropPacket q).tick 1).trapAt i ((s.core s.cur).interlock i) 0x15 xval := by
  have hs := State.clear_streams h
  obtain ⟨hr, hw, hf, hp, ht, hb, hg⟩ := (s.clear_iff i).mp h
  have ha : (s.core s.cur).atStream = s.core s.cur := by simp [Core.atStream, hs]
  obtain ⟨im, il, ig, iv, ir, _⟩ := (s.core s.cur).interlock_fields i
  have hruns : (s.core s.cur).runs = true := by simp [Core.runs, hr, hw, hs]
  have hst : ((s.core s.cur).interlock i).streams = false := by rw [← hs]; simp [Core.streams, ig, iv]
  have hgf : ((s.core s.cur).interlock i).guardFor i = (true, false) := by
    rw [← hg]; simp only [Core.guardFor, hst, hs, ir, Bool.false_and]; rfl
  have hmt : ((s.core s.cur).interlock i).lateNow = false := Core.lateNow_of (by simpa using ht)
  have hn : ∀ t : State, t.cur = s.cur → t.core s.cur = (s.core s.cur).interlock i → t.needsCheck i true = false := by
    intro t hc ht'; simp [State.needsCheck, hc, ht', ig, hp]
  have hn' := hn (s.setCore s.cur ((s.core s.cur).interlock i)) rfl (State.core_setCore ..)
  unfold State.issueAt
  simp only [hruns, ha, hmt, Core.interlock_before, hb, hgf, hn', Bool.not_true,
    State.setCore_setCore, Bool.false_eq_true, ↓reduceIte]
  rfl

/-- The end of an instruction whose effect left the core in no pair, for every flow but the trap after the instruction. -/
theorem State.finish_clear {s t : State} {i : Instr} (d : Done) (h : s.clear i = true) (hc : t.cur = s.cur)
    (hp : (t.core s.cur).group.pair = .none) (hd : ∀ c v, d.flow ≠ .after c v) :
    t.finish i ((s.core s.cur).interlock i) true d = t.setCore s.cur (((s.core s.cur).interlock i).closed (t.core s.cur) i d) := by
  have hs := State.clear_streams h
  obtain ⟨_, _, hf, hp0, ht, _⟩ := (s.clear_iff i).mp h
  obtain ⟨im, il, ig, iv, ir, _⟩ := (s.core s.cur).interlock_fields i
  have hst : ((s.core s.cur).interlock i).streams = false := by rw [← hs]; simp [Core.streams, ig, iv]
  have hret : (t.core s.cur).retire i = t.core s.cur := by simp [Core.retire, hp]
  have hpass : ∀ u : State, u.passOn i ((s.core s.cur).interlock i) true = u := by
    intro u; simp [State.passOn, hst, ig, hf, hp0]
  have hrec : ∀ k : Core, k.recordAfter ((s.core s.cur).interlock i) = k := by
    intro k; unfold Core.recordAfter; rw [ig, hp0]; cases k.group.pair <;> rfl
  unfold State.finish
  have hl : (!((s.core s.cur).interlock i).awaited.isEmpty) = false := by simp [ht]
  simp only [hpass, hrec, hc, hl, Bool.and_false, Bool.false_eq_true, ite_self, ↓reduceIte]
  simp only [State.modCore_eq, State.setCore_setCore, State.core_setCore, hret, ite_self]
  obtain ⟨fl, lat⟩ := d
  cases fl with
  | after c v => exact absurd rfl (hd c v)
  | _ => rfl

/-- An instruction whose effect ends in sequence or in a transfer, in one equation. -/
theorem State.issueAt_ok {s t : State} {i : Instr} {body : M Done} {d : Done} (h : s.clear i = true)
    (hb : body (s.setCore s.cur (s.seen i)) = .ok d t) (hc : t.cur = s.cur) (hp : (t.core s.cur).group.pair = .none)
    (hd : ∀ c v, d.flow ≠ .after c v) :
    s.issueAt i body = t.setCore s.cur (((s.core s.cur).interlock i).closed (t.core s.cur) i d) := by
  rw [State.issueAt_clear body h, hb]; exact State.finish_clear d h hc hp hd

/-- An instruction whose effect goes on in sequence and leaves the state `t` with the core `k`. -/
theorem State.completesAs_of {s t : State} {i : Instr} {body : M Done} {k : Core} {l : Nat} (h : s.clear i = true)
    (he : exec i s = issue i body s) (hb : body (s.setCore s.cur (s.seen i)) = .ok { flow := .seq, lat := l } (t.setCore s.cur k))
    (hp : k.group.pair = .none) (hc : t.cur = s.cur) : s.CompletesAs i t k := by
  refine ⟨((s.core s.cur).interlock i).closed k i { flow := .seq, lat := l }, ?_, by simp,
    fun hl hf => Core.closed_seq _ _ _ _ hf (.inl hl),
    fun hu => Core.closed_seq_taskclk _ _ _ _ (((s.core s.cur).interlock_fields i).2.2.2.1.trans hu)⟩
  rw [he, issue, State.issueAt_ok h hb hc (by simpa using hp) (by simp)]
  simp
/-- An instruction whose effect goes on in sequence and touches only the core. -/
theorem State.completes_of {s : State} {i : Instr} {body : M Done} {k : Core} {l : Nat} (h : s.clear i = true)
    (he : exec i s = issue i body s)
    (hb : body (s.setCore s.cur (s.seen i)) = .ok { flow := .seq, lat := l } (s.setCore s.cur k)) (hp : k.group.pair = .none) :
    s.Completes i k := State.completesAs_of h he hb hp rfl

/-- The same for an instruction that ends elsewhere. -/
theorem State.ends_of {s : State} {i : Instr} {body : M Done} {k : Core} {d : Done} (h : s.clear i = true)
    (he : exec i s = issue i body s) (hb : body (s.setCore s.cur (s.seen i)) = .ok d (s.setCore s.cur k))
    (hp : k.group.pair = .none) (hd : ∀ c v, d.flow ≠ .after c v) :
    s.Ends i k (((s.core s.cur).interlock i).closed k i d).pc := by
  refine ⟨((s.core s.cur).interlock i).closed k i d, ?_, by simp, rfl⟩
  rw [he, issue, State.issueAt_ok h hb rfl (by simpa using hp) hd]
  simp

theorem State.seen_pair {s : State} {i : Instr} (h : s.clear i = true) : (s.seen i).group.pair = .none := by
  obtain ⟨_, _, _, hp, _⟩ := (s.clear_iff i).mp h
  rw [State.seen, Core.issued, (((s.core s.cur).interlock i).charge_fields i).2.2.2.2.2.2.2.2, ((s.core s.cur).interlock_fields i).2.2.1, hp]

/-! ## Instructions that trap -/

@[simp] theorem Core.bare_takeTrap_tick (k : Core) (n cause : Nat) (xval xpc : Word) :
    ((k.tick n).takeTrap cause xval xpc).bare = (k.takeTrap cause xval xpc).bare := by
  unfold Core.tick; cases h : k.level <;> simp [Core.takeTrap, Core.bare, h]

theorem State.seen_pc (s : State) (i : Instr) : (s.seen i).pc = (s.core s.cur).pc := by
  rw [State.seen, Core.issued, (((s.core s.cur).interlock i).charge_fields i).2.2.2.2.2.1, ((s.core s.cur).interlock_fields i).2.2.2.2.2.2]
theorem State.seen_level (s : State) (i : Instr) : (s.seen i).level = (s.core s.cur).level := by
  rw [State.seen, Core.issued, (((s.core s.cur).interlock i).charge_fields i).2.2.1, ((s.core s.cur).interlock_fields i).2.2.2.1]
theorem Core.charge_xvec (k : Core) (i : Instr) : (k.charge i).csrs.xvec = k.csrs.xvec := by
  unfold Core.charge; extract_lets; split <;> rfl
theorem Core.interlock_xvec (k : Core) (i : Instr) : (k.interlock i).csrs.xvec = k.csrs.xvec := by
  obtain ⟨n, h | h⟩ := k.interlock_eq i <;> rw [h]
  unfold Core.tick; cases k.level <;> rfl
theorem State.seen_xvec (s : State) (i : Instr) : (s.seen i).csrs.xvec = (s.core s.cur).csrs.xvec := by
  rw [State.seen, Core.issued, Core.charge_xvec, Core.interlock_xvec]

/-- An instruction whose effect stops with a trap that does not kill, having touched nothing that a stop keeps. -/
theorem State.traps_of {s : State} {i : Instr} {body : M Done} {k : Core} {cause : Nat} {xval : Word} (h : s.clear i = true)
    (he : exec i s = issue i body s) (hb : body (s.setCore s.cur (s.seen i)) = .error (.trap cause xval) (s.setCore s.cur k))
    (hk : (s.seen i).rewind k = s.seen i) (h1 : cause ≠ 0x0E) (h2 : cause ≠ 0x18) : s.Traps i cause xval := by
  intro hu
  have hs := State.clear_streams h
  obtain ⟨_, _, _, hp, _⟩ := (s.clear_iff i).mp h
  obtain ⟨im, il, ig, iv, ir, _⟩ := (s.core s.cur).interlock_fields i
  have hst : ((s.core s.cur).interlock i).streams = false := by rw [← hs]; simp [Core.streams, ig, iv]
  refine ⟨((s.seen i).tick 1).takeTrap cause xval (s.core s.cur).pc, ?_, Core.bare_takeTrap_tick .., ?_⟩
  · rw [he, issue, State.issueAt_clear body h, hb]
    have hc : ∀ t : State, t.chargePair i ((s.core s.cur).interlock i) = t := fun t => by simp [State.chargePair, ig, hp]
    simp only [State.modCore_eq, State.core_setCore, State.setCore_setCore, hk, State.trapAt, State.setCore_cur, hst, hc]
    have hp' : ((s.seen i).tick 1).group.pair = .none := State.seen_pair h
    have hl : ((s.seen i).tick 1).level = .user := (State.seen_level s i).trans hu
    have hpc : ((s.seen i).tick 1).pc = (s.core s.cur).pc := State.seen_pc s i
    simp [hp', State.enterTrap, hl, h1, h2, State.modCore_eq, hpc]
  · show ((s.seen i).tick 1).csrs.xvec = _
    rw [← State.seen_xvec s i]
    unfold Core.tick; cases (s.seen i).level <;> rfl

theorem Core.rewind_take {k0 k k1 : Core} {r : SReg} {x : Word × Bool} (h0 : k0.rewind k = k0) (h : k.take r = some (x, k1)) :
    k0.rewind k1 = k0 := by
  rw [← h0]
  unfold Core.take at h
  split at h
  · injection h with h; injection h with _ h; rw [← h]
    rfl
  · split at h
    · exact absurd h (by simp)
    · split at h
      · exact absurd h (by simp)
      · injection h with h; injection h with _ h; rw [← h]; rfl

/-! ## Instructions that transfer control -/

theorem word_ult (a b : Word) : a.ult b = decide (a.toNat < b.toNat) := rfl

/-- A taken transfer as `Core.closed` ends it. -/
theorem Core.closed_taken (old new : Core) (i : Instr) (t : Word) (l : Nat) (hl : new.level = old.level) :
    (old.closed new i { flow := .taken t, lat := l }).pc = t ∧
    (old.closed new i { flow := .taken t, lat := l }).csrs.frm = new.csrs.frm ∧
    (old.closed new i { flow := .taken t, lat := l }).csrs.lcnt =
      (if new.inLoop && !(decide (new.csrs.lbeg.toNat ≤ t.toNat) && decide (t.toNat < new.csrs.lend.toNat)) then 0 else new.csrs.lcnt) ∧
    (old.closed new i { flow := .taken t, lat := l }).csrs.taskclk =
      if new.level = .user then new.csrs.taskclk + 3 else new.csrs.taskclk := by
  have hs : old.closed new i { flow := .taken t, lat := l } = { ((old.counted new i l).transfer t).tick 2 with freeze := none } := rfl
  generalize hk : old.counted new i l = k1 at hs
  have h1 : k1.inLoop = new.inLoop ∧ k1.csrs.lbeg = new.csrs.lbeg ∧ k1.csrs.lend = new.csrs.lend ∧ k1.csrs.lcnt = new.csrs.lcnt ∧
      k1.csrs.frm = new.csrs.frm ∧ k1.level = new.level ∧
      k1.csrs.taskclk = if new.level = .user then new.csrs.taskclk + 1 else new.csrs.taskclk := by
    rw [hl]
    refine ⟨?_, ?_, ?_, ?_, ?_, hk ▸ hl, ?_⟩ <;> rw [← hk] <;> unfold Core.counted <;> cases old.level <;> rfl
  obtain ⟨a, b, c, d, e, f, g⟩ := h1
  have hcond : (k1.inLoop && (t.ult k1.csrs.lbeg || !t.ult k1.csrs.lend)) =
      (new.inLoop && !(decide (new.csrs.lbeg.toNat ≤ t.toNat) && decide (t.toNat < new.csrs.lend.toNat))) := by
    rw [a, b, c, word_ult, word_ult, Bool.not_and]
    congr 2
    by_cases ht : t.toNat < new.csrs.lbeg.toNat
    · simp [ht, Nat.not_le.mpr ht]
    · simp [ht, Nat.not_lt.mp ht]
  simp only [hs, Core.transfer, Core.tick, hcond]
  by_cases hu : new.level = .user
  · cases (new.inLoop && !(decide (new.csrs.lbeg.toNat ≤ t.toNat) && decide (t.toNat < new.csrs.lend.toNat))) <;>
      simp [d, e, f, g, hu, BitVec.add_assoc, w64]
  · cases (new.inLoop && !(decide (new.csrs.lbeg.toNat ≤ t.toNat) && decide (t.toNat < new.csrs.lend.toNat))) <;>
      simp [d, e, f, g, hu]

/-- An instruction whose effect ends in a taken transfer. -/
theorem State.jumps_of {s : State} {i : Instr} {body : M Done} {k : Core} {t : Word} {l : Nat} (he : exec i s = issue i body s)
    (hb : body (s.setCore s.cur (s.seen i)) = .ok { flow := .taken t, lat := l } (s.setCore s.cur k)) (hp : k.group = (s.seen i).group)
    (hv : k.level = (s.seen i).level) : s.Jumps i k t := by
  intro h
  have hp' : k.group.pair = .none := (congrArg Group.pair hp).trans (State.seen_pair h)
  have hl : k.level = ((s.core s.cur).interlock i).level := by
    rw [hv, State.seen, Core.issued, (((s.core s.cur).interlock i).charge_fields i).2.2.1]
  have hc := Core.closed_taken ((s.core s.cur).interlock i) k i t l hl
  refine ⟨((s.core s.cur).interlock i).closed k i { flow := .taken t, lat := l }, ?_, by simp, hc⟩
  rw [he, issue, State.issueAt_ok h hb rfl (by simpa using hp') (by simp)]
  simp

/-! ## Any instruction at a boundary -/

/-- The parts of `State.atBoundary`. -/
theorem State.atBoundary_parts {s : State} (h : s.atBoundary = true) : (s.core s.cur).run = .running ∧
    (s.core s.cur).wait = .none ∧ (s.core s.cur).group.fwd = .none ∧
    (s.core s.cur).group.pair = .none ∧ (s.core s.cur).awaited = [] := by
  simpa only [State.atBoundary, Bool.and_eq_true, beq_iff_eq, List.isEmpty_iff, and_assoc] using h

/-- An instruction at a boundary of a core in no row and no pair: its checks, then its charge, then its effect where its guard is 1. -/
theorem State.issueAt_atBoundary {s : State} (i : Instr) (body : M Done) (h : s.atBoundary = true) : s.issueAt i body =
    (let k := s.core s.cur
     let k1 := k.interlock i
     let s1 := s.setCore s.cur k1
     match k.before i with
    | .trap cause xval => s1.trapAt i k1 cause xval
    | .frame cause xval => (s1.modCore s.cur Core.closeFrame).trapAt i k1 cause xval
    | .packet q xval => (s1.modCore s.cur fun k => k.dropPacket q).trapAt i k1 0x15 xval
    | .go =>
      let on := (k.guardFor i).1
      let k2 := k1.charge i
      let s2 := s1.setCore s.cur k2
      if !on then s2.finish i k1 false next
      else match body s2 with
        | .ok d s3 => s3.finish i k1 true d
        | .error (.freeze kind) s3 => (s3.modCore s.cur fun new => new.refund k1 k2).frozen k1 kind
        | .error (.trap cause xval) s3 => (s3.modCore s.cur fun new => (k2.rewind new).tick 1).trapAt i k1 cause xval
        | .error (.packet q xval) s3 => (s3.modCore s.cur fun new => ((k2.rewind new).dropPacket q).tick 1).trapAt i k1 0x15 xval) := by
  obtain ⟨hr, hw, hf, hp, ht⟩ := State.atBoundary_parts h
  have hs : (s.core s.cur).streams = false := by simp [Core.streams, hf, hp]
  have ha : (s.core s.cur).atStream = s.core s.cur := by simp [Core.atStream, hs]
  obtain ⟨im, il, ig, iv, ir, _⟩ := (s.core s.cur).interlock_fields i
  have hruns : (s.core s.cur).runs = true := by simp [Core.runs, hr, hw, hs]
  have hst : ((s.core s.cur).interlock i).streams = false := by rw [← hs]; simp [Core.streams, ig, iv]
  have hgf : ((s.core s.cur).interlock i).guardFor i = (s.core s.cur).guardFor i := by
    simp only [Core.guardFor, hst, hs, ir, Bool.false_and]; rfl
  have hmt : ((s.core s.cur).interlock i).lateNow = false := Core.lateNow_of (by simpa using ht)
  have hn : ∀ b, (s.setCore s.cur ((s.core s.cur).interlock i)).needsCheck i b = false := by
    intro b; simp [State.needsCheck, ig, hp]
  unfold State.issueAt
  simp only [hruns, ha, hmt, Core.interlock_before, hgf, hn, Bool.not_true, Bool.false_eq_true, ↓reduceIte] <;> rfl

end Sys2Proof.Machine
end

