-- ==== Sys2Proof/Laws/Fields.lean ====
section
/-!
SUPPORT. The register operations of `M` on a core in no pair, as `Core.take` and `Core.give` say them.
-/
namespace Sys2Proof.Machine

/-! ## Running `M` -/

@[simp] theorem M.pure_run {α : Type} (a : α) (s : State) : (pure a : M α) s = .ok a s := rfl
@[simp] theorem M.bind_run {α β : Type} (m : M α) (f : α → M β) (s : State) :
    (m >>= f) s = match m s with | .ok a s' => f a s' | .error e s' => .error e s' := by
  show EStateM.bind m f s = _
  unfold EStateM.bind; cases m s <;> rfl
@[simp] theorem M.map_run {α β : Type} (m : M α) (f : α → β) (s : State) :
    (f <$> m) s = match m s with | .ok a s' => .ok (f a) s' | .error e s' => .error e s' := by
  show EStateM.map f m s = _
  unfold EStateM.map; cases m s <;> rfl
@[simp] theorem M.get_run (s : State) : (get : M State) s = .ok s s := rfl
@[simp] theorem M.set_run (t s : State) : (set t : M PUnit) s = .ok ⟨⟩ t := rfl
@[simp] theorem M.modify_run (f : State → State) (s : State) : (modify f : M PUnit) s = .ok ⟨⟩ (f s) := rfl
@[simp] theorem M.throw_run {α : Type} (e : Stop) (s : State) : (throw e : M α) s = .error e s := rfl
@[simp] theorem me_run (s : State) : me s = .ok s.cur s := rfl
@[simp] theorem getC_run (s : State) : getC s = .ok (s.core s.cur) s := rfl
@[simp] theorem modC_run (f : Core → Core) (s : State) : modC f s = .ok ⟨⟩ (s.modCore s.cur f) := rfl
@[simp] theorem trap_run {α : Type} (c : Nat) (v : Word) (s : State) : (trap c v : M α) s = .error (.trap c v) s := rfl
@[simp] theorem freeze_run {α : Type} (k : FreezeKind) (s : State) : (freeze k : M α) s = .error (.freeze k) s := rfl
@[simp] theorem require_true (c : Nat) (v : Word) (s : State) : require true c v s = .ok ⟨⟩ s := rfl
@[simp] theorem require_false (c : Nat) (v : Word) (s : State) : require false c v s = .error (.trap c v) s := rfl

/-! ## A core in no pair -/

@[simp] theorem follows_run (s : State) : follows s = .ok ((s.core s.cur).group.pair == .follower && (s.core s.cur).level == .user) s := rfl
@[simp] theorem leads_run (s : State) : leads s = .ok ((s.core s.cur).group.pair == .leader && (s.core s.cur).level == .user) s := rfl

/-- Outside a pair a shared read is the read itself. -/
theorem shared_alone {s t : State} {m : M (Nat × Nat)} {v : Nat × Nat} (hp : (s.core s.cur).group.pair = .none) (hm : m s = .ok v t)
    (ht : (t.core t.cur).group.pair = .none) : shared m s = .ok v t := by
  simp [shared, hp, hm, ht]
theorem sharedWord_alone {s t : State} {m : M (Word × Bool)} {v : Word × Bool} (hp : (s.core s.cur).group.pair = .none)
    (hm : m s = .ok v t) (ht : (t.core t.cur).group.pair = .none) : sharedWord m s = .ok v t := by
  have h := shared_alone (m := do let v ← m; return (v.1.toNat, v.2.toNat)) (v := (v.1.toNat, v.2.toNat)) hp (by simp [hm]) ht
  simp only [sharedWord, M.bind_run, h, M.pure_run, w64, BitVec.ofNat_toNat, BitVec.setWidth_eq]
  obtain ⟨x, b⟩ := v; cases b <;> rfl

/-- Outside a pair an outside effect is made. -/
theorem outside_alone {s : State} (m : M Unit) (hp : (s.core s.cur).group.pair = .none) : outside m s = m s := by
  simp [outside, hp]

/-! ## Source and destination fields -/

theorem Core.take_group {k k1 : Core} {r : SReg} {x : Word × Bool} (h : k.take r = some (x, k1)) : k1.group = k.group := by
  unfold Core.take at h
  split at h
  · injection h with h; injection h with _ h; rw [← h]
  · split at h
    · exact absurd h (by simp)
    · split at h
      · exact absurd h (by simp)
      · injection h with h; injection h with _ h; rw [← h]

/-- A source field read. -/
theorem rs_take {s : State} {k k1 : Core} {r : SReg} {x : Word × Bool} (hp : k.group.pair = .none) (h : k.take r = some (x, k1)) :
    rs r (s.setCore s.cur k) = .ok x (s.setCore s.cur k1) := by
  have hg := Core.take_group h
  unfold Core.take at h
  unfold rs
  by_cases hr : r.toNat < 60
  · simp only [hr, ↓reduceIte, Option.some.injEq, Prod.mk.injEq] at h
    obtain ⟨rfl, rfl⟩ := h
    simp [hr]
  · simp only [hr, ↓reduceIte] at h ⊢
    unfold popQueue
    refine sharedWord_alone (by simpa using hp) ?_ (by simp [hg, hp])
    cases hq : k.inq.toArray.getD (r.toNat - 60) [] with
    | nil => simp [hq] at h
    | cons w rest =>
      simp only [hq] at h
      split at h
      · exact absurd h (by simp)
      · rename_i hw
        have hw : w.rel = none := by simpa using hw
        simp only [Option.some.injEq, Prod.mk.injEq] at h
        obtain ⟨rfl, rfl⟩ := h
        have hl : (leads : M Bool) (s.setCore s.cur k) = .ok false (s.setCore s.cur k) := by simp [hp]
        simp only [M.bind_run, getC_run, State.setCore_cur, State.core_setCore, hq, hw, M.pure_run, hl, modC_run, State.modCore_eq,
          State.setCore_setCore, Bool.false_eq_true, ↓reduceIte]

/-- A destination field written. -/
theorem ws_give {s : State} {k k2 : Core} {r : SReg} {v : Word} {p : Bool} (hp : k.group.pair = .none)
    (h : k.give (s.owed r) r v p = some k2) : ws r v p (s.setCore s.cur k) = .ok ⟨⟩ (s.setCore s.cur k2) := by
  unfold Core.give at h
  unfold ws
  by_cases hr : r.toNat < 60
  · simp only [hr, ↓reduceIte, Option.some.injEq] at h
    simp [hr, ← h, State.modCore_eq]
  · have hu : ∀ q, (s.setCore s.cur k).undelivered s.cur q = s.undelivered s.cur q := fun _ => rfl
    simp only [hr, ↓reduceIte] at h ⊢
    cases p with
    | true => simp at h
    | false =>
      unfold pushQueue
      simp only [Bool.false_eq_true, ↓reduceIte] at h
      cases hq : k.outq.toArray.getD (r.toNat - 60) none with
      | none =>
        simp only [hq] at h
        by_cases hf : s.owed r ≥ 32
        · simp [hf] at h
        · simp only [hf, ↓reduceIte, Option.some.injEq] at h
          have hf' : ¬ s.undelivered s.cur (r.toNat - 60) ≥ 32 := hf
          simp only [M.bind_run, M.get_run, State.setCore_cur, State.core_setCore, hq, hu, hf', outside_alone, hp, modC_run,
            State.modCore_eq, State.setCore_setCore, beq_self_eq_true, Bool.true_or, Bool.false_eq_true, ↓reduceIte, ← h]
      | some o =>
        simp only [hq] at h
        split at h
        · exact absurd h (by simp)
        · rename_i h1
          split at h
          · exact absurd h (by simp)
          · rename_i h2
            simp only [Bool.or_eq_true, decide_eq_true_eq, not_or, Nat.not_le] at h2
            simp only [Option.some.injEq] at h
            have h2' : ¬ 32 ≤ s.undelivered s.cur (r.toNat - 60) + o.words.length := Nat.not_le.mpr h2.2
            have h2'' : ¬ 32 ≤ o.words.length := Nat.not_le.mpr h2.1
            simp only [M.bind_run, M.get_run, State.setCore_cur, State.core_setCore, hq, hu, h1, h2', h2'', outside_alone, hp,
              modC_run, State.modCore_eq, State.setCore_setCore, beq_self_eq_true, Bool.true_or, Bool.false_eq_true, ge_iff_le, ↓reduceIte, ← h]

theorem Core.give_group {k k2 : Core} {u : Nat} {r : SReg} {v : Word} {p : Bool} (h : k.give u r v p = some k2) :
    k2.group = k.group := by
  unfold Core.give at h
  simp only at h
  split at h
  · cases h; rfl
  · split at h
    · exact absurd h (by simp)
    · split at h
      · split at h
        · exact absurd h (by simp)
        · split at h
          · exact absurd h (by simp)
          · cases h; rfl
      · split at h
        · exact absurd h (by simp)
        · cases h; rfl

end Sys2Proof.Machine
end

