-- ==== Sys2Proof/Laws/Lines.lean ====
section
/-!
SUPPORT. What reading and putting an L2 line does outside the control pages and within them, and what a turn that makes every element
access adds to a vector instruction: nothing.
-/
namespace Sys2Proof.Machine

theorem State.mark_eq (s : State) (p n : Nat) : ∃ m, s.mark p n = { s with marks := m } := by
  unfold State.mark; split
  · exact ⟨s.marks, rfl⟩
  · exact ⟨_, rfl⟩
theorem State.unmark_eq (s : State) (p n : Nat) : ∃ m, s.unmark p n = { s with marks := m } := by
  unfold State.unmark
  exact ⟨_, rfl⟩

/-- A write at the home slice of a control page changes memory and marks alone. -/
theorem State.ctlPut_eq (s : State) (x : L2Line) : ∃ m k, s.ctlPut x = { s with mem := m, marks := k } := by
  have h : ∀ (l : List Nat) (f : State → Nat → State), (∀ st i, ∃ k, f st i = { st with marks := k }) →
      ∀ t : State, ∃ k, l.foldl f t = { t with marks := k } := by
    intro l f hf
    induction l with
    | nil => exact fun t => ⟨t.marks, rfl⟩
    | cons a l ih =>
      intro t
      obtain ⟨k, hk⟩ := hf t a
      obtain ⟨k', hk'⟩ := ih (f t a)
      exact ⟨k', by rw [List.foldl_cons, hk', hk]⟩
  unfold State.ctlPut
  refine (h _ _ ?_ _).elim fun k hk => ⟨_, k, hk⟩
  intro st i
  split
  · exact ⟨st.marks, rfl⟩
  · split
    · exact State.mark_eq ..
    · exact State.unmark_eq ..

theorem State.l2Get_cached {s : State} {part : Nat} {asid : BitVec 16} {line : Nat} (h : inControl (64 * line) = false) :
    s.l2Get part asid line = findFirst (fun l => l.part == part && l.asid == asid && l.line == line) s.l2 := by
  simp [State.l2Get, h]
theorem State.l2Get_control {s : State} {part : Nat} {asid : BitVec 16} {line : Nat} (h : inControl (64 * line) = true) :
    s.l2Get part asid line = some (s.ctlLine part asid line) := by
  simp [State.l2Get, h]
theorem State.l2Put_cached {s : State} {x : L2Line} (h : inControl (64 * x.line) = false) :
    s.l2Put x = { s with l2 := replaceFirst (fun l => l.part == x.part && l.asid == x.asid && l.line == x.line) x s.l2 } := by
  simp [State.l2Put, h]
theorem State.l2Put_control {s : State} {x : L2Line} (h : inControl (64 * x.line) = true) : s.l2Put x = s.ctlPut x := by
  simp [State.l2Put, h]
/-- Whatever the line, putting it changes no core, no L1 and no launch. -/
theorem State.l2Put_cores (s : State) (x : L2Line) : (s.l2Put x).cores = s.cores ∧ (s.l2Put x).l1 = s.l1 ∧ (s.l2Put x).launches = s.launches := by
  unfold State.l2Put; split
  · obtain ⟨m, k, h⟩ := s.ctlPut_eq x
    rw [h]; exact ⟨rfl, rfl, rfl⟩
  · exact ⟨rfl, rfl, rfl⟩

/-- A turn that makes every element access reads nothing ahead (R214). -/
theorem readPart_all (l : List Spot) (s : State) (h : (s.core s.cur).picks = none) : readPart l s = .ok () s := by
  show (getC >>= _ : M Unit) s = _
  simp only [getC, bind, EStateM.bind, get, getThe, MonadStateOf.get, EStateM.get, pure, EStateM.pure, h]
/-- An element that no earlier turn has read is read as one access. -/
theorem readSpot_fresh (x : Spot) (s : State) (h : (s.core s.cur).partway = none) :
    readSpot x s = (sharedRead (rawRead x.ea x.size) >>= fun v => (match x.scale with
      | some y => sharedRead (rawRead y 2) >>= fun c => pure (v, c)
      | none => pure (v, 0, false) : M ((Nat × Bool) × Nat × Bool))) s := by
  show (getC >>= _ : M _) s = _
  (simp only [getC, bind, EStateM.bind, get, getThe, MonadStateOf.get, EStateM.get, pure, EStateM.pure, h, Option.bind_none]) <;> rfl

end Sys2Proof.Machine
end

