-- ==== Sys2Proof/Laws/Noise.lean ====
section
/-!
SUPPORT. What the bytes of a channel are once its partition's key is gone for them (R382): free values in the channel, as before elsewhere.
-/
namespace Sys2Proof.Machine

/-- Bytes written one after another from an address on. -/
theorem readByte_fill (f : Nat → Byte) {m : Memory} (g n : Nat) (h : m.wf = true) :
    let t := (List.range n).foldl (fun m i => writeByte m (g + i) (f (g + i))) m
    Memory.wf t = true ∧ ∀ a, readByte t a = if g ≤ a ∧ a < g + n then f a else readByte m a := by
  induction n with
  | zero => exact ⟨h, fun a => by rw [if_neg (by omega)]; rfl⟩
  | succ n ih =>
    simp only [List.range_succ, List.foldl_append, List.foldl_cons, List.foldl_nil]
    refine ⟨writeByte_wf _ _ ih.1, fun a => ?_⟩
    by_cases e : a = g + n
    · subst e; rw [readByte_writeByte_self _ _ ih.1, if_pos (by omega)]
    · rw [readByte_writeByte_of_ne _ _ e, ih.2]
      congr 1; exact propext (by omega)

/-- A granule turned to noise: its bytes are free values, every other byte is as before, and nothing but memory changes. -/
theorem State.toNoise_spec (s : State) (g : Nat) (h : Memory.wf s.mem = true) :
    ∃ m, s.toNoise g = { s with mem := m } ∧ Memory.wf m = true ∧
      ∀ a, readByte m a = if g ≤ a ∧ a < g + 2 ^ 21 then Config.noise s.stepNo a else readByte s.mem a := by
  unfold State.toNoise
  generalize 2 ^ 21 = size
  exact ⟨_, rfl, readByte_fill (Config.noise s.stepNo) g size h⟩

/-- The first of a row of granules turned to noise. -/
theorem State.noise_first (s : State) (b size k : Nat) (h : Memory.wf s.mem = true)
    (one : ∀ (u : State) (g : Nat), Memory.wf u.mem = true → ∃ m, u.toNoise g = { u with mem := m } ∧ Memory.wf m = true ∧
      ∀ a, readByte m a = if g ≤ a ∧ a < g + size then Config.noise u.stepNo a else readByte u.mem a) :
    ∃ m, (List.range k).foldl (fun st g => st.toNoise ((b + g) * size)) s = { s with mem := m } ∧ Memory.wf m = true ∧
      ∀ a, readByte m a = if b * size ≤ a ∧ a < (b + k) * size then Config.noise s.stepNo a else readByte s.mem a := by
  induction k with
  | zero => exact ⟨s.mem, rfl, h, fun a => by rw [if_neg (by rw [Nat.add_zero]; omega)]⟩
  | succ k ih =>
    obtain ⟨m, e, w, r⟩ := ih
    obtain ⟨m', e', w', r'⟩ := one { s with mem := m } ((b + k) * size) w
    refine ⟨m', ?_, w', fun a => ?_⟩
    · rw [List.range_succ, List.foldl_append, e, List.foldl_cons, List.foldl_nil, e']
    · have top : (b + (k + 1)) * size = (b + k) * size + size := by rw [← Nat.add_assoc, Nat.succ_mul]
      have low : b * size ≤ (b + k) * size := Nat.mul_le_mul_right _ (Nat.le_add_right b k)
      rw [r' a, top]
      by_cases c : (b + k) * size ≤ a ∧ a < (b + k) * size + size
      · rw [if_pos c, if_pos (by omega)]
      · rw [if_neg c]
        refine (r a).trans ?_
        congr 1
        exact propext (by omega)

/-- A channel that has left its partition (R382): its 2 GiB read as noise, every other byte as before, and nothing but memory changes. -/
theorem State.channelNoise_spec (s : State) (n : Nat) (h : Memory.wf s.mem = true) :
    ∃ m, s.channelNoise n = { s with mem := m } ∧ Memory.wf m = true ∧
      ∀ a, readByte m a = if n * 2 ^ 31 ≤ a ∧ a < (n + 1) * 2 ^ 31 then Config.noise s.stepNo a else readByte s.mem a := by
  have e (n : Nat) : 1024 * n * 2 ^ 21 = n * 2 ^ 31 := by omega
  have x := s.noise_first (1024 * n) _ 1024 h State.toNoise_spec
  rwa [← Nat.mul_succ, e, e] at x

end Sys2Proof.Machine
end

