-- ==== Sys2Proof/Laws/Shapes.lean ====
section
/-!
SUPPORT. What each shape of a scalar instruction does, once for all instructions of the shape.
-/
namespace Sys2Proof.Machine

theorem Core.take2_some {k k2 : Core} {a b : SReg} {x y : Word × Bool} (h : k.take2 a b = some (x, y, k2)) :
    ∃ k1, k.take a = some (x, k1) ∧ k1.take b = some (y, k2) := by
  unfold Core.take2 at h
  split at h
  · rename_i k1 h1
    split at h
    · rename_i h2
      simp only [Option.some.injEq, Prod.mk.injEq] at h
      obtain ⟨rfl, rfl, rfl⟩ := h
      exact ⟨k1, h1, h2⟩
    · exact absurd h (by simp)
  · exact absurd h (by simp)

/-- One source, one destination. -/
theorem alu2_writes {s : State} {i : Instr} {d a : SReg} {f : Word → Word} (he : exec i s = issue i (alu2 d a f) s) :
    s.Writes1 i d a f := by
  intro h x k hx k' hk
  have hp := State.seen_pair h
  have hp1 := (congrArg Group.pair (Core.take_group hx)).trans hp
  refine State.completes_of (l := 1) h he ?_ ((congrArg Group.pair (Core.give_group hk)).trans hp1)
  simp only [alu2, M.bind_run, rs_take hp hx, ws_give hp1 hk, M.pure_run, next]

/-- Two sources, one destination. -/
theorem alu3_writes {s : State} {i : Instr} {d a b : SReg} {f : Word → Word → Word} (he : exec i s = issue i (alu3 d a b f) s) :
    s.Writes2 i d a b f := by
  intro h x y k hx k' hk
  obtain ⟨k1, h1, h2⟩ := Core.take2_some hx
  have hp := State.seen_pair h
  have hp1 := (congrArg Group.pair (Core.take_group h1)).trans hp
  have hp2 := (congrArg Group.pair (Core.take_group h2)).trans hp1
  refine State.completes_of (l := 1) h he ?_ ((congrArg Group.pair (Core.give_group hk)).trans hp2)
  simp only [alu3, M.bind_run, rs_take hp h1, rs_take hp1 h2, ws_give hp2 hk, M.pure_run, next]

/-- A compare of two registers. -/
theorem compare_sets {s : State} {i : Instr} {c g : BitVec 3} {a b : SReg} (he : exec i s = issue i (compare c g a (rs b)) s)
    (h : s.clear i = true) {x y : Word × Bool} {k : Core} (hx : (s.seen i).take2 a b = some (x, y, k)) :
    s.Sets i g k (condInt c x.1 y.1) (x.2 || y.2) := by
  obtain ⟨k1, h1, h2⟩ := Core.take2_some hx
  have hp := State.seen_pair h
  have hp1 := (congrArg Group.pair (Core.take_group h1)).trans hp
  have hp2 := (congrArg Group.pair (Core.take_group h2)).trans hp1
  refine State.completes_of (l := 1) h he ?_ hp2
  simp [compare, wg, rs_take hp h1, rs_take hp1 h2, next, State.modCore_eq]

/-- A compare of a register with an immediate. -/
theorem compare_imm_sets {s : State} {i : Instr} {c g : BitVec 3} {a : SReg} {v : Word}
    (he : exec i s = issue i (compare c g a (imm v)) s) (h : s.clear i = true) {x : Word × Bool} {k : Core}
    (hx : (s.seen i).take a = some (x, k)) : s.Sets i g k (condInt c x.1 v) x.2 := by
  have hp := State.seen_pair h
  have hp1 := (congrArg Group.pair (Core.take_group hx)).trans hp
  refine State.completes_of (l := 1) h he ?_ hp1
  simp [compare, imm, wg, rs_take hp hx, next, State.modCore_eq]

end Sys2Proof.Machine
end

