-- ==== Sys2Proof/Tests/Slice0.lean ====
section
/-!
SUPPORT. The model's own tests. Every expected value is taken from the words, tables and examples of the spec or worked out by hand from
its rules; each comment says where from. The witness theorems show, for every statement of the certificates that has hypotheses, a state
and operands that meet them.
-/
namespace Sys2Proof.Tests
open Sys2Proof.Machine

set_option Elab.async false

/-! ## Ill-formed instructions: one for each check of `Instr.wf` (R62, R66-R72, R107) -/

/-- Reserved guard and selector fields. -/
theorem test_wf_guards : (
  [.cmp 0 0 0 1 2, .cmpi 0 0 0 1 5, .cmpk 0 0 0 1 false 5, .sel 0 1 2 3 0, .gop 0 0 1 2 0, .vcmp 0 0 1 2 8 0, .vsel 0 1 2 3 8 0,
   .vmsk 0 0 1 2 0] : List Instr).all (fun i => !i.wf) = true := by decide
/-- Reserved immediates: a shift of 32 or more in a `.w` form, selector 3 of `lit`, a scaled raw tag, an empty loop body. -/
theorem test_wf_immediates : (
  [.shli 0 1 2 true 32, .shri 0 1 2 true 63, .srai 0 1 2 true 40, .lit 0 1 3 7, .ptag 0 1 2 11 1, .loop 0 1 0,
   .vshp 0 4 5, .vshp 0 8 1] : List Instr).all (fun i => !i.wf) = true := by decide
/-- Numbers that name no control register. -/
theorem test_wf_control_registers : (
  [.csrr 0 1 0x00C, .csrw 0 1 0x10A, .csrx 0 1 2 0x3FF, .csrr 0 1 0x014] : List Instr).all (fun i => !i.wf) = true := by decide
/-- Reserved offsets, sizes and scopes of accesses. -/
theorem test_wf_accesses : (
  [.ld 0 1 2 0x80 3, .ldz 0 1 2 0x80 0, .ldz 0 1 2 0 3, .ldzTag 0 1 2 3, .lda 0 1 2 5 0, .stl 0 1 2 7 0, .fenceAcq 0 5, .fenceRel 0 6,
   .fenceFull 0 7, .sendRel 0 1 2 3 0, .sendRel 0 1 2 3 6] : List Instr).all (fun i => !i.wf) = true := by decide
/-- Returning atomics with no destination. -/
theorem test_wf_atomics : (
  [.aadd 0 0 1 2 true, .aand 0 0 1 2 true, .aor 0 0 1 2 true, .axor 0 0 1 2 true, .amin 0 0 1 2 false true, .amax 0 0 1 2 true true,
   .fadda 0 0 1 2, .famax 0 0 1 2, .famin 0 0 1 2] : List Instr).all (fun i => !i.wf) = true := by decide
/-- Types and functions that a vector form lacks. -/
theorem test_wf_vector_types : (
  [.rng 0 1 6, .rngJump 0 9, .vadd 0 1 2 3 11, .vsub 0 1 2 3 15, .vmul 0 1 2 3 8 true, .vfma 0 1 2 3 8 3, .vfma 0 1 2 3 7 0,
   .vmin 0 1 2 3 11, .vmax 0 1 2 3 12, .vdiv 0 1 2 3 6, .vsqr 0 1 2 7, .vsfn 0 1 2 9 0, .vsfn 0 1 2 8 9, .vcvt 0 1 2 11 8,
   .vcvt 0 1 2 8 11] : List Instr).all (fun i => !i.wf) = true := by decide
/-- Conditions, axes and operations that a vector form lacks, and a prefix that may not stand. -/
theorem test_wf_vector_functions : (
  [.vcmp 0 1 2 3 8 6, .vcmp 0 1 2 3 11 0, .vred 0 1 2 8 3 0, .vred 0 1 2 6 0 6, .vred 0 1 2 8 0 3, .vint 0 1 2 3 8 0, .vint 0 1 2 3 6 9,
   .vint 0 1 2 3 6 7, .vmsk 0 1 2 3 6, .vmsk 0 1 2 3 4, .vmsk 0 1 2 0 5, .vectorPrefix 0 true 0 0 0, .vectorPrefix 1 false 6 0 0]
  : List Instr).all (fun i => !i.wf) = true := by decide

/-! ## Words that the spec writes out, family by family -/

/-- A word decodes to an instruction, and is the one word of it. -/
def one (w : Word32) (i : Instr) : Bool := decodeWords [w, 0] == some (i, [0]) && encode i == [w]
/-- Two words decode to an instruction, and are its words. -/
def two (w x : Word32) (i : Instr) : Bool := decodeWords [w, x] == some (i, []) && encode i == [w, x]

/-- "The words", chapters 1, 2, 4, 9, 15 and 21: integer, pointer, literal and control instructions. -/
theorem test_decode_scalar :
  (one 0x2C061BFF (.addi 0 6 6 0x3FF) && one 0x3A121C00 (.cmpi 0 2 2 7 0) && one 0x3A1B1C00 (.cmpi 0 3 3 7 0) &&
   one 0x200930A0 (.cmp 0 1 1 12 10) && one 0x08030421 (.div 0 3 1 2 1) && one 0x48020C4C (.ptag 0 2 3 9 4) &&
   one 0x48050840 (.ptag 0 5 2 8 0) && one 0x2A010831 (.gop 0 1 2 3 1) && two 0x3E0B0002 0x01FFFFF0 (.lit 0 11 2 0x01FFFFF0) &&
   two 0x3E0E0001 0x00200E10 (.lit 0 14 1 0x00200E10) && two 0x402DA800 0x00000840 (.addk 0 45 42 false 0x840) &&
   two 0x42090400 0x0001E0C0 (.cmpk 0 1 1 1 false 123072)) = true := by decide +kernel
theorem test_decode_control :
  (one 0x4A7FFFF4 (.br 1 0x3FFFF4) && one 0x50001803 (.loop 0 6 3) && one 0x52041110 (.rpt 0 4 1 1 1 0) && one 0x56000005 (.trap 0 5) &&
   one 0x54000000 (.halt 0) && one 0x54400000 (.halt 1) && one 0x58000000 (.eret 0) && one 0x60000000 (.step 0) &&
   one 0x5A010006 (.csrr 0 1 6)) = true := by decide +kernel
/-- Chapters 1, 3, 5 and 18: loads, stores, acquires, releases, atomics and reductions. -/
theorem test_decode_memory :
  (one 0x6C03EC07 (.ld 0 3 59 1 3) && one 0x6C071002 (.ld 0 7 4 0 2) && one 0x6C092203 (.ldTag 0 9 8 3) && one 0x700713FD (.st 0 7 4 0xFF 1) &&
   one 0x72051982 (.lda 0 5 6 3 2) && one 0x74051982 (.stl 0 5 6 3 2) && one 0x742BB603 (.stl 0 43 45 4 3) && one 0x722EBE03 (.lda 0 46 47 4 3) &&
   one 0x84040C53 (.acas 0 4 3 5 true) && one 0x80CA2072 (.amax 3 10 8 7 false false) && one 0x7E8A207A (.amin 2 10 8 7 true false) &&
   one 0x76000C53 (.radd 0 3 5 true) && one 0x86000C72 (.rfadd 0 3 7) && one 0x88000C72 (.rfmax 0 3 7)) = true := by decide +kernel
/-- Chapters 6 and 8: fences, range operations, barriers, messages. -/
theorem test_decode_sync :
  (one 0x8C00000D (.fenceAcq 0 3) && one 0x8C000012 (.fenceRel 0 4) && one 0x8C00000B (.fenceFull 0 2) && one 0x8C000001 (.fenceAcq 0 0) &&
   one 0x8E000890 (.wb 0 2 9) && one 0x90800890 (.inv 2 2 9) && one 0x92000890 (.dsc 0 2 9) && one 0x94032000 (.bar 0 3 8) &&
   one 0x96021C00 (.bexp 0 2 7) && one 0x98015151 (.sendE 0 1 20 21) && one 0x98005159 (.sendRel 0 0 20 21 4) && one 0x9A005000 (.wake 0 20) &&
   one 0x9C000000 (.slp 0)) = true := by decide +kernel
/-- Chapters 9, 12, 13, 14 and 16: the engines' commands and queries. -/
theorem test_decode_engines :
  (one 0xA2040000 (.mma 0 4) && two 0xA2040008 0x0000012C (.mmaClk 0 4 300) && one 0xA4060000 (.mmsp 0 6) && one 0xA6041401 (.mmld 0 4 5 true) &&
   one 0xA6071432 (.mmldV 0 7 5 3 false) && one 0xA8041400 (.mmst 0 4 5 false) && one 0xA8071433 (.mmstV 0 7 5 3 true) &&
   one 0x9E060001 (.cpy 0 6 0 false 1) && two 0x9E04140E 0x0000006E (.cpyClk 0 4 5 true 2 110) && one 0xA0080000 (.cpyqWm 0 8 0) &&
   one 0xA0070007 (.cpyqOut 0 7 3) && one 0xA0090009 (.cpyqSt 0 9 1) && one 0xAA041400 (.tload 0 4 5) && one 0xAC110000 (.teval 0 17) &&
   two 0xAC110008 0x00000190 (.tevalClk 0 17 400) && one 0xAE120000 (.tlv 0 18) && one 0xB0082800 (.coll 0 8 10) &&
   two 0xB0082808 0x000001F4 (.collClk 0 8 10 500) && one 0xB2152800 (.collqSt 0 21 10) && one 0xB2142801 (.collqDone 0 20 10)) = true := by
  decide +kernel
/-- Chapters 3, 9 and 11: vector instructions and the prefix of R17's example. -/
theorem test_decode_vector :
  (one 0xB6000014 (.vshp 0 1 4) && one 0xB6000012 (.vshp 0 1 2) && one 0xB8005000 (.vld 0 0 5 0) && one 0xBA0C3000 (.vst 0 3 3 0) &&
   one 0xD804020A (.vred 0 1 0 8 1 2) && one 0xD01D8200 (.vsfn 0 7 6 8 0) && one 0xDC104201 (.vmovBc 0 4 4 8) &&
   one 0xD40C5205 (.vcmp 0 3 1 4 8 5) && one 0xD4105602 (.vcmp 0 4 1 5 8 2) && one 0xE008D000 (.vmsk 0 2 3 4 0) &&
   one 0xC6048E00 (.vfma 0 1 2 3 8 0) && two 0xFCE50000 0xC6048E00 (.vectorPrefix 3 true 1 4 0xC6048E00) &&
   two 0xFC800000 0xD80C4208 (.vectorPrefix 2 false 0 0 0xD80C4208) && prefixed 0xD80C4208 == some (.vred 0 3 1 8 1 0)) = true := by
  decide +kernel
/-- R114: `nop` is the word of zeros; R52, R77: a reserved operation and a reserved field are no instruction. -/
theorem test_decode_refuses : (one 0 .nop && (decodeWords [0x00000001]).isNone && (decodeWords [0xFE000000]).isNone && (decodeWords []).isNone &&
   (decodeWords [0x50001800]).isNone && (decodeWords [0x3E0B0002]).isNone) = true := by decide +kernel

/-! ## Small states -/

/-- The machine after reset with the word of `nop` where its next step fetches. -/
def base : State := State.reset.withFetchWord 32 0
/-- The address, in core 0's tarn window, of the first byte of its home tarn, which is the place 2^48 (R10, R11). -/
def tarn : Nat := 0xFFF * 2 ^ 45 + 0x1FF * 2 ^ 36
/-- A state with words in general registers of the core that moves. -/
def withRegs (s : State) (l : List (Nat × Nat)) : State :=
  s.modCore s.cur fun k => { k with regs := l.foldl (fun r e => r.setScalar e.1 (BitVec.ofNat 64 e.2) false) k.regs }
/-- A state with doublewords in core 0's home tarn. -/
def withTarn (s : State) (l : List (Nat × Nat)) : State := { s with mem := l.foldl (fun m e => writeNat m (2 ^ 48 + e.1) 8 e.2) s.mem }
/-- A changed core that moves. -/
def withCore (s : State) (f : Core → Core) : State := s.modCore s.cur f
/-- The state that an instruction leaves. -/
def after (i : Instr) (s : State) : Option State :=
  match exec i s with
  | .next t => some t
  | _ => none
/-- What an instruction leaves in a general register of the core that moves. -/
def result (s : State) (i : Instr) (d : Nat) : Option Word := (after i s).map fun t => (t.core s.cur).regs.scalar d
/-- What an instruction leaves of the core that moves. -/
def coreAfter (s : State) (i : Instr) : Option Core := (after i s).map fun t => t.core s.cur
/-- A trap's cause and `XVAL`, at supervisor level. -/
def trapped (s : State) (i : Instr) : Option (Nat × Word) :=
  match coreAfter s i with
  | some k => if k.level == .supervisor then some (k.csrs.xcause.toNat, k.csrs.xval) else none
  | none => none

/-! ## Hypotheses met -/

/-- An instruction is clear to go and its one source reads so that a test holds. -/
def meets1 (s : State) (i : Instr) (a : SReg) (f : Word × Bool → Core → Bool) : Bool :=
  s.clear i && ((s.seen i).take a).any fun e => f e.1 e.2
/-- The same for two sources. -/
def meets2 (s : State) (i : Instr) (a b : SReg) (f : Word × Bool → Word × Bool → Core → Bool) : Bool :=
  s.clear i && ((s.seen i).take2 a b).any fun e => f e.1 e.2.1 e.2.2
/-- The destination takes a word. -/
def takes (s : State) (d : SReg) (k : Core) (p : Bool) : Bool := (k.give (s.owed d) d 0 p).isSome
/-- The hypotheses of `Writes1` and `Writes2`. -/
def writes1 (s : State) (i : Instr) (d a : SReg) : Bool := meets1 s i a fun x k => takes s d k x.2
def writes2 (s : State) (i : Instr) (d a b : SReg) : Bool := meets2 s i a b fun x y k => takes s d k (x.2 || y.2)

/-- Core 0 with words in s1 to s4, a word in its inbound queue 2, and guards 1 and 2. -/
def s1 : State :=
  withCore (withRegs base [(1, 0x8000000000000000), (2, 2 ^ 64 - 3), (3, 7), (4, 0)]) fun k =>
    { k with
      inq := k.inq.setIfInBounds 2 [{ word := 9, poison := false, err := false, rel := none }]
      regs := (k.regs.setGuard 1 true false).setGuard 2 false false }

/-! ## Lines and commands -/

/-- A line of core 0's L1, whole, with dirty bytes. -/
def l1Line (line dirty : Nat) : L1Line :=
  { asid := 0, line := line, valid := BitVec.allOnes 64, dirty := BitVec.ofNat 64 dirty, data := 0x8877665544332211, marks := 0, sets := 0,
    clears := 0, cls := none, recorded := false, rels := [], err := none, updateOnly := false, parts := [], sup := 0, overtaken := 0, fenced := 0 }
def l2Line (line data : Nat) : L2Line :=
  { part := 0, asid := 0, line := line, data := BitVec.ofNat 512 data, dirty := 0, marks := 0, cls := 1, err := none }
/-- Core 0 with a copy of eight bytes from its tarn at 0x10000 to 0x20000. -/
def copyDesc : CopyDesc :=
  { src := BitVec.ofNat 64 (tarn + 0x10000), dst := BitVec.ofNat 64 (tarn + 0x20000), sstr := 0, dstr := 0, len := 8, rows := 1, ring := none,
    rm := 0, up := false }
def copyCmd (s : State) (start : Option Word) (started : Bool) (progress : Nat) : Cmd :=
  { s.command (s.core 0) start none (.copy copyDesc) with started := started, progress := progress }

/-! ## Integer instructions -/

/-- R86, R88: the most negative number less 3 wraps; a `.w` sum wraps at 32 bits and is sign-extended; `muli` by −2. -/
theorem test_sums : (result s1 (.add 0 5 1 2 false) 5 == some 0x7FFFFFFFFFFFFFFD && result s1 (.sub 0 5 3 2 false) 5 == some 10 &&
    result (withRegs s1 [(6, 0x7FFFFFFF)]) (.addi 0 5 6 1) 5 == some 0x80000000 &&
    result (withRegs s1 [(6, 0x7FFFFFFF), (7, 1)]) (.add 0 5 6 7 true) 5 == some 0xFFFFFFFF80000000 &&
    result s1 (.muli 0 5 2 0x3FE) 5 == some 6 && result s1 (.mul 0 5 1 3 3) 5 == some 3 &&
    result s1 (.mul 0 5 2 3 2) 5 == some 0xFFFFFFFFFFFFFFFF) = true := by decide +kernel
/-- R87 and its table: −3 / 7 and −3 rem 7; division by zero; −2^63 by −1; 0xFFFF_FFFE by 1 with `.n.w`. -/
theorem test_quotients : (result s1 (.div 0 5 2 3 0) 5 == some 0 && result s1 (.rem 0 5 2 3 0) 5 == some 0xFFFFFFFFFFFFFFFD &&
    result s1 (.div 0 5 3 4 1) 5 == some 0xFFFFFFFFFFFFFFFF && result s1 (.rem 0 5 3 4 1) 5 == some 7 &&
    result (withRegs s1 [(6, 2 ^ 64 - 1)]) (.div 0 5 1 6 0) 5 == some 0x8000000000000000 &&
    result (withRegs s1 [(6, 0xFFFFFFFE), (7, 1)]) (.div 0 5 6 7 3) 5 == some 0xFFFFFFFFFFFFFFFE) = true := by decide +kernel
/-- R86: a shift by 65 is one by 1; R89's example: bits [11:4] of 0xF3A0, and [15:8] with and without sign. -/
theorem test_shifts_and_fields : (result (withRegs s1 [(6, 65)]) (.shl 0 5 3 6 false) 5 == some 14 &&
    result (withRegs s1 [(6, 33)]) (.sra 0 5 2 6 true) 5 == some 0xFFFFFFFFFFFFFFFE &&
    result (withRegs s1 [(6, 0xF3A0), (7, 0x204)]) (.bfx 0 5 6 7 false) 5 == some 0x3A &&
    result (withRegs s1 [(6, 0xF3A0), (7, 0x208)]) (.bfx 0 5 6 7 false) 5 == some 0xFFFFFFFFFFFFFFF3 &&
    result (withRegs s1 [(6, 0xF3A0), (7, 0x208)]) (.bfx 0 5 6 7 true) 5 == some 0xF3) = true := by decide +kernel
/-- R92: `lit s1, 0x8000_0000` and `lit.n`; R95's example: three blocks of 18 bytes, and a count that is no whole number of blocks. -/
theorem test_literals_and_pointers : (result s1 (.lit 0 5 0 0x80000000) 5 == some 0xFFFFFFFF80000000 &&
    result s1 (.lit 0 5 1 0x80000000) 5 == some 0x0000000080000000 &&
    result (withRegs s1 [(3, 0x100000)]) (.ptag 0 2 3 12 1) 2 == some 0xC200000000100000 &&
    result (withRegs s1 [(2, 0xC200000000100000)]) (.paddi 0 2 2 48) 2 == some 0xC200000000100036 &&
    trapped (withRegs s1 [(2, 0xC200000000100000)]) (.paddi 0 2 2 40) == some (3, 40)) = true := by decide +kernel

theorem witness_SumsProductsAndQuotients : (((
    [(.add 0 5 1 2 false, 5), (.add 1 62 1 2 true, 62), (.sub 0 5 1 62 false, 5), (.sub 0 0 62 2 true, 0), (.mul 0 5 1 2 0, 5), (.mul 0 5 1 2 1, 5),
     (.mul 0 5 1 2 2, 5), (.mul 0 63 1 2 3, 63), (.div 0 5 1 4 0, 5), (.div 0 5 1 2 1, 5), (.div 0 5 1 4 2, 5), (.div 0 5 1 2 3, 5),
     (.rem 0 5 1 4 0, 5), (.rem 0 5 1 2 1, 5), (.rem 0 5 1 2 2, 5), (.rem 0 5 1 4 3, 5)] : List (Instr × SReg)).all fun e =>
      match e.1 with
      | .add _ _ a b _ | .sub _ _ a b _ | .mul _ _ a b _ | .div _ _ a b _ | .rem _ _ a b _ => writes2 s1 e.1 e.2 a b
      | _ => false) && writes1 s1 (.addi 0 61 62 0x3FF) 61 62 && writes1 s1 (.muli 0 5 1 0x200) 5 1 &&
      writes1 s1 (.addk 0 5 1 false 0x80000000) 5 1 && writes1 s1 (.addk 0 5 1 true 0xFFFFFFFF) 5 1) = true := by decide +kernel

/-- Two sources, the destination s5. -/
def pair (f : SReg → SReg → SReg → Instr) : Bool := writes2 s1 (f 5 1 2) 5 1 2 && writes2 s1 (f 63 62 3) 63 62 3
theorem witness_ShiftsExtremesAndBits : ([
    (fun d a b => .shl 0 d a b false), (fun d a b => .shl 0 d a b true), (fun d a b => .shr 0 d a b false), (fun d a b => .shr 0 d a b true),
    (fun d a b => .sra 0 d a b false), (fun d a b => .sra 0 d a b true), (fun d a b => .rot 0 d a b false), (fun d a b => .rot 0 d a b true),
    (fun d a b => .min 0 d a b false), (fun d a b => .min 0 d a b true), (fun d a b => .max 0 d a b false), (fun d a b => .max 0 d a b true),
    (fun d a b => .and 0 d a b), (fun d a b => .or 0 d a b), (fun d a b => .xor 0 d a b), (fun d a b => .andn 0 d a b),
    (fun d a b => .bfx 0 d a b false), (fun d a b => .bfx 0 d a b true)].all pair &&
    [Instr.shli 0 5 1 false 63, .shri 0 5 1 false 63, .srai 0 5 1 false 63, .shli 0 5 1 true 31, .shri 0 5 1 true 31, .srai 0 5 1 true 0,
     .andi 0 5 1 0x200, .ori 0 5 1 0x1FF, .xori 0 5 1 0x3FF].all fun i => writes1 s1 i 5 1) = true := by decide +kernel
/-- The words that R88 and R89 describe, for `bfi` of 7 into [11:4] of −3 and for the counts of 7 and of 0. -/
theorem witness_bit_fields :
    (meets1 (withRegs s1 [(6, 0x204)]) (.bfi 0 2 3 6) 2 fun z k1 => (k1.take2 3 6).any fun e =>
      let v : Word := 0xFFFFFFFFFFFFF07D
      takes s1 2 e.2.2 false && (List.range 64).all fun j => v.getLsbD j == if 4 ≤ j ∧ j < 12 then e.1.1.getLsbD (j - 4) else z.1.getLsbD j) = true ∧
    (meets1 s1 (.bcnt 0 5 3 0) 3 fun x _ => decide (2 ^ (63 - 61) ≤ x.1.toNat ∧ x.1.toNat < 2 ^ (64 - 61))) = true ∧
    (meets1 s1 (.bcnt 0 5 4 0) 4 fun x _ => x.1 == 0) = true ∧
    (meets1 s1 (.bcnt 0 5 3 1) 3 fun x _ => x.1.toNat % 2 ^ 0 == 0 && x.1.getLsbD 0) = true ∧
    (meets1 s1 (.bcnt 0 5 3 2) 3 fun x _ => (List.range 64).countP (fun j => x.1.getLsbD j) == 3) = true ∧
    (meets1 s1 (.bcnt 0 5 3 3) 3 fun x _ => (List.range 64).all fun j => (0xE000000000000000 : Word).getLsbD j == x.1.getLsbD (63 - j)) = true := by
  decide +kernel
/-- R91: −3 and 7 in every condition, of which `lt`, `le` and `ne` hold, and unsigned `gen`. -/
theorem witness_ComparesSetTheirGuard : ([(0, false), (1, true), (2, true), (3, false), (4, true), (5, false), (6, false), (7, true)].all fun e =>
    let c : BitVec 3 := BitVec.ofNat 3 e.1
    (meets2 s1 (.cmp 0 c 1 2 3) 2 3 fun x y _ => x.1.toInt == -3 && y.1 == 7) && (meets1 s1 (.cmpi 0 c 2 2 7) 2 fun x _ => x.1.toInt == -3) &&
    (meets1 s1 (.cmpk 0 c 7 2 true 7) 2 fun x _ => x.1.toInt == -3) &&
    (coreAfter s1 (.cmp 0 c 1 2 3)).any (fun k => k.regs.guard 1 == e.2) && (coreAfter s1 (.cmpi 0 c 1 2 7)).any (fun k => k.regs.guard 1 == e.2) &&
    (coreAfter s1 (.cmpk 0 c 0 2 true 7)).any (fun k => k.regs.guard 0)) = true := by decide +kernel
theorem witness_SelectionGuardsAndLiterals :
    (writes2 s1 (.sel 0 5 1 2 1) 5 1 2 && writes2 s1 (.sel 0 5 1 2 2) 5 1 2 && s1.clear (.gop 0 3 1 2 7) && s1.clear (.gop 0 3 0 2 4) &&
     s1.clear (.lit 0 5 0 1) && s1.clear (.lit 0 63 1 1) && takes s1 63 (s1.seen (.lit 0 63 1 1)) false && writes1 s1 (.lit 0 5 2 0x01FFFFF0) 5 5 &&
     writes1 s1 (.ptag 0 5 1 15 7) 5 1) = true := by decide +kernel
/-- R95: a pointer that advances, one behind blocks, one to the last byte, and one for each trap: an odd count of i4, part of a block, a
scaled raw pointer, an address past 2^57. -/
theorem witness_FatPointersAdvance :
    let s := withRegs base [(1, 2 ^ 57 - 9), (2, 0xC200000000100000), (3, 0x2000000000000010), (4, 0xB200000000000000), (6, 1)]
    (meets2 s (.padd 0 5 1 6) 1 6 fun x y k => spanOf x.1 y.1.toInt == some 1 && takes s 5 k false) = true ∧
    (meets1 s (.paddi 0 5 1 8) 1 fun x _ => spanOf x.1 8 == some 8 && decide (x.1.toNat % 2 ^ 57 + 8 < 2 ^ 57)) = true ∧
    (meets1 s (.paddi 0 5 2 48) 2 fun x _ => spanOf x.1 48 == some 54) = true ∧
    (meets1 s (.paddi 0 5 3 1) 3 fun x _ => spanOf x.1 1 == none && x.1.toNat / 2 ^ 57 % 8 == 0) = true ∧
    (meets1 s (.paddi 0 5 2 40) 2 fun x _ => spanOf x.1 40 == none && x.1.toNat / 2 ^ 60 != 11) = true ∧
    (meets2 s (.padd 0 5 4 6) 4 6 fun x _ _ => x.1.toNat / 2 ^ 57 % 8 != 0 && x.1.toNat / 2 ^ 60 == 11) = true ∧
    (meets1 s (.paddi 0 5 1 9) 1 fun x _ => spanOf x.1 9 == some 9 &&
      decide (2 ^ 57 ≤ (BitVec.ofInt 64 ((x.1.toNat % 2 ^ 57 : Nat) + 9)).toNat)) = true ∧
    (trapped s (.paddi 0 5 3 1), trapped s (.padd 0 5 4 6), trapped s (.paddi 0 5 1 9)) =
      (some (3, 1), some (7, 0xB200000000000000), some (7, BitVec.ofNat 64 (2 ^ 57 - 9))) := by decide +kernel

/-! ## Control transfers, loops and frames -/

/-- Core 0 at user level in a loop of two words that begins at its pc less 4, with 2 passes left. -/
def looping (n : Nat) : State := withCore base fun k =>
  { k with loopOn := true, csrs := { k.csrs with lcnt := BitVec.ofNat 64 n, lbeg := k.pc - 4, lend := k.pc + 4 } }
/-- Core 0 in an open frame of two words with fields X = 1, executed 4 times, at place `pos` of execution `run`. -/
def framed (pos run : Nat) : State := withCore (withRegs base [(6, 5)]) fun k =>
  { k with frameOn := true, csrs := { k.csrs with frm := BitVec.ofNat 64 (2 ^ 63 + pos * 2 ^ 44 + run * 2 ^ 32 + 4 * 2 ^ 16 + 1 * 2 ^ 12) } }

/-- R61, R97: `br` is relative to its own address in words; R98: `call` leaves the next word's address in s58. -/
theorem test_transfers : (
    let pc := (base.core 0).pc
    (coreAfter base (.br 0 0x3FFFF4)).map (fun k => k.pc) == some (pc - 48) &&
    (coreAfter base (.call 0 3)).map (fun k => (k.pc, k.regs.scalar 58)) == some (pc + 12, pc + 4) &&
    trapped (withRegs base [(1, 6)]) (.jr 0 0 1) == some (3, 6) &&
    trapped (withRegs base [(1, 2 ^ 57)]) (.jr 0 0 1) == some (7, BitVec.ofNat 64 (2 ^ 57))) = true := by decide +kernel
/-- R99: at the last word of the body the loop goes back with one pass fewer; with 1 left it ends. -/
theorem test_loops : ((coreAfter (looping 2) .nop).map (fun k => (k.pc, k.csrs.lcnt)) == some ((base.core 0).pc - 4, 1) &&
    (coreAfter (looping 1) .nop).map (fun k => (k.pc, k.csrs.lcnt)) == some ((base.core 0).pc + 4, 0) &&
    trapped (looping 2) (.loop 0 6 3) == some (0x14, 0)) = true := by decide +kernel
/-- R100: a frame of two words comes back to its first word, two words before the next one. -/
theorem test_frames : ((coreAfter (framed 0 0) (.addi 0 7 6 1)).map (fun k => k.csrs.frm.toNat / 2 ^ 44 % 16) == some 1 &&
    (coreAfter (framed 1 0) (.addi 0 7 6 1)).map (fun k => (k.csrs.frm.toNat / 2 ^ 32 % 64, k.regs.scalar 7)) == some (1, 6) &&
    (coreAfter (framed 1 3) (.addi 0 7 6 1)).map (fun k => k.csrs.frm) == some 0) = true := by decide +kernel

theorem witness_TransfersReachTheirTargets :
    (let s := withRegs base [(1, 2 ^ 57 - 4), (2, 2 ^ 57 - 2), (3, 2 ^ 57), (4, 2)]
     s.clear (.br 0 0x200000) && s.clear (.call 0 0) &&
     (meets1 s (.jr 0 5 1) 1 fun x k => !x.2 && x.1.toNat % 4 == 0 && decide (x.1.toNat < 2 ^ 57) && takes s 5 k false) &&
     (meets1 s (.jr 0 63 1) 1 fun x k => !x.2 && x.1.toNat % 4 == 0 && takes s 63 k false) &&
     (meets1 s (.jr 0 0 4) 4 fun x _ => !x.2 && x.1.toNat % 4 != 0) && (meets1 s (.jr 0 0 2) 2 fun x _ => !x.2 && x.1.toNat % 4 != 0) &&
     (meets1 s (.jr 0 0 3) 3 fun x _ => !x.2 && x.1.toNat % 4 == 0 && decide (2 ^ 57 ≤ x.1.toNat)) &&
     (meets1 (withCore s fun k => { k with regs := k.regs.setScalar 4 2 true }) (.jr 0 0 4) 4 fun x k => x.2 && k.level == .user)) = true := by
  decide +kernel
theorem witness_LoopsOpenAndRepeat :
    ((meets1 (looping 2) (.loop 0 6 3) 6 fun x k => !x.2 && k.csrs.lcnt != 0) && (meets1 base (.loop 0 6 1023) 6 fun x k => !x.2 && k.csrs.lcnt == 0 && x.1 == 0) &&
     (meets1 (withRegs base [(6, 3)]) (.loop 0 6 1) 6 fun x k => !x.2 && k.csrs.lcnt == 0 && x.1 != 0 && !k.inFrame) &&
     [looping 2, looping 1, base, withCore (looping 2) fun k => { k with csrs := { k.csrs with lend := k.pc + 8 } }].all fun s =>
       s.clear .nop && !(s.core 0).inFrame && (s.core 0).level == .user) = true := by decide +kernel
theorem witness_FramesOpenAndReplay :
    (base.clear (.rpt 0 4 1 1 1 0) && base.clear (.rpt 0 0 15 15 15 15) && [framed 0 0, framed 1 0, framed 0 2, framed 1 2, framed 1 3].all fun s =>
       s.clear (.addi 0 7 6 1) && (s.core 0).inFrame) = true := by decide +kernel
/-- R68, R100, R210: in execution 3 of a frame with X 2, Y 1 and Z 15 the fields of `vfma` and, under a prefix, of `vcmp` move on. -/
def replaying (e : FrameEntry) : State := withCore base fun k =>
  { k with frameOn := true, frame := k.frame.setIfInBounds 1 e
           csrs := { k.csrs with frm := BitVec.ofNat 64 (2 ^ 63 + 2 ^ 44 + 3 * 2 ^ 32 + 4 * 2 ^ 16 + 2 ^ 12 + 2 * 2 ^ 8 + 1 * 2 ^ 4 + 15) } }
def fetches (s : State) (i : Instr) : Bool :=
  match fetch s with
  | .ok j _ => j == i
  | _ => false
theorem test_stagger :
    (fetches (replaying { word := (Instr.vfma 0 12 5 1 8 2).word, pfx := none }) (.vfma 0 2 8 14 8 2) &&
     fetches (replaying { word := (Instr.vcmp 0 3 15 2 8 5).word, pfx := (Instr.vectorPrefix 2 false 0 0 (Instr.vcmp 0 3 15 2 8 5).word).word? })
       (.vectorPrefix 2 false 0 0 (Instr.vcmp 0 3 2 15 8 5).word) &&
     fetches (replaying { word := (Instr.vmovBc 0 12 5 8).word, pfx := none }) (.vmovBc 0 2 5 8)) = true := by decide +kernel
theorem witness_frames_replay :
    (let s := replaying { word := (Instr.vfma 0 12 5 1 8 2).word, pfx := none }
     let k := s.core 0
     !k.streams && k.inFrame && k.csrs.frm.toNat / 2 ^ 32 % 64 != 0 && (Instr.vfma 0 12 5 1 8 2).word?.isSome &&
       k.frame.toArray.getD (k.csrs.frm.toNat / 2 ^ 44 % 16) { word := 0, pfx := none } == { word := (Instr.vfma 0 12 5 1 8 2).word, pfx := none } &&
       (Instr.vectorPrefix 2 false 0 0 (Instr.vcmp 0 3 15 2 8 5).word).word?.isSome && prefixFits (.vcmp 0 3 15 2 8 5) 0 0) = true := by decide +kernel

/-! ## Checks before issue, traps and returns -/

/-- Core 0 in its handler, having been interrupted at 0x1000 by a cause. -/
def handler (cause : BitVec 8) : State := withCore base fun k =>
  { k with level := .supervisor, csrs := { k.csrs with xpc := 0x1000, xcause := cause, xstat := 0, saveptr := 1, xvec := 0x2000 } }
/-- Core 0 with an instruction budget. -/
def withBudget (n : Nat) : State := withCore base fun k => { k with csrs := { k.csrs with budget := BitVec.ofNat 32 n } }

/-- R104, R105: `trap 5` saves the address after it; R102: `eret` goes back to `XPC`. -/
theorem test_trap_and_return :
    ((coreAfter (withCore base fun k => { k with csrs := { k.csrs with xvec := 0x2000 } }) (.trap 0 5)).map
        (fun k => (k.csrs.xcause.toNat, k.csrs.xval, k.csrs.xpc, k.pc)) == some (0x16, 5, (base.core 0).pc + 4, 0x2000) &&
     (coreAfter (handler 0x16) (.eret 0)).map (fun k => (k.pc, k.csrs.saveptr)) == some (0x1000, 0)) = true := by decide +kernel
/-- R32, R106: with no budget left a deadline fault; a privileged register at user level traps with the word, its guard 0. -/
theorem test_checks : (trapped (withBudget 0) .nop == some (0x0A, 0) && trapped (withBudget 9) (.csrr 1 1 0x101) == some (2, 0x5A410101) &&
    trapped base (.illegalWord 0xFE000000) == some (1, 0xFE000000)) = true := by decide +kernel

theorem witness_GuardsAndCharges :
    (let s := withCore base fun k => { k with regs := k.regs.setGuard 1 false false }
     ([.add 1 5 1 2 false, .st 1 5 1 0 3, .br 1 5, .halt 1, .trap 1 1, .mma 1 4, .vadd 1 1 2 3 8] : List Instr).all fun i =>
       i.word?.isSome && s.clearBut i (false, false) && (s.core 0).awaited.isEmpty) = true := by decide +kernel
theorem witness_FailedChecksTrapBeforeIssue :
    ((withBudget 0).atBoundary && ((withBudget 0).core 0).level == .user && (Instr.halt 0).word?.isSome && base.atBoundary &&
     (base.core 0).level == .user && (base.core 0).csrs.budget != 0 && (base.core 0).longPacket.isNone &&
     (([.eret 3, .csrr 0 1 0x101, .csrr 0 1 0x303, .csrw 2 1 0x105, .csrw 0 1 0x013, .csrx 0 1 2 0x000, .csrx 0 1 2 0x300] : List Instr).all fun i =>
       (illegalNow i (base.core 0)).isNone && i.word?.isSome) &&
     (let s := withCore (handler 0x16) fun k => { k with csrs := { k.csrs with saveptr := 0 } }
      s.atBoundary && (s.core 0).level == .supervisor && !(s.core 0).csrs.saveptr.getLsbD 0 && ([.csrw 0 1 0x006, .csrx 0 1 2 0x303] : List Instr).all fun i =>
        (illegalNow i (s.core 0)).isNone && i.word?.isSome)) =
      true := by decide +kernel
theorem witness_TrapsEnterTheHandler :
    (base.clear (.trap 0 5) && (base.core 0).level == .user &&
     (let s := withCore (handler 0x16) fun k => { k with csrs := { k.csrs with saveptr := 0 } }
      s.clear (.trap 0 1023) && (s.core 0).level == .supervisor && !(s.core 0).csrs.saveptr.getLsbD 0 && Memory.wf s.mem)) = true := by decide +kernel
theorem witness_EretReturns : ([handler 0x16, withCore (handler 0x0A) fun k => { k with csrs := { k.csrs with xstat := 1 } }].all fun s =>
    s.clear (.eret 0) && !(s.core 0).killed && !(s.core 0).csrs.xstat.getLsbD 1) = true := by decide +kernel
theorem witness_HaltEndsTheTask :
    (base.clear (.halt 0) && (base.core 0).level == .user && (base.core 0).openPacket.isNone && !base.engineWork 0 && (base.core 0).slog.isEmpty &&
     (base.core 0).loss.isNone && (base.l1Of 0).isEmpty && base.flights.isEmpty &&
     (let s := base.setL1 0 [l1Line 0x400 0]
      s.clear (.halt 0) && (s.l1Of 0).all fun l => l.dirty == 0 && !l.updateOnly) &&
     [handler 0x16, handler 0x0A].all fun s => s.clear (.halt 0) && (s.core 0).level == .supervisor && (s.core 0).cmds.isEmpty && s.colls.isEmpty &&
       (s.core 0).slog.isEmpty && (s.core 0).loss.isNone && (s.l1Of 0).isEmpty && s.flights.isEmpty) = true := by decide +kernel

/-! ## Control registers -/

/-- R108: the example's `CORENUM` on core 0; R377: the first window of a chiplet, and the move to the next. -/
theorem test_reads : (result base (.csrr 0 1 6) 1 == some 0 &&
    (let s := (handler 0x16).modChip 0 fun h => { h with nselMessage := 0x2B, nselCached := 0x1000F }
     result s (.csrr 0 1 0x300) 1 == some 0x2B000F && (coreAfter s (.csrr 0 1 0x300)).map (fun k => k.csrs.nselIx) == some 1 &&
     result (withCore s fun k => { k with csrs := { k.csrs with nselIx := 1 } }) (.nselRead 0 1) 1 == some 0x100000001)) = true := by decide +kernel
/-- R107: a rounding mode of 6 is reserved; R109: `step` gives the launch's budget. -/
theorem test_writes : (trapped (withRegs base [(1, 6)]) (.csrw 0 1 3) == some (1, 6) &&
    (coreAfter (withCore base fun k => { k with task := { k.task with budget := 77 } }) (.step 0)).map (fun k => k.csrs.budget) == some 77 &&
    result (withCore (withRegs (handler 0x16) [(1, 5)]) fun k => { k with csrs := { k.csrs with budget := 9 } }) (.csrx 0 2 1 1) 2 == some 9) = true := by decide +kernel

theorem witness_ControlRegistersAndWindowsRead :
    (([0x000, 0x006, 0x01B, 0x100, 0x109, 0x303] : List (BitVec 10)).all fun c =>
      let s := handler 0x16
      s.clear (.csrr 0 63 c) && takes s 63 (s.seen (.csrr 0 63 c)) false) && (handler 0x16).clear (.csrr 0 1 0x300) &&
      (let k := (handler 0x16).seen (.csrr 0 1 0x300)
       takes (handler 0x16) 1 { k with csrs := { k.csrs with nselIx := 1 } } false) = true := by decide +kernel
/-- R175, R257: one word in queue 2 and a packet open in queue 1; the second byte of a copy not yet performed, an idle channel. -/
def queried : State := withCore s1 fun k => { k with
  outq := k.outq.setIfInBounds 1 (some { words := [], addr := 0, count := 0, bySup := false })
  chan := #v[{ Channel.reset with cmds := [copyCmd base none true 1] }, { Channel.reset with mark := 77 }, Channel.reset, Channel.reset] }
theorem test_status_reads : (result queried (.csrr 0 5 0x008) 5 == some 0x02001000 && result queried (.csrr 0 5 0x011) 5 == some 77 &&
    result queried (.csrr 0 5 0x010) 5 == some (BitVec.ofNat 64 (tarn + 0x20001))) = true := by decide +kernel
theorem witness_status_reads :
    (queried.clear (.csrr 0 5 0x008) && queried.clear (.csrr 0 5 0x010) && queried.clear (.csrr 0 5 0x011) && takes queried 5 (queried.core 0) false &&
     (let k := queried.seen (.csrr 0 5 0x008)
      let v : Word := 0x02001000
      (List.finRange 4).all (fun (q : Fin 4) => v.toNat / 2 ^ (6 * q.val) % 64 == min k.inq[q].length 63 && v.getLsbD (24 + q.val) == k.outq[q].isSome &&
        v.getLsbD (28 + q.val) == k.inq[q].head?.any fun w => w.err) && k.chan[1].cmds.isEmpty &&
        k.chan[0].cmds.map (fun x => x.work) == [.copy copyDesc])) = true := by decide +kernel
theorem witness_ControlRegistersAndBudgetWritten :
    (([0x000, 0x002, 0x003, 0x00B, 0x019, 0x01B, 0x101, 0x106, 0x107, 0x108] : List (BitVec 10)).all fun c =>
      let s := withRegs (handler 0x16) [(1, 0)]
      (meets1 s (.csrw 0 1 c) 1 fun x k => !x.2 && (k.csrWrites c.toNat x.1).length == 1 && csrValueOk 0 c.toNat x.1) &&
      (meets1 s (.csrx 0 2 1 c) 1 fun x k => !x.2 && (k.csrWrites c.toNat x.1).length == 1 && csrValueOk 0 c.toNat x.1 && takes s 2 k false)) &&
     (let s := withRegs base [(1, 0xFFFFFFFFFFFFFFFF)]
      (meets1 s (.csrw 0 1 3) 1 fun x k => !x.2 && (k.csrWrites 3 x.1).length == 1 && !csrValueOk 0 3 x.1) &&
      (meets1 s (.csrx 0 2 1 2) 1 fun x k => !x.2 && (k.csrWrites 2 x.1).length == 1 && !csrValueOk 0 2 x.1)) && base.clear (.step 0) = true := by
  decide +kernel

/-! ## Memory instructions -/

/-- Core 0 with two doublewords in its home tarn at offset 0x100, the word at 0x10C marked, and pointers in s1 and s4. -/
def s4 : State := { withTarn (withRegs base [(1, tarn + 0x100), (2, 0x8899AABBCCDDEEFF), (3, 5), (4, tarn + 0x104), (6, 0x10000)])
    [(0x100, 0x8899AABBCCDDEEFF), (0x108, 0x1122334455667788)] with marks := [(2 ^ 48 + 0x10C) / 4] }
/-- Bytes of core 0's home tarn after an instruction. -/
def tarnAfter (s : State) (i : Instr) (off n : Nat) : Option Nat := (after i s).map fun t => readNat t.mem (2 ^ 48 + off) n
/-- The ring of the launch in core 0's home tarn at 0x1000: 4 slots of 32 bytes, slot 1 with the tag 0x77. -/
def withRing (s : State) : State :=
  { withTarn s [(0x1008, 0x77), (0x1040, 0xFEDCBA9876543210)] with
    rings := [{ part := 0, queue := 0, seq := 0, base := 2 ^ 48 + 0x1000, slots := 4, size := 32 }] }

/-- R7, R118: little-endian bytes, sign- or zero-extended; the offset counts in sizes; a marked word poisons. -/
theorem test_loads : (result s4 (.ld 0 5 1 0 0) 5 == some 0xFFFFFFFFFFFFFFFF && result s4 (.ldz 0 5 1 1 0) 5 == some 0xEE &&
    result s4 (.ld 0 5 4 0xFF 2) 5 == some 0xFFFFFFFFCCDDEEFF && result s4 (.ldz 0 5 1 1 2) 5 == some 0x8899AABB &&
    (coreAfter s4 (.ld 0 5 1 1 3)).map (fun k => (k.regs.scalar 5, k.regs.scalarPoison 5)) == some (0x1122334455667788, true) &&
    trapped s4 (.ld 0 5 4 0 3) == some (3, BitVec.ofNat 64 (tarn + 0x104))) = true := by decide +kernel
/-- R121: `st.h` with offset −2 writes two bytes, four bytes lower, and no other. -/
theorem test_stores : (tarnAfter s4 (.st 0 3 4 0xFE 1) 0x100 8 == some 0x8899AABBCCDD0005 &&
    tarnAfter s4 (.stl 0 3 1 0 3) 0x100 8 == some 5) = true := by decide +kernel
/-- R125-R128: signed and unsigned orders differ on a set sign; `acas` leaves a cell that holds something else. -/
theorem test_atomics :
    (let s := withRegs (withTarn s4 [(0x100, 0x80000000)]) [(7, 1), (8, 0x80000000)]
     tarnAfter s (.amax 0 5 1 7 false false) 0x100 4 == some 1 && tarnAfter s (.amax 0 5 1 7 true false) 0x100 4 == some 0x80000000 &&
     result s (.aadd 0 5 1 7 false) 5 == some 0xFFFFFFFF80000000 && tarnAfter s (.acas 0 7 1 3 false) 0x100 4 == some 0x80000000 &&
     tarnAfter s (.acas 0 8 1 3 false) 0x100 4 == some 5 && tarnAfter s (.radd 0 1 8 false) 0x100 4 == some 0) = true := by decide +kernel
/-- R126, R127 and chapter 1: 12.0 and −0.5 add to 11.5; −0 lies below +0; a NaN is ignored. -/
theorem test_float_atomics :
    (let s (c v : Nat) : State := withRegs (withTarn s4 [(0x100, c)]) [(7, v)]
     tarnAfter (s 0x41400000 0xBF000000) (.rfadd 0 1 7) 0x100 4 == some 0x41380000 && tarnAfter (s 0 0x80000000) (.rfmin 0 1 7) 0x100 4 == some 0x80000000 &&
     tarnAfter (s 0x80000000 0) (.famax 0 5 1 7) 0x100 4 == some 0 && tarnAfter (s 0x7FC00000 0xC1200000) (.rfmax 0 1 7) 0x100 4 == some 0xC1200000) =
      true := by decide +kernel

theorem witness_ReadsGiveWhatWasWritten : (Memory.wf s4.mem && Memory.wf (writeNat [] (2 ^ 49) 8 0) && decide (59 < 60 ∧ 0 < 60 ∧ 7 < 8)) = true := by
  decide +kernel
/-- An access of one core at a tarn that passes every check. -/
def reaches (s : State) (k : Core) (ea : Word) (n : Nat) (write : Bool) : Bool :=
  (s.tarnAccess k ea n write).any fun p => s.latent.isEmpty && p == 2 ^ 48 + ea.toNat % 2 ^ 20
theorem witness_TarnLoads :
    ((([(0x100, 0), (0x81, 1), (0x7F, 0), (0, 3), (1, 3), (0, 2)] : List (Nat × Nat)).all fun e =>
      let o : BitVec 8 := BitVec.ofNat 8 e.1
      let z : BitVec 2 := BitVec.ofNat 2 e.2
      let n := 2 ^ e.2
      (meets1 s4 (.ld 0 5 1 o z) 1 fun x k => !x.2 && reaches s4 k (BitVec.ofInt 64 (x.1.toInt + o.toInt * (n : Nat))) n false && takes s4 5 k true) &&
      (meets1 s4 (.ldz 0 5 1 o z) 1 fun x k => !x.2 && reaches s4 k (BitVec.ofInt 64 (x.1.toInt + o.toInt * (n : Nat))) n false && takes s4 5 k true)) &&
     (meets1 s4 (.lda 0 5 1 0 3) 1 fun x k => !x.2 && reaches s4 k x.1 8 false && takes s4 5 k true) && s4.tags.isEmpty &&
     [4, 7].all (fun r => ([.ld 0 5 r 0 3, .ldz 0 5 r 0 3, .lda 0 5 r 2 3] : List Instr).all fun i =>
       (meets1 (withRegs s4 [(7, 2 ^ 57)]) i r fun x _ => !x.2 && if r = 4 then x.1.toNat % 8 != 0 else x.1.toNat % 8 == 0 && decide (2 ^ 57 ≤ x.1.toNat)) &&
       meets1 (withCore s4 fun k => { k with regs := k.regs.setScalar r.toNat 2 true }) i r fun x k => x.2 && k.level == .user)) = true := by
  decide +kernel
theorem witness_TagCheckingLoads :
    ([(0x77, true), (0x76, false)].all fun e =>
      let s := withRing (withRegs base [(2, e.1), (3, tarn + 0x1040)])
      [true, false].all fun sgn =>
        let i := if sgn then Instr.ldTag 0 2 3 2 else .ldzTag 0 2 3 2
        (meets2 s i 2 3 fun y x k => !x.2 && !y.2 && reaches s k x.1 4 false && ((s.tarnAccess k x.1 4 false).any fun p => (s.ringSlot k.task p).any fun r =>
          r.2 == 1 && (readNat s.mem (r.1.base + 8 * r.2) 8 == y.1.toNat) == e.2 &&
          !s.anyMarked (r.1.base + 8 * r.2) 8)) && s.tags.isEmpty && s.landings.isEmpty) = true := by decide +kernel
theorem witness_TarnStores :
    ((meets2 s4 (.st 0 2 1 0xFF 3) 2 1 fun _ x k => !x.2 && k.fenceTag.isNone && reaches s4 k (BitVec.ofInt 64 (x.1.toInt - 8)) 8 true) &&
     (meets2 s4 (.stl 0 2 4 0 2) 2 4 fun _ x k => !x.2 && reaches s4 k x.1 4 true) && s4.quiet && Memory.wf s4.mem) = true := by decide +kernel
/-- Clean operands and a clean cell of 8 or 4 bytes. -/
def cell (s : State) (i : Instr) (a b : SReg) (n : Nat) (ok : Nat → Nat → Bool) : Bool :=
  meets2 s i a b fun x v k => !x.2 && !v.2 && k.fenceTag.isNone && s.tags.isEmpty && Memory.wf s.mem && reaches s k x.1 n true &&
    (s.tarnAccess k x.1 n true).any fun p => !s.anyMarked p n && ok (readNat s.mem p n) (v.1.toNat % 256 ^ n)
theorem witness_TarnAtomics :
    (([true, false].all fun z => let n := if z then 8 else 4
      ([.aadd 0 5 1 3 z, .aand 0 5 1 3 z, .aor 0 5 1 3 z, .axor 0 5 1 3 z, .amin 0 5 1 3 false z, .amin 0 5 1 3 true z, .amax 0 5 1 3 false z,
        .amax 0 5 1 3 true z, .axch 0 5 1 3 z, .axch 0 0 1 3 z, .acas 0 2 1 3 z, .acas 0 3 1 3 z, .acas 0 0 1 3 z] : List Instr).all fun i => cell s4 i 1 3 n fun _ _ => true) &&
     ([.fadda 0 5 1 3, .famax 0 5 1 3, .famin 0 5 1 3] : List Instr).all fun i => cell s4 i 1 3 4 fun c v => !fp32.isPoison c && !fp32.isPoison v) =
      true := by decide +kernel
theorem witness_TarnReductions :
    (([true, false].all fun z => let n := if z then 8 else 4
      ([.radd 0 1 3 z, .rand 0 1 3 z, .ror 0 1 3 z, .rxor 0 1 3 z, .rmin 0 1 3 false z, .rmin 0 1 3 true z, .rmax 0 1 3 false z, .rmax 0 1 3 true z]
        : List Instr).all fun i => cell s4 i 1 3 n fun _ _ => true) &&
     ([.rfadd 0 1 3, .rfmax 0 1 3, .rfmin 0 1 3] : List Instr).all fun i => cell s4 i 1 3 4 fun c v => !fp32.isPoison c && !fp32.isPoison v) =
      true := by decide +kernel
/-- R118, R121: a hit in the L1 reads the line's bytes; a store there leaves memory. -/
theorem test_l1 : (let s := (withRegs s4 [(6, 0x10004)]).setL1 0 [l1Line 0x400 0]
    result s (.ldz 0 5 6 0 1) 5 == some 0x6655 &&
    (after (.st 0 3 6 0 0) s).map (fun t => (t.l1Of 0).map fun l => (l.data.toNat % 2 ^ 64, l.dirty)) == some [(0x8877660544332211, 0x10)] &&
    (after (.st 0 3 6 0 0) s).map (fun t => t.mem) == some s.mem) = true := by decide +kernel
/-- Core 0 at a level with a line of the range-table page in its L1, doubleword 1 of the translation block dirty, and addresses in s1 to s4:
the block's first doubleword, the commit word, a reserved word, the next doubleword. -/
def paging (lv : Level) : State :=
  (withCore (withRegs base [(1, 2 ^ 48 + 0x840), (2, 2 ^ 48 + 0x800), (3, 2 ^ 48 + 0x828), (4, 2 ^ 48 + 0x848), (5, 0x1000000000000007)]) fun k =>
    { k with level := lv }).setL1 0 [{ l1Line ((2 ^ 48 + 0x840) / 64) 0xFF00 with sup := 0xFF00 }]
/-- R115, R142, R320, R356: a store to the page stays in the L1, an `stl.d.sys` to a command word acts on the page and starts its command,
a reserved word ignores it, and a user-level access takes 0x05. -/
theorem test_control_pages :
    ((after (.st 0 5 4 0 3) (paging .supervisor)).map (fun t => readNat t.mem (ctlPlace 0 0x848) 8) == some 0 &&
     (after (.stl 0 5 1 4 3) (paging .supervisor)).map (fun t => (readNat t.mem (ctlPlace 0 0x840) 8, (t.part 0).pendingCmds, t.turns, t.l2.length)) ==
       some (0x1000000000000007, [(0x840, 0)], [.unit (.probe 0)], base.l2.length) &&
     (after (.stl 0 5 2 4 3) (paging .supervisor)).map (fun t => (t.part 0).pendingCmds) == some [(0x800, 0)] &&
     (after (.stl 0 5 3 4 3) (paging .supervisor)).map (fun t => (readNat t.mem (ctlPlace 0 0x828) 8, (t.part 0).pendingCmds)) == some (0, []) &&
     trapped (paging .user) (.lda 0 6 2 4 3) == some (5, BitVec.ofNat 64 (2 ^ 48 + 0x800))) = true := by decide +kernel
theorem witness_L1Hits :
    (let s := s4.setL1 0 [l1Line 0x400 0xF0, l1Line 0x420 0]
     let hyp (i : Instr) (a : SReg) (k : Core) (ea : Word) (n : Nat) : Bool :=
       let t := s.setCore 0 k
       i.word?.isSome && a == 6 && decide (ea.toNat < 2 ^ 57) && ea.toNat % n == 0 && !inWindow ea.toNat && k.slog.isEmpty &&
       t.l1Get 0 (ea.toNat / 64) == some (l1Line 0x400 0xF0) &&
       (s.l1Of 0).filter (fun y => y.asid == k.csrs.asid && y.line == ea.toNat / 64) == [l1Line 0x400 0xF0] &&
       t.loadLock 0 (t.spanAt 0 ea.toNat n) == .go && t.storeLock 0 (t.spanAt 0 ea.toNat n) == .go &&
       decide (((s.l1Of 0).filter fun y => y.line % 32 == ea.toNat / 64 % 32).length ≤ 4)
     (meets1 s (.ld 0 5 6 7 3) 6 fun x k => !x.2 && hyp (.ld 0 5 6 7 3) 6 k (x.1 + 56) 8 && takes s 5 k false) &&
     (meets1 s (.ldz 0 5 6 7 3) 6 fun x k => !x.2 && hyp (.ldz 0 5 6 7 3) 6 k (x.1 + 56) 8 && takes s 5 k false) &&
     (meets2 s (.st 0 2 6 3 0) 2 6 fun v x k => !v.2 && !x.2 && hyp (.st 0 2 6 3 0) 6 k (x.1 + 3) 1)) = true := by decide +kernel

/-! ## Waiting, fences, range operations -/

/-- Core 0 of a launch of two cores in a row, at user level. -/
def two2 : State := withCore s4 fun k => { k with csrs := { k.csrs with rect := BitVec.ofNat 64 (2 ^ 21) }, task := { k.task with cls := .detect } }
/-- A packet of 32 words of core 0's queue 1, not delivered yet. -/
def packet32 : Packet :=
  { src := 0, queue := 1, ring := false, dst := 0, words := List.replicate 32 (0, false), err := false, rel := none, part := 0, left := false,
    reach := none }
/-- How an instruction leaves core 0 waiting. -/
def frozen (s : State) (i : Instr) : Option FreezeKind := (coreAfter s i).bind fun k => k.freeze.map fun z => z.kind

/-- R172, R173, R177, R113. -/
theorem test_waits : (frozen s4 (.addi 0 5 60 1) == some .inQueue && frozen { s4 with packets := [packet32] } (.addi 0 61 1 1) == some .outQueue &&
    frozen s4 (.slp 0) == some .sleep && frozen s4 (.evw 0 1 7) == none && frozen s4 (.evw 0 1 2) == none &&
    frozen (withRegs s4 [(2, 0x8899AABBCCDDEF00)]) (.evw 0 1 2) == some .awaitCounter) = true := by decide +kernel
theorem witness_InstructionsWait :
    (s4.clear (.addi 0 5 63 1) && ((s4.core 0).inq.toArray.getD 3 []).isEmpty &&
     (let s : State := { s4 with packets := [packet32] }
      meets1 s (.addi 0 61 1 1) 1 fun x k => !x.2 && (k.outq.toArray.getD 1 none).isNone && s.owed 61 == 32) &&
     s4.clear (.slp 0) && !(s4.core 0).wake && ([0, 1, 2, 3].all fun q => ((s4.core 0).inq.toArray.getD q []).isEmpty) &&
     (meets2 (withRegs s4 [(2, 0x8899AABBCCDDEF00)]) (.evw 0 1 2) 1 2 fun x y k => !x.2 && !y.2 && reaches s4 k x.1 8 false && s4.tags.isEmpty &&
       !s4.anyMarked (2 ^ 48 + 0x100) 8 && decide (readNat s4.mem (2 ^ 48 + 0x100) 8 < y.1.toNat))) = true := by decide +kernel
/-- Core 0 with an `mmst.v` of the tile's last row queued, whose nominal latency ends at a cycle. -/
def storing (upTo : Nat) : State :=
  let work : Work := .tile { store := true, tile := 1, addr := 31, stride := 0, fmt := 6, sat := false, vreg := some 9, data := 7, poison := 0, void := false }
  withCore s4 fun k => { k with matq := [s4.command k none none work], ready := [(rV 9, upTo)] }
/-- R33, R246: within the nominal latency the next instruction issues, past it the core waits. -/
theorem test_late_results : (frozen (storing 8) (.addi 0 5 3 1) == none && result (storing 8) (.addi 0 5 3 1) 5 == some 6 &&
    frozen (storing 0) (.addi 0 5 3 1) == some .engine) = true := by decide +kernel
theorem witness_late_results : ([(8, false), (0, true)].all fun (e : Nat × Bool) => let k := (storing e.1).core 0
    k.run == .running && k.wait == .none && k.group.fwd == .none && k.group.pair == .none && (k.interlock (.addi 0 5 3 1)).lateNow == e.2 &&
      match k.before (.addi 0 5 3 1) with
      | .go => k.guardFor (.addi 0 5 3 1) == (true, false)
      | _ => false) = true := by decide +kernel

/-- R152: an acquire at `.dev` drops clean lines, at `.core` it keeps them. -/
theorem test_fences : (let s := s4.setL1 0 [l1Line 0x400 0, l1Line 0x401 0]
    (after (.fenceAcq 0 3) s).map (fun t => (t.l1Of 0).length) == some 0 && (after (.fenceAcq 0 0) s).map (fun t => (t.l1Of 0).length) == some 2 &&
    (coreAfter s (.fenceRel 0 2)).map (fun k => k.fenceTag) == some (some .chip)) = true := by decide +kernel
theorem witness_FencesActOnTheL1 : ([0, 1, 2, 3, 4].all fun (p : BitVec 3) =>
    let s := s4.setL1 0 [l1Line 0x400 0, l1Line 0x401 0]
    s.clear (.fenceAcq 0 p) && (s.core 0).seen.isEmpty && s.l2.all (fun x => x.dirty == 0) && s.tags.isEmpty && (s.l1Of 0).all (fun l => l.dirty == 0 && !l.updateOnly) && s.clear (.fenceFull 0 p) && s.drained &&
    (p == 4 || ((s4.setL1 0 [l1Line 0x400 7]).clear (.fenceRel 0 p) && (s4.setL1 0 [l1Line 0x400 7]).drained)) && s.clear (.fenceRel 0 p)) = true := by decide +kernel

/-- Core 0's L1 with two lines, ranges in registers: s5 bytes from s6 on, of which line 0x400 lies in part or in whole. -/
def ranged (n : Nat) : State := (withRegs s4 [(6, 0x10000), (5, n), (7, 2 ^ 32), (8, 0xFFF * 2 ^ 45), (9, 2 ^ 57 - 1)]).setL1 0 [l1Line 9 5, l1Line 0x400 0xFF]
/-- R164: `wb` sends the dirty bytes and keeps the line; `inv` gives it up; R166: `dsc` sends only what lies outside the range. -/
theorem test_ranges : ((after (.wb 0 6 5) (ranged 4)).map (fun t => ((t.l1Of 0).length, t.flights.map fun w => w.mask)) == some (2, [0xFF]) &&
    (after (.inv 0 6 5) (ranged 4)).map (fun t => ((t.l1Of 0).length, t.flights.map fun w => w.mask)) == some (1, [0xFF]) &&
    (after (.dsc 0 6 5) (ranged 4)).map (fun t => ((t.l1Of 0).length, t.flights.map fun w => w.mask)) == some (1, [0xF0])) = true := by decide +kernel
theorem witness_RangeOperations :
    (([(0, 0), (4, 1), (64, 1), (2 ^ 32 - 1, 1)] : List (Nat × Nat)).all fun e => let s := ranged e.1
      ([.wb 0 6 5, .inv 0 6 5, .dsc 0 6 5] : List Instr).all fun i => meets2 s i 6 5 fun x y k => !x.2 && !y.2 && decide (y.1.toNat < 2 ^ 32) &&
        decide (x.1.toNat + y.1.toNat ≤ 0xFFF * 2 ^ 45) && (s.pond (pondOf 0)).locks.isEmpty &&
        ((s.l1Of 0).filter fun z => z.asid == k.csrs.asid && decide (y.1.toNat ≠ 0) && decide (z.line * 64 < x.1.toNat + y.1.toNat) &&
          decide (x.1.toNat < z.line * 64 + 64)) == (if e.2 = 0 then [] else [l1Line 0x400 0xFF])) = true ∧
    (([(6, 7), (8, 5), (9, 5)] : List (SReg × SReg)).all fun e => ([.wb 0 e.1 e.2, .inv 0 e.1 e.2, .dsc 0 e.1 e.2] : List Instr).all fun i =>
      meets2 (ranged 4) i e.1 e.2 fun x y _ => !x.2 && !y.2 && decide (2 ^ 32 ≤ y.1.toNat ∨ 2 ^ 57 < x.1.toNat + y.1.toNat ∨ 0xFFF * 2 ^ 45 < x.1.toNat + y.1.toNat)) = true ∧
    (let s := (ranged 4).modPond (pondOf 0) fun p => { p with locks := [{ cmd := 1, core := 0, spans := [cachedSpan 0 0 0x10000 8], write := true, copy := false, seq := 0, at_ := 0 }] }
     ([.inv 0 6 5, .dsc 0 6 5] : List Instr).all fun i => meets2 s i 6 5 fun x y k => !x.2 && !y.2 &&
       (s.pond (pondOf 0)).locks.any fun z => z.meets (cachedSpan k.task.part k.csrs.asid x.1.toNat y.1.toNat)) = true := by decide +kernel

/-! ## Barriers, counters, launches, messages -/

/-- R171, R167: a broken descriptor and a count of 2^47 trap as illegal with their value. -/
theorem test_barriers : (trapped (withRegs s4 [(7, 100)]) (.bar 0 3 7) == some (1, 100) && trapped (withRegs s4 [(7, 2 ^ 47)]) (.bexp 0 3 7) == some (1, BitVec.ofNat 64 (2 ^ 47)) &&
    (coreAfter s4 (.bar 0 3 0)).map (fun k => k.wait) == some (.barrier 3 false) && tarnAfter (withRegs s4 [(7, 2)]) (.evs 0 1 7) 0x100 8 == some 0x8899AABBCCDDEF01) =
      true := by decide +kernel
theorem witness_BarriersAndCounters :
    ((meets1 s4 (.bar 0 15 0) 0 fun x k => !x.2 && (subRect k.csrs.rect x.1).any (fun r => inRect r 0) && s4.quiet &&
        !s4.rootBusy (({ k with bind := k.bind.setIfInBounds 15 (x.1.setWidth 32) } : Core).instanceOf 15)) &&
     (meets1 (withRegs s4 [(7, 100)]) (.bar 0 3 7) 7 fun x k => !x.2 && (subRect k.csrs.rect x.1).isNone) &&
     (meets1 (withRegs s4 [(7, 2 ^ 47 - 1)]) (.bexp 0 3 7) 7 fun x k => !x.2 && decide (x.1.toNat < 2 ^ 47) && !s4.rootBusy (k.instanceOf 3)) &&
     (meets1 (withRegs s4 [(7, 2 ^ 47)]) (.bexp 0 3 7) 7 fun x _ => !x.2 && decide (2 ^ 47 ≤ x.1.toNat)) &&
     (meets2 s4 (.evw 0 1 2) 1 2 fun x y k => !x.2 && !y.2 && reaches s4 k x.1 8 false && s4.tags.isEmpty && !s4.anyMarked (2 ^ 48 + 0x100) 8 && (s4.l1Of 0).isEmpty &&
        decide (y.1.toNat ≤ readNat s4.mem (2 ^ 48 + 0x100) 8)) && s4.quiet && cell s4 (.evs 0 1 3) 1 3 8 fun _ _ => true) = true := by decide +kernel

/-- Core 0 of partition 0 with a record, a slot ring and a notice ring in lines that L2 holds, queue 1 described in the control page. -/
def launcher : State := { withRegs base [(4, 0x1000)] with
    l2 := [l2Line 0x40 0x777, l2Line 0x80 0, l2Line 0xC0 0]
    mem := writeNat (writeNat base.mem (ctlPlace 0 0x1040) 8 0x2001) (ctlPlace 0 0x1048) 8 0x3000 }
/-- Queue 1 of partition 0 full: two slots, two launches not ended. -/
def launcherFull : State := launcher.modQueue 0 1 fun l => { l with next := 2, openSeqs := [0, 1] }
theorem test_launch : (result launcher (.lnch 0 12 4 1) 12 == some 0 && result launcherFull (.lnch 0 12 4 1) 12 == some 0x8000000000000001) = true := by
  decide +kernel
theorem witness_LaunchesAreQueued : ([launcher, launcherFull].all fun s =>
    (meets1 s (.lnch 0 12 4 1) 4 fun x k => !x.2 && x.1.toNat % 64 == 0 && decide (x.1.toNat < 2 ^ 57) && !inWindow x.1.toNat && !inControl x.1.toNat && s.quiet && s.noPartials &&
      k.pages.isEmpty && (s.l2Get k.task.part k.csrs.asid (x.1.toNat / 64)).any (fun l => l.marks == 0 && l.err.isNone) && k.flit.isNone && takes s 12 k false &&
      let q := (s.part 0).queues.toArray.getD 1 LaunchQueue.reset
      let ready (va : Nat) : Bool := !inWindow va && !inControl va && (s.l2Get 0 (s.sequencer 0 1).asid (va / 64)).isSome
      s.queueFull 0 1 == (q.next == 2) && (q.next == 2 || (ready (s.slotAddr 0 1 q.next) &&
        ready (bits (s.queueDesc 0 1 1) 3 54 * 8 + 8 * (q.next % s.slots 0 1)))))) = true ∧ launcher.homesFixed 0 ∧ launcherFull.homesFixed 0 :=
  ⟨by decide +kernel, State.homesFixed_of_table (by decide +kernel), State.homesFixed_of_table (by decide +kernel)⟩

/-- R174, R176: a closed packet leaves whole; a target outside the rectangle takes 0x09. -/
theorem test_messages : ((after (.sendE 0 1 0 3) s4).map (fun t => t.packets.map fun p => (p.queue, p.dst, p.words)) == some [(1, 0, [(5, false)])] &&
    trapped (withRegs s4 [(7, 1)]) (.sendE 0 1 7 3) == some (9, 1) && trapped (withRegs s4 [(7, 1)]) (.wake 0 7) == some (9, 1)) = true := by decide +kernel
theorem witness_MessagesLeave :
    (let s := withRing (withRegs s4 [(7, 1), (9, tarn + 0x1000), (3, 0x77)])
     let open2 := withCore s fun k => { k with outq := k.outq.setIfInBounds 1 (some { words := [5, 6], addr := 0x40, count := 3, bySup := false }) }
     [s, open2].all fun s =>
       (meets1 s (.send 0 1 0 3) 3 fun y k => takes s 61 k y.2) &&
       (meets2 s (.sendE 0 1 0 3) 0 3 fun x y k => !x.2 && (k.give (s.owed 61) 61 y.1 y.2).isSome && inRect k.rect x.1.toNat && chipOf x.1.toNat == chipOf 0) &&
       (meets2 s (.sendE 0 1 7 3) 7 3 fun x y k => !x.2 && (k.give (s.owed 61) 61 y.1 y.2).isSome && decide (x.1.toNat < Config.numCores) && !inRect k.rect x.1.toNat) &&
       (meets2 s (.sendE 0 1 9 3) 9 3 fun x y k => !x.2 && (k.give (s.owed 61) 61 y.1 y.2).isSome && decide (Config.numCores ≤ x.1.toNat) &&
         decide (x.1.toNat < 2 ^ 57) && inWindow x.1.toNat && (windowPlace (chipOf 0) x.1.toNat).any (fun p => placeChip p == chipOf 0 && p == 2 ^ 48 + 0x1000) &&
         (s.rings.headD { part := 0, queue := 0, seq := 0, base := 0, slots := 0, size := 0 }).takes
           ((match k.outq.toArray.getD 1 none with | some o => o.words | none => []) ++ [y.1])) &&
       (meets2 s (.sendRel 0 1 0 3 1) 0 3 fun x y k => !x.2 && s.quiet && s.l2.all (fun x => x.dirty == 0) && (k.give (s.owed 61) 61 y.1 y.2).isSome && inRect k.rect x.1.toNat) &&
       (meets1 s (.wake 0 0) 0 fun x k => !x.2 && decide (x.1.toNat < Config.numCores) && inRect k.rect x.1.toNat) &&
       (meets1 s (.wake 0 7) 7 fun x k => !x.2 && !inRect k.rect x.1.toNat) &&
       (withCore s fun k => { k with wake := true }).clear (.slp 0) && s1.clear (.slp 0) && !((s1.core 0).inq.toArray.getD 2 []).isEmpty) = true := by
  decide +kernel

/-! ## Rows and pairs -/

/-- Core 0 of the row of two, a row's leader, its follower or a released follower, with what its stream holds. -/
def inRow (m : Group → Group) : State := withCore two2 fun k => { k with group := m k.group }
def forwarded (i : Instr) : Forwarded := { word := i.word, next := 0, pc := 0x40, guard := true, fed := [], lcnt := 0, lbeg := 0, lend := 0, frm := 0 }
/-- A member has an instruction of its stream to carry out. -/
def inStream (s : State) (i : Instr) : Bool :=
  let k := s.core s.cur
  k.run == .running && k.wait == .none && k.awaited.isEmpty && k.late.isNone && k.level == .user && k.atStream.before i == .go &&
    k.atStream.guardFor i == (true, false)
/-- R42, R44, R110: `fwd` waits at itself; outside a row `fwd.rel` is illegal. -/
theorem test_rows : ((coreAfter two2 (.fwd 0 0)).map (fun k => (k.wait, k.pc)) == some (.fwd 0, (base.core 0).pc) &&
    trapped two2 (.fwdRel 0) == some (1, 0) && trapped two2 (.echoEnd 0) == some (1, 0)) = true := by decide +kernel
theorem witness_RowsAndPairs :
    ((meets1 two2 (.fwd 0 0) 0 fun x k => !x.2 && (subRect k.csrs.rect x.1).any fun r => inRect r 0 && decide (r.2.2.1 ≤ 64)) &&
     (meets1 two2 (.echo 0 0) 0 fun x k => !x.2 && (subRect k.csrs.rect x.1).any fun r => inRect r 0 && r.2.2 == (2, 1)) &&
     (two2.core 0).task.cls != .prot && two2.clear (.fwdRel 0) && two2.clear (.fwdJoin 0) && two2.clear (.echoEnd 0) &&
     inStream (inRow fun g => { g with fwd := .follower, stream := [forwarded (.fwdRel 0)] }) (.fwdRel 0) &&
     inStream (inRow fun g => { g with fwd := .released }) (.fwdJoin 0) && inStream (inRow fun g => { g with fwd := .leader }) (.fwdJoin 0) &&
     (let s := inRow fun g => { g with pair := .leader, partner := 1, sinceCheck := 0 }
      inStream s (.echoEnd 0) && (s.core 0).group.fwd == .none && (s.core 0).group.storeLog.isEmpty && (s.core 1).group.stream.isEmpty)) = true := by
  decide +kernel

/-! ## Engine commands -/

/-- A fat pointer's bits for a type, before its address. -/
def fat (t : Nat) : Nat := t * 2 ^ 60
/-- Core 0 with a descriptor of eight doublewords in its home tarn at 0x400, named by s1. -/
def described (l : List Nat) : State :=
  withTarn (withRegs base [(1, tarn + 0x400)]) ((List.range 8).map fun j => (0x400 + 8 * j, l.getD j 0))
/-- A `mma` of one tile: bf16 by bf16 into f32 at C, posting to barrier 3, or i8 by i8 into the tile. -/
def matrixDesc (c sparse : Bool) : List Nat :=
  [fat (if c then 9 else 0) + tarn + 0x10000, fat (if c then 9 else 0) + 0x40000, if c then fat 8 + tarn + 0x18000 else 0, 0, 0,
   (if c then 2 ^ 31 + 3 * 2 ^ 32 + 8 * 2 ^ 26 else 0) + (if sparse then 2 ^ 10 else 0)]
/-- A core whose engine queues hold four commands each. -/
def fullQueues (s : State) : State :=
  let l := List.replicate 4 (s.command (s.core 0) none none (.mm (mmFields false 0)))
  withCore s fun k => { k with matq := l, thrq := l, chan := k.chan.map fun ch => { ch with cmds := l } }

/-- R34, R35: a command joins its queue; the fourth neighbour waits; a start in the past traps with the instruction's address. -/
theorem test_matrix_queue : (let s := described (matrixDesc true false)
    (coreAfter s (.mma 0 1)).map (fun k => k.matq.length) == some 1 && frozen (fullQueues s) (.mma 0 1) == some .engine &&
    trapped s (.mmaClk 0 1 0xFFFFFFFF) == some (0x0B, (s.core 0).pc)) = true := by decide +kernel
/-- The checks of R237 and R238 on a descriptor. -/
def matrixOk (s : State) (sparse : Bool) (k : Core) (x : Word) : Bool :=
  (s.descriptorAt k x 64).any fun v =>
    let d := mmFields sparse v
    let set (t : Nat) : Bool := !b8Unset k.csrs.b8fmt t
    s.still && !mmBroken sparse v && set (ptrFmt d.aptr) && set (ptrFmt d.bptr) && (!d.hasC || set d.out.toNat) && s.operandOk k d.aptr d.aSpan d.m d.aStride (d.k * elemBits (ptrFmt d.aptr) / 8) &&
      alignedPtr d.aptr d.astr && s.operandOk k d.bptr d.bSpan d.bRows d.bStride d.bRow && alignedPtr d.bptr d.bstr &&
      (!d.hasC || (s.operandOk k d.cptr d.cSpan d.m d.cStride (d.n * elemBits d.out.toNat / 8) && alignedPtr d.cptr d.cstr))
/-- A tile command's control word passes R245, and its address its checks. -/
def tileOk (s : State) (store vreg : Bool) (x y : Word × Bool) (k : Core) : Bool :=
  let n := y.1.toNat
  let fmt := n % 16
  let d : TileDesc := { store := store, tile := 1, addr := x.1, stride := n / 2 ^ 12 % 2 ^ 20, fmt := BitVec.ofNat 4 fmt, sat := n.testBit 6,
                        vreg := none, data := 0, poison := 0, void := false }
  !x.2 && !y.2 && s.still && !ctlBroken y.1 store vreg && !b8Unset k.csrs.b8fmt fmt &&
    if vreg then decide (x.1.toNat < 32) && x.1.toNat % (32 / elemBits fmt) == 0
    else decide (x.1.toNat < 2 ^ 57) && inWindow x.1.toNat && s.operandOk k x.1 (31 * d.rowStride + 4 * elemBits fmt) 32 d.rowStride (4 * elemBits fmt) &&
      x.1.toNat % Nat.max 1 (elemBits fmt / 8) == 0 && d.stride % Nat.max 1 (elemBits fmt / 8) == 0 &&
      (!store || d.stride == 0 || decide (4 * elemBits fmt ≤ d.stride))
theorem witness_MatrixAndTileCommandsAreIssued :
    (([true, false].all fun c => [true, false].all fun sp => let s := described (matrixDesc c sp)
      let start (k : Core) (l : Word32) : Option (Option Word) := k.startAt (some l)
      if sp then (meets1 s (.mmsp 0 1) 1 fun x k => !x.2 && matrixOk s true k x.1) &&
        (meets1 s (.mmspClk 0 1 100) 1 fun x k => !x.2 && matrixOk s true k x.1 && (start k 100).isSome && (start k 0xFFFFFFFF).isNone)
      else (meets1 s (.mma 0 1) 1 fun x k => !x.2 && matrixOk s false k x.1 && s.lockSpace 3 && s.postFree k (some (3, 4096, true))) &&
        (meets1 s (.mmaClk 0 1 100) 1 fun x k => !x.2 && matrixOk s false k x.1 && (start k 100).isSome && (start k 0xFFFFFFFF).isNone)) &&
     (meets1 (fullQueues (described (matrixDesc true false))) (.mma 0 1) 1 fun x k => matrixOk (fullQueues (described (matrixDesc true false))) false k x.1 &&
       k.matq.length == 4) &&
     (let s := withRegs base [(4, tarn + 0x10000), (5, 8), (6, 2 ^ 11 + 5 * 2 ^ 7 + 8), (7, 9 + 256 * 2 ^ 12), (3, 31)]
      (meets2 s (.mmld 0 4 5 true) 4 5 fun x y k => tileOk s false false x y k) && (meets2 s (.mmld 0 4 7 false) 4 7 fun x y k => tileOk s false false x y k) &&
      (meets2 s (.mmst 0 4 6 true) 4 6 fun x y k => tileOk s true false x y k && s.lockSpace 1 && s.postFree k (some (5, 4096, true))) &&
      (meets2 s (.mmldV 0 3 5 0 true) 3 5 fun x y k => tileOk s false true x y k) && (meets2 s (.mmstV 0 3 5 31 false) 3 5 fun x y k => tileOk s true true x y k))) =
      true := by decide +kernel

/-- A copy of 16 elements of f32 in two rows from the tarn to cached memory, or of one row to the ring at 0x8000, with a barrier. -/
def copyState (ring : Bool) (bm : Nat) : State :=
  let s := described [fat 8 + tarn + 0x10000, fat 8 + (if ring then tarn + 0x8000 else 0x40000), 0, 15 * 2 ^ 32 + (if ring then 0 else 2 ^ 16),
    (if ring then 2 ^ 15 else 0) + bm * 2 ^ 13 + (if bm = 0 then 0 else 3 * 2 ^ 9)]
  { withRegs s [(7, 9)] with rings := [{ part := 0, queue := 0, seq := 0, base := 2 ^ 48 + 0x8000, slots := 4, size := 64 }] }
theorem test_copy_queue : ((coreAfter (copyState false 0) (.cpy 0 1 0 false 2)).map (fun k => k.chan.toList.map fun ch => ch.cmds.length) == some [0, 0, 1, 0] &&
    (after (.cpy 0 1 7 false 2) (copyState true 1)).map (fun t => t.landings) == some [(1, 2 ^ 48 + 0x8008, 9)]) = true := by decide +kernel
/-- The checks of R253 on a copy's descriptor, sequence number and spans. -/
def copyOk (s : State) (up ring : Bool) (x y : Word) (k : Core) : Bool :=
  match s.descriptorAt k x 64 with
  | none => false
  | some v =>
    let found : Option Ring := if copyRing v then (s.setCore 0 k).ringAt ((copyFields v up).dst.toNat % 2 ^ 57) else none
    let d : CopyDesc := match found with
      | some r => { copyFields v up with ring := some (y, r.slots, r.size) }
      | none => copyFields v up
    !copyBroken v ring && copyRing v == ring && s.apart k d.src d.srcSpan (BitVec.ofNat 64 d.firstByte) d.dstSpan &&
      found.all (fun r => s.apart k d.src d.srcSpan (d.dst + BitVec.ofNat 64 (8 * (y.toNat % r.slots))) 8) &&
      !b8Unset k.csrs.b8fmt (ptrFmt d.src) && !b8Unset k.csrs.b8fmt (ptrFmt d.dst) && 
      s.operandOk k d.src d.srcSpan d.rows d.srcStride (d.len * elemBits (ptrFmt d.src) / 8) && alignedPtr d.src d.sstr &&
      s.operandOk k d.dst d.dstSpan d.rows d.rowStride d.rowBytes && alignedPtr d.dst d.dstr && decide (d.firstByte < 2 ^ 57) && ptrBlg d.src == 0 &&
      (!ring || found.any fun r => y != BitVec.allOnes 64 && decide (d.dataBytes ≤ r.size))
theorem witness_CopiesAreIssued :
    ([(false, 0), (false, 1), (false, 2), (true, 0), (true, 1)].all fun (e : Bool × Nat) =>
      let b : SReg := if e.1 then 7 else 0
      let s : State := copyState e.1 e.2
      s.still && s.lockSpace 2 && (meets2 s (.cpy 0 1 b false 0) 1 b fun x y k => !x.2 && !y.2 && copyOk s false e.1 x.1 y.1 k) &&
        meets2 s (.cpyClk 0 1 b true 3 100) 1 b fun x y k => !x.2 && !y.2 && copyOk s true e.1 x.1 y.1 k) = true := by decide +kernel

/-- The threshold commands: an image of 4 rows and 2 columns; 3 samples; 2 trees; with a barrier or without one. -/
def thresholdState (pb : Bool) : State :=
  let s := described [tarn + 0x10000, tarn + 0x18000, 0, 2 * 2 ^ 32 + 2 ^ 22 + 2 ^ 16 + 2 ^ 11 + (if pb then 2 ^ 10 + 5 * 2 ^ 6 else 0)]
  let s := withRegs s [(6, tarn + 0x10000), (7, 2 ^ 26 + 3 * 2 ^ 20 + 2 ^ 15 + 2 ^ 10 + (if pb then 2 ^ 9 + 5 * 2 ^ 5 else 0)), (8, tarn + 0x800)]
  withTarn s [(0x800, tarn + 0x10000), (0x808, tarn + 0x18000), (0x810, tarn + 0x20000), (0x818, 16),
    (0x820, 2 * 2 ^ 32 + 3 * 2 ^ 16 + 2 ^ 11 + (if pb then 2 ^ 10 + 5 * 2 ^ 6 else 0)), (0x828, 0), (0x830, 0), (0x838, 0)]
theorem test_threshold_queue : ((coreAfter (thresholdState true) (.tload 0 6 7)).map (fun k => k.thrq.length) == some 1 &&
    (coreAfter (thresholdState false) (.teval 0 1)).map (fun k => k.thrq.length) == some 1 &&
    (coreAfter (thresholdState true) (.tlv 0 8)).map (fun k => k.thrq.length) == some 1) = true := by decide +kernel
theorem witness_ThresholdCommandsAreIssued :
    ([true, false].all fun pb => let s := thresholdState pb
      let word (k : Core) (n : Nat) (w : Word) (stride : Nat) : Bool :=
        inWindow (w.toNat % 2 ^ 57) && s.operandOk k w n 1 0 n && w.toNat % 4 == 0 && stride % 4 == 0
      s.still && (meets2 s (.tload 0 6 7) 6 7 fun x y k => let n := y.1.toNat
        !x.2 && !y.2 && decide (x.1.toNat < 2 ^ 57) && inWindow x.1.toNat && x.1.toNat % 16 == 0 && s.operandOk k x.1 (16 * 4 * 2) 1 0 (16 * 4 * 2) && decide (n < 2 ^ 32) &&
          n % 16 == 0 && (n.testBit 9 || n / 2 ^ 5 % 16 == 0) && n / 2 ^ 26 % 64 == 1 && n / 2 ^ 20 % 64 == 3 && n / 2 ^ 15 % 32 == 1 && n / 2 ^ 10 % 32 == 1 &&
          decide (3 ≤ k.columns 0)) &&
      (([.teval 0 1, .tevalClk 0 1 100] : List Instr).all fun i => meets1 s i 1 fun x k => !x.2 && (s.descriptorAt k x.1 64).any fun v => let d := tevalFields v
        !tevalBroken v (k.columns 0) && word k d.fSpan d.fptr d.fstr && word k d.lSpan d.lptr d.lstr &&
          s.apart k d.fptr d.fSpan d.lptr d.lSpan) &&
      (meets1 s (.tlv 0 8) 8 fun x k => !x.2 && (s.descriptorAt k x.1 64).any fun v => let d := tlvFields v
        !tlvBroken v && word k d.iSpan d.iptr d.istr && word k d.vSpan d.vptr 0 && word k (4 * d.ns) d.optr 0 &&
          s.apart k d.optr (4 * d.ns) d.iptr d.iSpan && s.apart k d.optr (4 * d.ns) d.vptr d.vSpan)) = true := by decide +kernel

/-- Member 3 of two, with a descriptor and a member list in lines that L2 holds and a handle of slot 0, generation 1. -/
def collState (pb : Bool) : State :=
  let desc : List Nat := [fat 8 + 0x10000, fat 8 + 0x20000, 0x3000, 2 * 2 ^ 16 + 2 ^ 4, 64, 0, 0, if pb then 0x85 else 0]
  let s := (withRegs base [(6, 0x2000), (7, 1)]).modPart 0 fun q => { q with
    peers := [{ num := 3, own := true, device := 0, part := 0 }, { num := 4, own := false, device := 1, part := 0 }], handles := [(0, { gen := 1, live := true, base := 0x10000, len := 0x100000, owner := 0, colls := 5 })] }
  { s with l2 := [l2Line 0x80 (desc.reverse.foldl (fun a x => a * 2 ^ 64 + x) 0), l2Line 0xC0 (3 + 4 * 2 ^ 16)]
           mem := writeNat s.mem (ctlPlace 0 0x1210) 8 4 }
/-- R274: the command is the slot's sixth; R276: the handle's status then counts one active command; 5 is no live handle. -/
theorem test_collective : ((after (.coll 0 6 7) (collState true)).map (fun t => t.colls.map fun c => (c.ordinal, c.slot, c.desc.members)) == some [(6, 0, [3, 4])] &&
    ((after (.coll 0 6 7) (collState false)).bind fun t => result t (.collqDone 0 9 7) 9) == some 0 &&
    trapped (withRegs base [(3, 5)]) (.collqSt 0 9 3) == some (0x11, 5)) = true := by decide +kernel
theorem witness_CollectivesAndQueries :
    ([true, false].all fun pb => let s := collState pb
      ([.coll 0 6 7, .collClk 0 6 7 200] : List Instr).all fun i => meets2 s i 6 7 fun x y k => !x.2 && !y.2 && s.quiet && s.noPartials && k.pages.isEmpty &&
        x.1.toNat % 64 == 0 && !inWindow x.1.toNat && !inControl x.1.toNat && (s.l2Get 0 k.csrs.asid (x.1.toNat / 64)).any fun l =>
          let v := l.data.toNat
          let list := collWord v 2
          let n := (collFields v []).count
          l.marks == 0 && l.err.isNone && k.flit.isNone && meshOk v && !inWindow list && !inControl list && decide (list % 64 + 2 * n ≤ 64) && (s.l2Get 0 k.csrs.asid (list / 64)).any fun m =>
            let d := collFields v ((List.range n).map fun j => m.data.toNat / 2 ^ (8 * (list % 64) + 16 * j) % 2 ^ 16)
            let src := d.src.toNat % 2 ^ 57
            let dst := d.dst.toNat % 2 ^ 57
            m.marks == 0 && m.err.isNone && !collBroken v d && decide (src + d.srcBytes ≤ 2 ^ 57 - 2 ^ 45) && src % 4 == 0 &&
              decide (dst + d.dstBytes ≤ 2 ^ 57 - 2 ^ 45) && dst % 4 == 0 && !d.layoutFault &&
              ((s.setCore 0 k).handlePass 0 y.1).any (fun e => decide (e.2.base ≤ src ∧ src + d.srcBytes ≤ e.2.base + e.2.len ∧ e.2.base ≤ dst ∧
                dst + d.dstBytes ≤ e.2.base + e.2.len)) &&
              d.members == [3, 4] && (s.part 0).self == 3 && (s.part 0).peers.map (fun e => e.num) == [3, 4] && s.colls.isEmpty && s.lockSpace 2 &&
              decide (s.springColls 0 ((s.part 0).homeSpring src) < 64) && s.postFree k (some (5, d.dstBytes, true)) && (k.startAt (some 200)).isSome) = true ∧
    (let s := collState false
     (s.l1Of 0).isEmpty && s.clear (.cpyqWm 0 9 1) && s.clear (.cpyqOut 0 9 1) && s.clear (.cpyqSt 0 9 1) && takes s 9 (s.core 0) false &&
     (meets1 s (.collqSt 0 9 7) 7 fun x k => !x.2 && ((s.setCore 0 k).handlePass 0 x.1).isSome) &&
     (meets1 s (.collqDone 0 9 7) 7 fun x k => !x.2 && ((s.setCore 0 k).handlePass 0 x.1).isSome) &&
     (meets1 s (.collqSt 0 9 6) 6 fun x k => !x.2 && ((s.setCore 0 k).handlePass 0 x.1).isNone) &&
     (meets1 s (.collqDone 0 9 6) 6 fun x k => !x.2 && ((s.setCore 0 k).handlePass 0 x.1).isNone)) = true ∧
    [true, false].all (fun pb => ((collState pb).part 0).table.isEmpty) = true := by decide +kernel
/-- R265, R276: a dirty line over DST is written back and given up; a query that acquires drops a clean line of released-mode memory. -/
def collLines : State := (collState false).setL1 0 [l1Line 0x800 0xFF, l1Line 0x400 0]
theorem test_collective_lines : ((after (.coll 0 6 7) collLines).map (fun t => ((t.l1Of 0).map fun l => l.line, t.flights.map fun w => (w.line, w.mask))) ==
      some ([0x400], [(0x800, 0xFF)]) &&
    (after (.collqDone 0 9 7) (collLines.setL1 0 [l1Line 0x400 0])).map (fun t => (t.l1Of 0).length) == some 0) = true := by decide +kernel
theorem witness_collective_lines :
    (collLines.quietBut (fun z => z.asid == 0 && (z.line == 0x80 || z.line == 0xC0)) && collLines.noPartials && collLines.clear (.coll 0 6 7) &&
     (let s := collLines.setL1 0 [l1Line 0x400 0]
      s.cleanL1 && s.clear (.cpyqSt 0 9 1) && s.clear (.collqDone 0 9 7))) = true ∧ (collState true).homesFixed 0 ∧ collLines.homesFixed 0 :=
  ⟨by decide +kernel, State.homesFixed_of_table (by decide +kernel), State.homesFixed_of_table (by decide +kernel)⟩

/-! ## Numbers and vector instructions -/

/-- 32-bit elements of a vector register, the first lowest. -/
def elems (l : List Nat) : BitVec 1024 := BitVec.ofNat 1024 (l.reverse.foldl (fun a x => a * 2 ^ 32 + x) 0)
/-- The masked reduction of chapter 11: its 2 by 4 tile in v1, 1.5 and 3.5 in v4 and v5, mask 2 the two middle elements of row 0. -/
def vectors : State := withCore (withRegs base [(3, 8 * 2 ^ 60 + tarn + 0x1000), (4, 0x3FC00000), (5, 8)]) fun k =>
  { k with
    csrs := { k.csrs with shape := 0x12, fpctl := 1 }
    regs := (((((k.regs.setVec 1 (elems [0x3F800000, 0x40000000, 0x40400000, 0x40800000, 0x3F800000, 0x3F800000, 0x3F800000, 0x3F800000]) 0).setVec 4
      (elems (List.replicate 8 0x3FC00000)) 0).setVec 6 (elems [7, 6, 5, 4, 3, 2, 1, 0]) 0).setMask 2 0x06).setMask 3 0x0E).setMask 4 0xF7 }
/-- A 32-bit element and a mask after an instruction. -/
def elemAfter (s : State) (i : Instr) (v : VReg) (n : Nat) : Option Nat := (coreAfter s i).map fun k => (k.regs.vec v).toNat / 2 ^ (32 * n) % 2 ^ 32
def maskAfter (s : State) (i : Instr) (m : BitVec 3) : Option (BitVec 128) := (coreAfter s i).map fun k => k.regs.mask m

/-- Chapter 11's example: v1 > 1.5 is 0x0E, `and` of 0x0E and 0xF7 is 0x06; row 0 under it sums to 5.0, row 1 to −0. -/
theorem test_masks : (maskAfter vectors (.vcmp 0 3 1 4 8 5) 3 == some 0x0E && maskAfter vectors (.vmsk 0 2 3 4 0) 2 == some 0x06 &&
    elemAfter vectors (.vectorPrefix 2 false 0 0 0xD80C4208) 3 0 == some 0x40A00000 &&
    elemAfter vectors (.vectorPrefix 2 false 0 0 0xD80C4208) 3 1 == some 0x80000000 &&
    elemAfter vectors (.vectorPrefix 2 false 0 0 0xD80C4208) 3 2 == some 0) = true := by decide +kernel
/-- R216: 3.0 + 1.5, 2.0 × 1.5, 1.0 / 1.5 to nearest and downward, the root of 4.0; R217: `vfma` of 2.0 · 1.5 + 2.0. -/
theorem test_arithmetic : (elemAfter vectors (.vadd 0 2 1 4 8) 2 2 == some 0x40900000 && elemAfter vectors (.vmul 0 2 1 4 8 false) 2 1 == some 0x40400000 &&
    elemAfter vectors (.vdiv 0 2 1 4 8) 2 0 == some 0x3F2AAAAB &&
    elemAfter (withCore vectors fun k => { k with csrs := { k.csrs with fpctl := 3 } }) (.vdiv 0 2 1 4 8) 2 0 == some 0x3F2AAAAA &&
    elemAfter vectors (.vsqr 0 2 1 8) 2 3 == some 0x40000000 &&
    elemAfter (withCore vectors fun k => { k with regs := k.regs.setVec 2 (k.regs.vec 1) 0 }) (.vfma 0 2 1 4 8 0) 2 1 == some 0x40A00000) = true := by
  decide +kernel
/-- R206, R207: masked off, an element keeps its value, or with Z is zero; R209: n32 3 − 5 wraps, s8 saturates only where told. -/
theorem test_elements : (elemAfter vectors (.vectorPrefix 2 false 0 0 ((Instr.vmov 0 6 1 8).word)) 6 0 == some 7 &&
    elemAfter vectors (.vectorPrefix 2 true 0 0 ((Instr.vmov 0 6 1 8).word)) 6 0 == some 0 &&
    elemAfter vectors (.vectorPrefix 2 true 0 0 ((Instr.vmov 0 6 1 8).word)) 6 1 == some 0x40000000 &&
    elemAfter vectors (.vmovBc 0 9 4 8) 9 7 == some 0x3FC00000 && elemAfter vectors (.vpermTr 0 9 1 8) 9 1 == some 0x3F800000 &&
    elemAfter vectors (.vint 0 9 6 6 7 4) 9 5 == some 8) = true := by decide +kernel
/-- R227's own numbers: from a = 1, b = 2 a step returns 0x0380_0002, and leaves RNGS0 = 2, RNGS1 = 0x80103. -/
theorem test_random : (rngOut (1 + 2 ^ 64 * 2) == 0x03800002 && rngNext (1 + 2 ^ 64 * 2) == 2 + 2 ^ 64 * 0x80103) = true := by decide +kernel
/-- R183, R192: 2^24 + 1 ties to 2^24; the largest f32 is finite; the negative quiet NaN is a NaN. -/
theorem test_rounding : (addF32 0x4B800000 0x3F800000 == 0x4B800000 && addF32 0x7F7FFFFF 0x7F7FFFFF == 0x7F800000 &&
    addF32 0x7F800000 0xFF800000 == 0x7FC00000 && addF32 0x3F800000 0xBF800000 == 0) = true := by decide +kernel

/-- An environment in a rounding mode. -/
def env (m : Mode) (sat : Bool) : Env := { b8 := 0, mode := m, sat := sat, satn := false, fz := false }
theorem witness_RoundingIsCorrect :
    (finite32 0x3F800000 ∧ finite32 0x40000000 ∧ finite32 0x40400000 ∧ value32 0x40400000 ≠ 0 ∧ value32 0x3F800000 + value32 0x40000000 = value32 0x40400000) ∧
    (value32 0x40400000 - value32 0x40000000 = value32 0x3F800000 ∧ value32 0x3F800000 * value32 0x40400000 = value32 0x40400000 * 2 ^ 149) ∧
    ((env 1 false).fz = false ∧ 7 % 2 ^ 2 ≠ 0 ∧ 8 % 2 ^ 2 = 0 ∧ (roundShift 1 false 6 2 false).1 = 2) := by
  unfold finite32; decide +kernel
theorem witness_ElementOperations :
    ([0, 1, 2, 3, 4, 5, 6, 7].all fun t => decide (2 ^ elemBits t - 1 < 2 ^ elemBits t)) = true ∧ finite32 0xFF7FFFFF ∧ finite32 1 ∧
    0xFF7FFFFF % 2 ^ 31 ≠ 0 ∧ Nat.testBit 0xFF7FFFFF 31 = true ∧ (env 3 true).mode ≠ 5 := by
  unfold finite32; decide +kernel

/-- A vector instruction is clear to go alone, and under a prefix with mask 2 zeroing where the prefix may stand before it. -/
def alone (s : State) (j : Instr) : Bool := s.clear j
def under (s : State) (j : Instr) (r : BitVec 3) (v : VReg) : Bool :=
  prefixed j.word == some j && s.clear (.vectorPrefix 2 true r v j.word)
theorem witness_VectorArithmetic :
    ([.vadd 0 2 1 4 8, .vsub 0 2 1 4 8, .vmul 0 2 1 4 8 false, .vmul 0 2 1 4 6 true, .vmin 0 2 1 4 8, .vmax 0 31 1 4 7, .vdiv 0 2 1 4 8, .vsqr 0 2 1 8,
      .vsfn 0 2 1 8 3, .vfma 0 2 1 4 8 2, .vcvt 0 2 1 10 8, .vint 0 2 1 6 7 6, .vint 0 2 1 0 7 8] : List Instr).all (alone vectors) = true ∧
    (([(.vadd 0 2 1 4 8, 3), (.vsub 0 2 1 4 8, 2), (.vmul 0 2 1 4 8 false, 1), (.vmin 0 2 1 4 8, 0), (.vmax 0 2 1 4 8, 0), (.vdiv 0 2 1 4 8, 4), (.vsqr 0 2 1 8, 5),
      (.vcvt 0 2 1 10 8, 5), (.vint 0 2 1 6 7 0, 0)] : List (Instr × BitVec 3)).all (fun e => under vectors e.1 e.2 0)) = true ∧
    (under vectors (.vfma 0 2 1 4 8 0) 1 6 && under vectors (.vmul 0 2 1 4 6 true) 0 0 && under vectors (.vsfn 0 2 1 8 0) 0 0) = true := by decide +kernel
theorem witness_VectorMoves :
    (([.vmov 0 2 1 8, .vsel 0 2 1 4 8 2, .vpermTr 0 2 1 8, .vpermIdx 0 2 1 6 8, .vmovBc 0 2 4 8] : List Instr).all fun j => alone vectors j && under vectors j 0 0) =
      true ∧ (meets1 vectors (.vmovBc 0 2 4 8) 4 fun _ _ => true) = true ∧ (meets1 s1 (.vmovBc 0 2 62 8) 62 fun x _ => x.1 == 9) = true := by decide +kernel
theorem witness_VectorMasksAndReductions :
    (([.vcmp 0 1 1 4 8 5, .vcmp 0 7 1 4 0 1, .vmsk 0 1 2 3 2, .vmsk 0 1 2 0 4, .vmsk 0 1 0 0 5, .vred 0 2 1 8 0 0, .vred 0 2 1 8 1 2, .vred 0 2 1 7 2 5] : List Instr).all
      fun j => alone vectors j && under vectors j 0 0) = true := by decide +kernel

/-- A tarn with a row of words at 0x1000, indices in v6, and what a vector access there meets. -/
def vectorMem : State := { withTarn vectors [(0x1000, 0x4000000_03F800000), (0x1008, 0x0040), (0x1010, 5)] with marks := [(2 ^ 48 + 0x1004) / 4] }
def spots (s : State) (k : Core) (ptr : Word) (m : Sel) (write : Bool) (f : Nat → Spot) : Bool :=
  ((List.range k.count).filter fun j => k.onMask m (ptrWidth ptr) j).all fun j => s.spotOk k write (f j) && s.spotIn (2 ^ 48 / 2 ^ 21) (f j)
theorem test_vector_memory : (elemAfter vectorMem (.vld 0 2 3 0) 2 0 == some 0x03F800000 &&
    (coreAfter vectorMem (.vld 0 2 3 0)).map (fun k => k.regs.vecPoison 2) == some 2 &&
    elemAfter vectorMem (.vgat 0 2 3 6) 2 3 == some 5 && tarnAfter vectorMem (.vst 0 1 3 0) 0x1000 8 == some 0x400000003F800000 &&
    tarnAfter vectorMem (.vsct 0 1 3 6) 0x1000 8 == some 0x3F8000003F800000) = true := by decide +kernel
/-- The same in a turn that accesses only some elements. -/
def parted (e : List Nat) : State := withCore vectorMem fun k => { k with picks := some e }
/-- A state as other agents leave it before the next turn of core 0, which accesses what is left. -/
def resumed (s : State) (m : Memory) : State := { s with mem := m, cur := 0 }.modCore 0 fun k => { k with picks := none }
/-- R214: another core's write to elements 0 and 1 falls between the accesses of a `vld` to them, and element 1 is the old one; a `vst`
whose turn lists element 1 stores only that one at first. -/
theorem test_vector_parts :
    ((after (.vld 0 2 3 0) (parted [1, 3])).map (fun t => ((t.core 0).freeze.map fun z => z.kind, (t.core 0).partway.map fun w => w.reads.map fun e => e.1, (t.core 0).pc)) ==
       some (some .element, some [1, 3], (vectorMem.core 0).pc) &&
     (after (.vld 0 2 3 0) (parted [1, 3])).map (fun t => let u := resumed t (writeNat t.mem (2 ^ 48 + 0x1000) 8 0x7000000060000000)
       (elemAfter u (.vld 0 2 3 0) 2 0, elemAfter u (.vld 0 2 3 0) 2 1, (coreAfter u (.vld 0 2 3 0)).map fun k => k.partway)) ==
       some (some 0x60000000, elemAfter vectorMem (.vld 0 2 3 0) 2 1, some none) &&
     (after (.vst 0 1 3 0) { parted [1] with mem := [] }).map (fun t =>
       (readNat t.mem (2 ^ 48 + 0x1000) 8, (resumed t t.mem |> after (.vst 0 1 3 0)).map fun u => readNat u.mem (2 ^ 48 + 0x1000) 8)) ==
       some (0x4000000000000000, some 0x400000003F800000)) = true := by decide +kernel
theorem witness_VectorLoads :
    ((let s := parted [1]
      (s.core 0).partway.isNone && (vectorMem.core 0).picks.isNone && s.clear (.vld 0 2 3 0) && s.clear (.vst 0 1 3 0) && decide (1 < (s.core 0).count)) &&
     vectorMem.latent.isEmpty && ([(0, false), (2, true)].all fun (e : Sel × Bool) => let m := e.1
      let wrap (j : Instr) : Instr := if e.2 then .vectorPrefix 2 false 0 0 j.word else j
      (meets2 vectorMem (wrap (.vld 0 2 3 0)) 3 0 fun x y k => !x.2 && !y.2 && k.pointerOk x.1 y.1 false false &&
        spots vectorMem k x.1 m false fun j => indexedSpot x.1 j (j : Nat)) &&
      (meets2 vectorMem (wrap (.vld 0 2 3 5)) 3 5 fun x y k => !x.2 && !y.2 && k.pointerOk x.1 y.1 true false && ptrBlg x.1 == 0 &&
        spots vectorMem k x.1 m false fun j => stridedSpot x.1 y.1 k.cols j) &&
      (meets1 vectorMem (wrap (.vgat 0 2 3 6)) 3 fun x k => !x.2 && k.pointerOk x.1 0 false true && k.regs.vecPoison 6 == 0 &&
        spots vectorMem k x.1 m false fun j => indexedSpot x.1 j (BitVec.ofNat 32 ((k.regs.vec 6).toNat / 2 ^ (32 * j))).toInt) &&
      (let s := withRing (withRegs vectors [(7, 8 * 2 ^ 60 + tarn + 0x1040), (8, 0x77)])
       meets2 s (wrap (.vldTag 0 2 7 8)) 7 8 fun x y k => !x.2 && !y.2 && k.pointerOk x.1 0 false false && ptrBlg x.1 == 0 && inWindow (ptrVa x.1) && s.tags.isEmpty &&
         (windowPlace 0 (ptrVa x.1)).any (fun p => (s.ringSlot k.task p).any fun r => r.2 == 1 && readNat s.mem (r.1.base + 8) 8 == y.1.toNat) &&
         spots s k x.1 m false (fun j => indexedSpot x.1 j (j : Nat)) &&
         (List.range k.count).all fun j => decide (2 ^ 48 + 0x1040 ≤ s.placeAt (indexedSpot x.1 j (j : Nat)).ea ∧
           s.placeAt (indexedSpot x.1 j (j : Nat)).ea + 4 ≤ 2 ^ 48 + 0x1060)))) = true := by decide +kernel
theorem witness_VectorStores :
    (vectorMem.latent.isEmpty && Memory.wf vectorMem.mem && ([(0, false), (2, true)].all fun (e : Sel × Bool) => let m := e.1
      let wrap (j : Instr) : Instr := if e.2 then .vectorPrefix 2 false 0 0 j.word else j
      let clean (k : Core) (x : Word) (f : Nat → Spot) : Bool := k.fenceTag.isNone && spots vectorMem k x m true f &&
        (List.range k.count).all fun j => !(vectorMem.storeSpot k x 1 (f j)).2.1
      (meets2 vectorMem (wrap (.vst 0 1 3 0)) 3 0 fun x y k => !x.2 && !y.2 && k.pointerOk x.1 y.1 false false && clean k x.1 fun j => indexedSpot x.1 j (j : Nat)) &&
      (meets2 vectorMem (wrap (.vst 0 1 3 5)) 3 5 fun x y k => !x.2 && !y.2 && k.pointerOk x.1 y.1 true false && ptrBlg x.1 == 0 &&
        clean k x.1 fun j => stridedSpot x.1 y.1 k.cols j) &&
      (meets1 vectorMem (wrap (.vsct 0 1 3 6)) 3 fun x k => !x.2 && k.pointerOk x.1 0 false true && k.regs.vecPoison 6 == 0 &&
        clean k x.1 fun j => indexedSpot x.1 j (BitVec.ofNat 32 ((k.regs.vec 6).toNat / 2 ^ (32 * j))).toInt))) = true := by decide +kernel
theorem witness_RandomNumbers : (base.clear (.vshp 0 4 4) && vectors.clear (.rng 0 5 7) && vectors.clear (.rng 0 5 8) && base.clear (.rngJump 0 7) &&
    decide (2 ^ 128 - 1 < 2 ^ 128)) = true := by decide +kernel

/-! ## What befalls cores -/

/-- Core 0 frozen at the instruction whose word is `w`, since cycle 0, at cycle 2^32. -/
def frozenAt (w : Nat) (kind : FreezeKind) : State :=
  let s : State := { State.reset.withFetchWord 32 w with fabric := 2 ^ 32 }
  withCore (withRegs s [(1, tarn + 0x100), (2, 1)]) fun k => { k with freeze := some { kind := kind, pc := k.pc, since := 0 } }
/-- Core 0 with causes pending and energy used. -/
def pending (l : List (Nat × Word)) : State := withCore base fun k => { k with pend := l, csrs := { k.csrs with equota := 7, xvec := 0x2000 } }
/-- R340, R349: of the energy quota and a deadline the deadline comes first; alone the quota's `XVAL` is `EQUOTA`; R311: 0x0E kills. -/
theorem test_boundary :
    (trapped (pending [(0x10, 3), (0x0A, 9)]) .boundaryEvent == some (0x0A, 9) && trapped (pending [(0x10, 3)]) .boundaryEvent == some (0x10, 7) &&
     (coreAfter (pending [(0x10, 3), (0x0A, 9)]) .boundaryEvent).map (fun k => k.pend) == some [(0x10, 3)] &&
     (coreAfter (pending [(0x0E, 4)]) .boundaryEvent).map (fun k => (k.killed, k.csrs.xval, k.pc)) == some (true, 4, 0x2000) &&
     trapped (frozenAt 0x9C000000 .sleep) (.slpTimeout 0) == some (0x0A, 0) &&
     trapped (frozenAt 0x68000420 .awaitCounter) (.evwTimeout 0) == some (0x0A, BitVec.ofNat 64 (tarn + 0x100))) = true := by decide +kernel
theorem test_energy :
    ((coreAfter (withCore base fun k => { k with energy := 10 ^ 9 + 5, csrs := { k.csrs with equota := 1 } }) (.energyDecrement 0)).map
        (fun k => (k.energy, k.csrs.equota, k.pend)) == some (5, 0, [(0x10, 0)]) &&
     (coreAfter { withCore base (fun k => { k with csrs := { k.csrs with equota := 0xFFFFFFFE }, task := { k.task with grant := 100 } }) with
        fabric := 2 * 10 ^ 8 } .energyPeriodStart).map (fun k => k.csrs.equota) == some 98) = true := by decide +kernel
/-- A core of the device that an instruction leaves. -/
def otherAfter (s : State) (i : Instr) (c : Nat) : Option Core := (after i s).map fun t => t.core c
def fetched (s : State) (i : Instr) : Bool :=
  match fetch s with
  | .ok j t => j == i && t.cur == 0 && t.clear i
  | _ => false
theorem witness_BoundariesWaitsAndEnergy :
    (([pending [(0x10, 3), (0x0A, 9)], pending [(0x0A, 9)], pending [(0x0E, 4), (0x19, 1)], pending [(0x10, 3)]].all fun s => let k := s.core 0
      s.cur == 0 && k.run == .running && k.wait == .none && k.level == .user && k.group.pair == .none && k.group.fwd == .none) &&
     (let k := (withCore base fun k => { k with late := some { reg := 5, data := 3, poison := 1, sup := false, void := false } }).core 0
      k.late.isSome && k.group.pair == .none) &&
     ([(0x9C000000, .sleep), (0x54000000, .haltWork), (0xA2040000, .engine), (0x68000420, .awaitCounter)] : List (Nat × FreezeKind)).all (fun e =>
       let s := frozenAt e.1 e.2
       !(s.core 0).wake && (s.core 0).inq == Vector.replicate 4 [] && (s.core 0).group.pair == .none &&
       (s.core 0).freeze.any fun z => z.kind == e.2 && (s.core 0).run == .running && (s.core 0).level == .user &&
         decide (z.since + (if (s.core 0).csrs.bartmo = 0 then 2 ^ 32 else (s.core 0).csrs.bartmo.toNat) ≤ s.fabric)) &&
     fetched (frozenAt 0x68000420 .awaitCounter) (.evw 0 1 2) &&
     ([1, 0].all fun b => match fetch ({ withRegs (frozenAt 0x68000420 .awaitCounter) [(2, b)] with cur := 0 } : State) with
      | .ok (.evw _ 1 2) t => (windowPlace (chipOf t.cur) (tarn + 0x100)) == some (2 ^ 48 + 0x100) && inWindow (tarn + 0x100) && t.tags.isEmpty &&
          t.latent.isEmpty && (t.core t.cur).flit.isNone && !t.anyMarked (2 ^ 48 + 0x100) 8 && decide (readNat t.mem (2 ^ 48 + 0x100) 8 < b) == (b == 1)
      | _ => false) &&
     (let s := frozenAt 0x54000000 .haltWork
      fetched s (.halt 0) && (s.core 0).level == .user && (s.core 0).openPacket.isNone && !s.engineWork 0 && (s.core 0).slog.isEmpty &&
        (s.core 0).loss.isNone && (s.l1Of 0).isEmpty && s.flights.isEmpty &&
        (otherAfter s (.taskEnd 0) 0).any (fun k => k.run == .ended false)) &&
     decide ((({ base with fabric := 2 * 10 ^ 8 } : State)).dev.period < ({ base with fabric := 2 * 10 ^ 8 } : State).fabric / 2 / 10 ^ 8)) = true := by
  decide +kernel

/-! ## Rows, pairs and barriers that go on -/

/-- Cores 0 and 1 of a launch of two, changed by functions. -/
def row (f g : Core → Core) : State := (two2.setCore 1 (g (two2.core 0))).setCore 0 (f (two2.core 0))
/-- Both wait at `fwd`; both at `echo`; both at `fwd.join`, with the leader; all since cycle 0 at cycle 2^32. -/
def waitingRow (w : Wait) (role0 role1 : FwdRole) : State :=
  { row (fun k => { k with wait := w, group := { k.group with fwd := role0 } }) (fun k => { k with wait := w, group := { k.group with fwd := role1 } }) with
    fabric := 2 ^ 32 }
/-- Core 0 waits there alone. -/
def alone0 (w : Wait) (role0 role1 : FwdRole) : State := (waitingRow w role0 role1).modCore 1 fun k => { k with wait := .none }
theorem test_rows_go_on :
    (let pc := (base.core 0).pc
     (otherAfter (alone0 (.fwd 0) .leader .follower) (.fwdWaitTimeout 0) 0).any (fun k => k.wait == .none && k.csrs.xcause == 0x0A && k.csrs.xval == pc) &&
     [0, 1].all fun c =>
      (otherAfter (waitingRow (.fwd 0) .leader .follower) (.forwardingStarts 0) c).any (fun k => k.wait == .none && k.pc == pc + 4) &&
      (otherAfter (waitingRow (.echo 0) .none .none) (.forwardingStarts 0) c).any (fun k => k.wait == .none && k.pc == pc + 4 && k.group.partner == 1 - c &&
        k.group.pair == (if c = 0 then .leader else .follower)) &&
      (otherAfter (waitingRow .join .leader .released) (.forwardingRejoin 0) c).any (fun k => k.wait == .none && k.pc == pc + 4) &&
      (otherAfter (waitingRow (.fwd 0) .leader .follower) (.fwdWaitTimeout 0) c).any (fun k => k.wait == .fwd 0)) = true := by
  decide +kernel
/-- A barrier instance of core 0's launch at the root of its pond, over cores 0 and 1, which have both arrived. -/
def barrier0 (arrived : List Nat) : Barrier :=
  { name := { part := 0, queue := 0, seq := 0, num := 3, desc := 0, x := 0, y := 0, w := 2, h := 1 }, held := true, phase := 5, arrived := arrived, counter := 0, posts := [], early := [],
    first := some (0, 100), inbox := [] }
def barriered : State := { waitingRow (.barrier 3 false) .none .none with barriers := [barrier0 [0, 1]] }
theorem test_barrier_phase :
    ((otherAfter barriered (.barrierRootCycle (barrier0 []).name.root 3) 1).any (fun k => k.wait == .barrier 3 true) &&
     (after (.barrierRootCycle (barrier0 []).name.root 3) barriered).map (fun t => t.barriers.map fun b => (b.phase, b.arrived)) == some [(6, [])] &&
     (otherAfter barriered (.barrierTimeout (barrier0 []).name.root 3) 0).any (fun k => k.pend.any fun e => e.1 == 0x0A) &&
     (otherAfter (waitingRow (.barrier 3 true) .none .none) (.barrierContinue 0) 0).any (fun k => k.wait == .none && k.sect == .exchange)) = true := by decide +kernel
/-- A pair whose leader is at a checkpoint, its fingerprint equal to its follower's or not, with a checkpoint to go back to. -/
def checkpointed (print : BitVec 64) : State :=
  let c (k : Core) : Checkpoint := 
    { regs := k.regs.setScalar 5 9 false, csrs := k.csrs, pc := 0x800, sect := k.sect, wake := k.wake, loopOn := k.loopOn, frameOn := k.frameOn,
      outq := k.outq, frame := k.frame, cyc := k.cyc, ready := k.ready }
  row (fun k => { k with freeze := some { kind := .checkpoint, pc := k.pc, since := 0 }, group := { k.group with
        pair := .leader, partner := 1, sinceCheck := 1024, print := print, saved := some (c k) } })
    (fun k => { k with group := { k.group with pair := .follower, partner := 0, saved := some (c k) } })
theorem test_checkpoint :
    ((otherAfter (checkpointed 0) (.pairCheckpoint 0 0) 0).any (fun k => k.freeze.isNone && k.group.sinceCheck == 0 && k.pc == (base.core 0).pc) &&
     [0, 1].all fun c => (otherAfter (checkpointed 7) (.pairCheckpoint 0 0) c).any (fun k => k.pc == 0x800 && k.regs.scalar 5 == 9)) = true := by decide +kernel
/-- Core 0 with that copy, started or with a start moment, first in channel 0. -/
def copying (start : Option Word) (started : Bool) (progress : Nat) : State :=
  withCore (withTarn base [(0x10000, 0x1122334455667788)]) fun k =>
    { k with chan := #v[{ Channel.reset with cmds := [copyCmd base start started progress] }, Channel.reset, Channel.reset, Channel.reset] }
/-- The same with a start moment that has come, its read lock registered after a write lock of another command on the same bytes. -/
def lockedCopy : State :=
  (copying (some 0) false 0).modPond (pondOf 0) fun p => { p with
    locks := ([(9, true), ((copyCmd base none false 0).id, false)] : List (Nat × Bool)).map fun e =>
      { cmd := e.1, core := 0, spans := [tarnSpan (2 ^ 48 + 0x10000) 32], write := e.2, copy := false, seq := 0, at_ := 0 } }
/-- A pair past its barrier, the line 0x400 of each in the coherent range of a table, the line 0x900 not. -/
def keeping : State :=
  let m (k : Core) : Core := { k with wait := .barrier 3 true, group := { k.group with pair := .leader, partner := 1 } }
  let s := (row m fun k => { m k with group := { k.group with pair := .follower, partner := 0 } }).modPart 0 fun q => { q with
    table := [{ slot := 0, coh := true, base := 0x10, last := 0x10, place := 0, slice := 0, slog := 0, sil := 0, spr := 1, mil := 0 }] }
  [0, 1].foldl (fun s c => s.setL1 c [l1Line 0x400 0, l1Line 0x900 0]) s
/-- R137, R152: it keeps the line of managed memory only. -/
theorem test_kept_lines : (after (.barrierContinue 0) keeping).map (fun t => [0, 1].map fun c => ((t.l1Of c).map fun l => l.line, (t.core c).sect == .exchange)) ==
    some [([0x400], true), ([0x400], true)] := by decide +kernel
theorem witness_GroupsAndBarriersGoOn :
    (((base.core 0).rowFollowers 0).isEmpty && (let s := waitingRow (.fwd 0) .leader .follower
        (s.core 0).wait == .fwd 0 && (s.core 0).group.fwd == .leader && (s.core 0).rowFollowers 0 == [1] && (s.core 1).wait == .fwd 0) &&
     (let s := waitingRow (.echo 0) .none .none
      (s.core 0).wait == .echo 0 && (subRect (s.core 0).csrs.rect 0).any (fun r => r.1 == xOf 0) && (s.core 1).wait == .echo 0) &&
     (let s := waitingRow .join .leader .follower
      (s.core 0).wait == .join && (s.core 0).group.fwd == .leader && (s.core 0).rowFollowers 0 == [1] && (s.core 1).group.fwd == .follower && (s.core 1).group.stream.isEmpty) &&
     (let s := waitingRow .join .leader .released
      (s.core 0).wait == .join && (s.core 0).group.fwd == .leader && (s.core 1).group.fwd == .released && (s.core 1).wait == .join) &&
     ([alone0 (.fwd 0) .leader .follower, alone0 .join .leader .released, alone0 (.echo 0) .none .none].all fun s =>
       s.gathered 0 == false && (waitingRow (.fwd 0) .leader .follower).gathered 0 && decide ((s.core 0).waitSince + 2 ^ 32 ≤ s.fabric) && (s.core 0).csrs.bartmo == 0 && (s.core 0).group.fwdDesc == 0 && (s.core 1).level == .user &&
         subRect (s.core 0).csrs.rect 0 == some (0, 0, 2, 1)) &&
     (let s := waitingRow (.barrier 3 true) .none .none
      (s.core 0).wait == .barrier 3 true && (s.l1Of 0).isEmpty && (s.core 0).group.pair == .none && (s.setCore 0 { s.core 0 with group := { (s.core 0).group with pair := .leader } }).l1Of 0 == []) &&
     (let s := keeping
      (s.core 0).group.pair == .leader && [0, 1].all fun c => (s.l1Of c).all fun l => l.dirty == 0 && !l.updateOnly) &&
     barriered.allArrived (barrier0 [0, 1]) && barriered.launches.isEmpty && barriered.cores.all (fun e => e.2.freeze.isNone && barriered.core e.1 == e.2) &&
     barriered.barriers.find? (fun y => y.held && y.name.root == (barrier0 []).name.root && y.name.num == 3) == some (barrier0 [0, 1]) && (barrier0 []).name.member 1 &&
     (let s := copying (some 0) false 0
      (s.core 0).matq.isEmpty && (s.core 0).thrq.isEmpty && s.colls.isEmpty && (s.core 0).freeze.isNone && (s.pond (pondOf 0)).locks.isEmpty &&
        (otherAfter s (.engineOffsetStart 0) 0).any fun k => k.freeze.any (fun z => z.kind == .engine) &&
          k.chan.toList.any fun ch => ch.cmds.any fun x => x.moment && !x.started) &&
     (let s := lockedCopy
      (s.core 0).matq.isEmpty && (s.core 0).thrq.isEmpty && s.colls.isEmpty && (s.core 0).pend.isEmpty &&
        (s.pond (pondOf 0)).locks.map (fun z => (z.cmd, z.write)) == [(9, true), ((copyCmd base none false 0).id, false)] &&
        (otherAfter s (.engineOffsetStart 0) 0).any fun k => k.cmds.isEmpty && k.pend == [(0x0B, (s.core 0).pc)]) &&
     (let s := (checkpointed 7).modCore 0 fun k => { k with group := { k.group with disagreed := 2 } }
      (s.l1Of 0).isEmpty && (s.l1Of 1).isEmpty && s.flights.isEmpty && (s.core 0).slog.isEmpty && (s.core 1).slog.isEmpty && (s.core 1).level == .user &&
        [0, 1].all fun c => (otherAfter s (.pairCheckpoint 0 0) c).any fun k => k.killed) &&
     ([0, 7].all fun p => let s := checkpointed p
      (s.core 0).run == .running && (s.core 0).level == .user && (s.core 1).group.stream.isEmpty && (s.core 1).freeze.isNone &&
        ((s.core 0).group.print == (s.core 1).group.print) == (p == 0) && decide ((s.core 0).group.disagreed < 2))) = true := by decide +kernel

/-! ## What arrives -/

/-- Partition 0 live and keyed with channel 0 of spring 0, whose granule 0 is of class 1 and holds its tables: the page at VA 0x40000 is the
frame 0x80000, the one at 0x41000 host memory at 0x5000, both readable, writable, executable, for user level, accessed and dirty. -/
def paged : State :=
  let s := base.modPart 0 fun q => { q with live := true, ideKey := some 0, chips := [0], chans := [0], roots := [(0, 0x100000)] }
  let s := s.modSpring 0 fun g => { g with classes := [(0, 1)] }
  { s with mem := [(0x100000, 0x101001), (0x101000, 0x102001), (0x102000, 0x103001), (0x103000, 0x104001), (0x104200, 0x805BF), (0x104208, 2 ^ 47 + 0x59BF),
      (0x80000, 0x1122334455667788)].foldl (fun m e => writeNat m e.1 8 e.2) s.mem }
/-- A packet of two words for core 0. -/
def packetTo (queue : Nat) (words : List (Word × Bool)) : Packet :=
  { src := 1, queue := queue, ring := false, dst := 0, words := words, err := true, rel := some { core := 1, scope := .dev }, part := 0, left := false,
    reach := none }
def packets2 : State := { base with packets := [packetTo 1 [(3, false)], packetTo 2 [(7, false), (8, true)], packetTo 4 []] }
def ended : State := withCore packets2 fun k => { k with run := .ended false }
/-- R172: the packet of queue 2 enters whole behind what is there, released and marked; R176: the wake,
after the packets its sender closed before. -/
theorem test_packets :
    ((otherAfter packets2 (.packetArrival 1) 0).map (fun k => (k.inq.toArray.getD 2 []).map fun w => (w.word, w.poison, w.err, w.rel.isSome)) ==
        some [(7, false, false, true), (8, true, true, false)] &&
     (after (.packetArrival 1) packets2).map (fun t => t.packets.length) == some 2 &&
     (otherAfter ended (.packetArrival 1) 0).map (fun k => (k.inq.toArray.getD 2 []).length) == some 0 &&
     (otherAfter packets2 (.wakeArrival 2) 0).map (fun k => k.wake) == some false &&
     (otherAfter { base with packets := [packetTo 4 []] } (.wakeArrival 0) 0).map (fun k => k.wake) == some true) = true := by decide +kernel
/-- A packet for the ring of core 0's launch: slot 0x79 mod 4 is 1, its data lie at 0x1000 + 32 + 32. -/
def ringed : State := { withRing base with packets := [{ packetTo 2 [(0x79, false), (5, false)] with ring := true, dst := 2 ^ 48 + 0x1000, err := false }] }
theorem test_ring_packet :
    ((after (.packetArrival 0) ringed).map (fun t => (readNat t.mem (2 ^ 48 + 0x1008) 8, readNat t.mem (2 ^ 48 + 0x1040) 8)) == some (0x79, 5)) = true := by decide +kernel
/-- A write-back of one byte on its way, and a recorded L1 line, over a line in its home slice. -/
def travelling : State :=
  { base with l2 := [l2Line 0x400 0x1111111111111111],
              flights := [{ core := 0, part := 0, asid := 0, line := 0x400, mask := 2, data := 0xAABB, marks := 0, clears := 0, level := .user,
                            recorded := false, drop := 0, tagged := 0, rel := none }] }
def recorded : State := ({ base with l2 := [l2Line 0x400 0x1111111111111111] }).setL1 0 [{ l1Line 0x400 2 with recorded := true }]
theorem test_writebacks :
    ((after (.writebackMerge 0) travelling).map (fun t => (t.flights.length, t.l2.map fun x => (x.data, x.dirty))) == some (0, [(0x111111111111AA11, 2)]) &&
     (after (.flushRequest 0) recorded).map (fun t => ((t.l1Of 0).map fun l => (l.dirty, l.recorded), t.l2.map fun x => (x.data, x.dirty))) ==
       some ([(0, false)], [(0x1111111111112211, 2)])) = true := by decide +kernel
/-- R318: the walk through five levels fills the line from the frame; R307: an error met in storage marks its words; R337: a failed fill. -/
theorem test_fills :
    ((after (.translationWalk 0 0x40000 false 0) paged).map (fun t => (t.l2.head?).map fun y => (y.line, y.data.toNat % 2 ^ 64)) == some (some (0x1000, 0x1122334455667788)) &&
     (after (.backgroundError (.unit 3) true true) paged).map (fun t => (t.marks.length, t.dev.errors)) == some (16, 1) &&
     (after (.backgroundError (.unit 3) true true) base).map (fun t => (t.marks.length, t.dev.errors, t.latent.length)) == some (0, 0, 1) &&
     (after (.hostLinkError 0 0 0 0x41000 false) (withCore paged fun k => { k with csrs := { k.csrs with ebud := 100 } })).map
       (fun t => ((t.l2.head?).map fun y => y.marks.toNat, (t.core 0).csrs.ebud)) == some (some 0xFFFF, 84)) = true := by decide +kernel
/-- R172: core 0's queue 2 has room for one word, so the packet of two waits there; R165: a `dsc` of two lines on its way drops them. -/
def crowded : State := withCore packets2 fun k => { k with inq := k.inq.setIfInBounds 2 (List.replicate 31 { word := 1, poison := false, err := false, rel := none }) }
def dropping : State := { travelling with l2 := travelling.l2 ++ [l2Line 0x401 1, l2Line 0x402 2], flights := travelling.flights.map fun w => { w with mask := 0, drop := 2 } }
def sentRecorded : State := { travelling with flights := travelling.flights.map fun w => { w with recorded := true } }
theorem test_waiting_arrivals :
    ((after (.packetArrival 1) crowded).map (fun t => (t.packets.map fun p => (p.left, p.reach.isSome), ((t.core 0).inq.toArray.getD 2 []).length)) ==
        some ([(false, false), (true, true), (false, false)], 31) &&
     (after (.writebackMerge 0) dropping).map (fun t => (t.flights.length, t.l2.map fun x => x.line)) == some (0, [0x402]) &&
     (after (.flushRequest 0) sentRecorded).map (fun t => (t.flights.length, t.l2.map fun x => x.dirty)) == some (0, [2])) = true := by decide +kernel
/-- R172: in the fabric cycle in which a packet of core 5 has entered queue 2, one of core 1 comes too late. -/
def tooLate : State := withCore packets2 fun k => { k with lastIn := k.lastIn.setIfInBounds 2 (0, 5) }
theorem test_too_late : (after (.packetArrival 1) tooLate).map (fun t => (t.packets.map fun p => p.left, (t.core 0).inq == (packets2.core 0).inq)) ==
    some ([false, true, false], true) := by decide +kernel
theorem witness_homes : travelling.homesFixed 0 ∧ recorded.homesFixed 0 ∧ (recorded.l1Of 0).all (fun l => l.dirty != 0) = true :=
  ⟨State.homesFixed_of_table (by decide +kernel), State.homesFixed_of_table (by decide +kernel), by decide +kernel⟩
theorem witness_PacketsAndLinesArrive :
    (packets2.packets.all (fun q => q.reach.isNone) && decide (32 < ((crowded.core 0).inq.toArray.getD 2 []).length + 2) && (crowded.core 0).run == .running &&
     dropping.flights.all (fun w => w.core == 0 && w.drop != 0) && sentRecorded.flights.length == 1 && (sentRecorded.l1Of 0).isEmpty &&
     (let s : State := withCore travelling fun k => { k with run := .idle }
      s.l2.all fun x => x.dirty == 0 && x.err.isNone && !s.pinned x) &&
     packets2.packets[1]? == some (packetTo 2 [(7, false), (8, true)]) && (packets2.packets.take 1).all (fun q => q.queue != 2) &&
     (packets2.core 0).run == .running && !(packets2.core 0).sealed && ((packets2.core 0).inq.toArray.getD 2 []).isEmpty &&
     (ended.core 0).run == .ended false && (packetTo 4 []).queue == 4 && Memory.wf ringed.mem &&
     ringed.packets.any (fun p => p.ring && ringed.rings.any fun r => r.base == p.dst && r.part == (ringed.core p.src).task.part && r.queue == (ringed.core p.src).task.queue &&
       r.seq == (ringed.core p.src).task.seq && decide (0 < r.slots ∧ 8 * (p.words.length - 1) ≤ r.size)) &&
     travelling.flights.any (fun w => w.core == 0 && decide (w.line < 2 ^ 51) && !inControl (64 * w.line) && (travelling.l2Get w.part w.asid w.line).isSome) && travelling.tags.isEmpty &&
     (travelling.core 0).slog.isEmpty && (recorded.l1Of 0).all (fun l => l.recorded && !l.updateOnly && !inControl (64 * l.line) && (recorded.l2Get 0 l.asid l.line).isSome) &&
     (let s := paged
      (s.core 0).run == .running && (s.l2Get 0 0 0x1000).isNone && s.latent.isEmpty &&
        match (s.touch 0 0 0x40000).translate (s.reqOf 0 true false false) 0x40000 with
        | (t, .ok pa _) => pa == 0x80000 && t.latent.isEmpty && decide (t.l2.length < 32768) && (t.spring ((t.part 0).homeSpring 0x40000)).held.isEmpty
        | _ => false) &&
     (match paged.translate { part := 0, asid := 0, user := false, r := true, w := false, x := false, who := some 0 } 0x41000 with
      | (_, .ok pa _) => decide (2 ^ 47 ≤ pa) && (paged.l2Get 0 0 (0x41000 / 64)).isNone
      | _ => false)) = true := by decide +kernel

/-- A page request of core 0 outstanding at spring 0. -/
def requested : State :=
  let s := paged.modSpring 0 fun g => { g with reqs := [{ id := 5, part := 0, gen := 9, asid := 0, core := 0, kind := 0, cause := 4, acc := 8, level := 5, va := 0x50000, time := 0 }] }
  withCore s fun k => { k with gen := 9, pages := [{ req := 5, page := 0x50, failed := false, anew := false }] }
/-- The host's window of partition 0: VA 0x40000, ASID 0, enabled, over a line that L2 holds. -/
def windowed : State :=
  { paged with dev := { paged.dev with decoders := [(0, 0, 2 ^ 28)] },
                l2 := [l2Line 0x1000 0x77], mem := writeNat (writeNat paged.mem (ctlPlace 0 0x1228) 8 0x40000) (ctlPlace 0 0x1230) 8 (2 ^ 63) }
/-- The sixth command of slot 0, waiting for its match; running with every part written. -/
def waiting : State := (after (.coll 0 6 7) (collState false)).getD base
def written : State := { waiting with colls := waiting.colls.map fun x => { x with state := .running, own := some [], written := x.keys (waiting.rankOf x), bytes := 64 } }
theorem test_answers :
    ((after (.pageAnswer 0 5 (BitVec.ofNat 64 (1 + 9 * 2 ^ 48))) requested).map (fun t => ((t.spring 0).reqs.length, (t.core 0).pages.length)) == some (0, 0) &&
     (after (.pageAnswer 0 5 (BitVec.ofNat 64 (2 + 9 * 2 ^ 48))) requested).map (fun t => (t.core 0).pages.map fun h => h.failed) == some [true] &&
     (after (.pageAnswer 0 6 1) requested).map (fun t => readNat t.mem (ctlPlace 0 0x8B0) 8) == some 1 &&
     (after (.hostMemoryAccess 0 0 true false 0 0) windowed).map (fun t => t.dev.hostReply) == some (some (0x77, false)) &&
     (after (.hostMemoryAccess 0 0 false false 0 0) windowed).map (fun t => (t.dev.hostReply, t.dev.blocked)) == some (some (BitVec.allOnes 512, false), 1)) = true := by
  decide +kernel
theorem test_collectives :
    ((after (.treeContribution 0 0 6 4 .ended) waiting).map (fun t => (t.arrivals.length, t.colls.map fun c => c.state)) == some (1, [.cancelled]) &&
     (after (.treeContribution 0 0 7 4 .ended) waiting).map (fun t => (t.arrivals.length, t.colls.map fun c => c.state)) == some (1, [.waiting]) &&
     (after (.collectiveMatch 1 [[0]]) waiting).map (fun t => (t.colls.map fun c => c.state, (t.core 0).pend.any fun e => e.1 == 0x12)) == some ([.cancelled], true) &&
     (after (.collectiveMatch 1 (waiting.colls.map fun c => c.desc.terms)) waiting).map (fun t => t.colls.map fun c => c.state) == some [.running] &&
     (after (.collectiveCompletion 1) written).map (fun t => (t.colls.map fun c => (c.state, c.bytes), (t.pond (pondOf 0)).locks.length)) == some ([(.complete, 64)], 0)) =
      true := by decide +kernel
/-- The command complete, with its own part, while the other member's is still to come; or with a poisoned word of DST to report. -/
def completed : State := { waiting with colls := waiting.colls.map fun x => { x with state := .complete, own := some [], written := x.keys (waiting.rankOf x) } }
def reporting : State := { written with colls := written.colls.map fun x => { x with report := some 0x20008 } }
theorem test_collective_report : ((otherAfter reporting (.collectiveCompletion 1) 0).map (fun k => k.pend) == some [(0x0E, 0x20008)] &&
    (after (.treeContribution 0 0 6 4 (.sub 0 [])) completed).map (fun t => t.colls.map fun c => c.state) == some [.complete]) = true := by decide +kernel
theorem witness_AnswersAndCollectivesArrive :
    completed.colls.all (fun x => x.state == .complete && x.issuer.part == 0 && x.slot == 0 && x.ordinal == 6) = true ∧
    reporting.colls.all (fun x => x.report == some 0x20008 && (reporting.core 0).gen == x.issuer.gen && (reporting.core 0).pend.isEmpty) = true ∧
    ((requested.outstanding 5).any (fun r => r.part == 0 && r.kind == 0 && (requested.core r.core).gen == r.gen) && requested.launches.isEmpty &&
     (requested.outstanding 6).isNone && Memory.wf requested.mem && (base.part 0).ideKey.isNone && (windowed.part 0).ideKey.isSome && (windowed.part 0).live &&
     (readNat windowed.mem (ctlPlace 0 0x1230) 8).testBit 63 && readNat windowed.mem (ctlPlace 0 0x1228) 8 == 0x40000 && windowed.l1.isEmpty && windowed.tags.isEmpty &&
     (windowed.l2Get 0 0 0x1000).isSome && waiting.colls.length == 1 && waiting.arrivals.isEmpty && waiting.launches.isEmpty &&
     waiting.colls.all (fun x => x.id == 1 && x.issuer.part == 0 && x.slot == 0 && x.ordinal == 6 && x.active && x.state == .waiting && x.handed &&
       (waiting.core 0).gen == x.issuer.gen && x.desc.count == 2 && [[0]].any fun q => q != x.desc.terms) &&
     written.colls.all fun x => x.state == .running && x.handed && x.own.isSome && (x.keys (written.rankOf x)).all fun e => x.written.contains e) = true := by
  decide +kernel

/-! ## The engines at work -/

/-- Core 0 with one matrix command at the head, started, one step of an i8 product done or none. -/
def productDesc (d : MmDesc) (acc : Bool) : MmDesc :=
  { d with aptr := BitVec.ofNat 64 (tarn + 0x10000), bptr := BitVec.ofNat 64 (tarn + 0x20000), sa := true, sb := true, acc := acc }
def matrixState (work : Work) (progress : Nat) : State :=
  withCore (withTarn base [(0x10000, 0xFE03), (0x20000, 0x05), (0x20020, 0x80)]) fun k =>
    { k with matq := [{ base.command (base.core 0) none none work with started := true, progress := progress }] }
def tileWork (store : Bool) : TileDesc :=
  { store := store, tile := 1, addr := 31, stride := 0, fmt := 6, sat := false, vreg := some 9, data := 7, poison := 0x80000000, void := false }
/-- R255: a beat of eight bytes; R246: the tile's last row written from the value read at issue, or left for a register. -/
theorem test_engines :
    ((otherAfter (copying none false 0) (.copyStart 0 0) 0).any (fun k => k.chan.toList.any fun ch => ch.cmds.any fun x => x.started) &&
     (after (.copyBeat 0 0) (copying none true 0)).map (fun t => (readNat t.mem (2 ^ 48 + 0x20000) 16, (t.core 0).chan.toList.any fun ch => ch.cmds.any fun x => x.progress == 8)) ==
       some (0x1122334455667788, true) &&
     (otherAfter (copying none true 8) (.copyCompletion 0 0) 0).any (fun k => k.chan.toList.all (fun ch => ch.cmds.isEmpty) && (k.chan.toArray.getD 0 Channel.reset).ended == 1) &&
     (otherAfter (matrixState (.tile (tileWork false)) 0) (.tileMove 0) 0).any (fun k => (k.regs.tile 1)[992]? == some (7, false) && (k.regs.tile 1)[1023]? == some (0, true)) &&
     (otherAfter (matrixState (.tile (tileWork true)) 0) (.tileMove 0) 0).any (fun k => k.late == some { reg := 9, data := 0, poison := 0, sup := false, void := false })) = true := by decide +kernel
theorem witness_CopiesAndMatricesRun :
    ((let s := copying none false 0
      ((s.core 0).copyHead 0).any (fun x => !x.started && x.start.isNone) && (s.core 0).run == .running && (s.core 0).level == .user && (s.core 0).group.fwd == .none && (s.core 0).freeze.isNone &&
        s.ponds.all fun e => e.2.locks.isEmpty) &&
     (let s := copying none true 0
      let place (va : Nat) : Nat := (windowPlace 0 va).getD 0
      ((s.core 0).chan.toArray.getD 0 Channel.reset).cmds == [copyCmd base none true 0] && (s.core 0).cmds == [copyCmd base none true 0] && s.copyGrant (pondOf 0) == some (4 * localIndex 0) &&
        ptrFmt copyDesc.src == ptrFmt copyDesc.dst && ptrFmt copyDesc.src == 0 && ptrBlg copyDesc.src == 0 && s.marks.isEmpty && s.latent.isEmpty && s.tags.isEmpty &&
        Memory.wf s.mem && (List.range 8).all fun j => [0x10000, 0x20000].all fun o => inWindow (tarn + o + j) && place (tarn + o + j) == 2 ^ 48 + o + j) &&
     (let d := productDesc (mmFields false 0) false
      let s := matrixState (.mm d) 0
      (s.core 0).cmds == (s.core 0).matq && (s.core 0).matq.all (fun x => x.issuer.cls == .none && x.issuer.core == 0 && x.held.isNone && x.started) &&
        s.matGrant (pondOf 0) == some (localIndex 0) && !d.sparse && ptrFmt d.aptr == 0 && ptrFmt d.bptr == 0 && d.sa && d.sb && !d.isat && !d.hasC &&
        d.mt == 0 && d.nt == 0 && d.kt == 0 && decide (d.tile < 2 ∧ d.steps = 1) &&
        [0, 31].all fun r => [0, 31].all fun n => [ptrVa d.aptr + r * d.aStride + n, ptrVa d.bptr + r * d.bStride + n].all fun va => inWindow va && (windowPlace 0 va).isSome) &&
     (let d := tileWork true
      let s := matrixState (.tile d) 0
      s.matGrant (pondOf 0) == some (localIndex 0) && d.vreg.isSome && d.fmt == 6 && decide (d.tile < 2 ∧ d.addr.toNat < 32))) = true := by decide +kernel

/-- A pond whose core 0 has one threshold command, not started, started or done, over the columns its lock covers. -/
def thresholding (work : Work) (started : Bool) (progress : Nat) (cells : List (Nat × ThrCell)) : State :=
  let s := withTarn { base with fabric := 1 } [(0x100, 5), (0x200, 2), (0x300, 3), (0x308, 0x40490FDB), (0x400, 0xFF0), (0x408, 0x0000000A_80000000)]
  let x : Cmd := { base.command (base.core 0) none none work with started := started, progress := progress }
  (withCore s fun k => { k with thrq := [x] }).modPond (pondOf 0) fun p =>
    { p with
      cells := cells
      locks := [{ cmd := x.id, core := 0, spans := columnSpans (base.core 0).rect (pondOf 0) 0 1, write := true, copy := false, seq := 0, at_ := 0 }]
      thrRunning := if started then some x.id else none }
def loadWork : Work := .tload { addr := BitVec.ofNat 64 (tarn + 0x400), row0 := 3, nr := 1, col0 := 0, nc := 1, clr := false }
def evalDesc : TevalDesc :=
  { fptr := BitVec.ofNat 64 (tarn + 0x100), lptr := BitVec.ofNat 64 (tarn + 0x500), fstr := 4, lstr := 4, ns := 1, nf := 1, int := true, col0 := 0, nc := 1, pairs := 0 }
def tlvDesc : TlvDesc :=
  { iptr := BitVec.ofNat 64 (tarn + 0x200), vptr := BitVec.ofNat 64 (tarn + 0x300), optr := BitVec.ofNat 64 (tarn + 0x600), istr := 4, vstr := 4, ns := 1, ln := 4, nt := 1 }
/-- A cell that asks whether the feature is at most 4, and where it is not leaves leaves 1 to 3. -/
def cellLe4 : ThrCell := { mask := 0xE, info := 0x00000004_80000000, poison := false }
/-- R283: the image's mask and info; R284, R294: 5 exceeds 4, so the lowest leaf left is 1; R288: leaf 2's value. -/
theorem test_threshold :
    ((after (.tloadRun 0) (thresholding loadWork true 0 [])).map (fun t => (t.pond (pondOf 0)).cells) == some [(3, { mask := 0xFF0, info := 0x0000000A_80000000, poison := false })] &&
     (after (.tevalRun 0) (thresholding (.teval evalDesc) true 0 [(0, cellLe4)])).map (fun t => readNat t.mem (2 ^ 48 + 0x500) 4) == some 1 &&
     (after (.tevalRun 0) (thresholding (.teval evalDesc) true 0 [])).map (fun t => readNat t.mem (2 ^ 48 + 0x500) 4) == some 0 &&
     (after (.tlvRun 0) (thresholding (.tlv tlvDesc) true 0 [])).map (fun t => readNat t.mem (2 ^ 48 + 0x600) 4) == some 0x40490FDB &&
     (after (.thresholdCommandStart (pondOf 0)) (thresholding loadWork false 0 [])).map (fun t => (t.pond (pondOf 0)).thrRunning) == some (some 1) &&
     (after (.thresholdCompletion 0) (thresholding loadWork true 1 [])).map (fun t => ((t.pond (pondOf 0)).locks.length, (t.core 0).thrq.length)) == some (0, 0)) = true := by
  decide +kernel
/-- R282: a cell whose reserved bits are not zero is stored as not valid, and the command ends with the illegal cause pending. -/
theorem test_malformed_cell :
    (let s := thresholding loadWork true 0 []
     let s : State := { s with mem := writeNat s.mem (2 ^ 48 + 0x408) 8 0x0000000A_80000400 }
     (after (.tloadRun 0) s).map (fun t => ((t.pond (pondOf 0)).cells, (t.core 0).pend.map fun e => e.1)) ==
       some ([(3, { mask := 0xFF0, info := 0x0000000A_00000400, poison := false })], [1]) && s.launches.isEmpty) = true := by decide +kernel
theorem witness_ThresholdCommandsRun :
    (([(false, 0), (true, 1), (true, 0)] : List (Bool × Nat)).all fun e => [loadWork, .teval evalDesc, .tlv tlvDesc].all fun w =>
      let s := thresholding w e.1 e.2 [(0, cellLe4)]
      let k := s.core 0
      k.thrq.length == 1 && k.cmds == k.thrq && k.thrq.all (fun x => x.count.isNone && x.issuer.core == 0 && x.start.isNone && k.gen == x.issuer.gen) && k.run == .running &&
        k.level == .user && k.group.fwd == .none && s.ponds.all (fun e => e.1 == pondOf 0 && e.2.locks.all fun z => z.cmd == 1) &&
        k.freeze.isNone && s.lockedColumns (pondOf 0) 1 == [0] && s.marks.isEmpty && s.latent.isEmpty && s.tags.isEmpty && Memory.wf s.mem && s.launches.isEmpty &&
        (s.pond (pondOf 0)).cells.all (fun e => !e.2.poison && e.2.info.toNat % 1024 == 0) &&
        ((List.range 8).all fun n => n == localIndex 0 || (s.core (pondCore (pondOf 0) n)).thrq.isEmpty) &&
        [0x100, 0x200, 0x300, 0x308, 0x400, 0x500, 0x600].all fun o => inWindow (tarn + o) && (windowPlace 0 (tarn + o)).isSome) = true ∧
    decide ((List.range 64).all (fun j => (cellLe4.mask.getLsbD j) == (1 ≤ j && j ≤ 3)) ∧ readNat (thresholding loadWork true 0 []).mem (2 ^ 48 + 0x200) 4 < 4) = true ∧
    finite32 0x40490FDB := by
  unfold finite32; decide +kernel

/-! ## The supervisor's commands to the springs -/

/-- The paged partition with doublewords in its pages, the command words among them started by core 0. -/
def commanded (l : List (Nat × Nat)) : State :=
  let s := paged.modPart 0 fun q => { q with pendingCmds := ((l.map fun e => e.1).filter [0x800, 0x810, 0x840, 0x880].contains).map fun w => (w, 0) }
  { s with mem := l.foldl (fun m e => writeNat m (ctlPlace 0 e.1) 8 e.2) s.mem }
/-- A doubleword of partition 0's page after a command. -/
def pageAfter (s : State) (i : Instr) (off : Nat) : Option Nat := (after i s).map fun t => t.page 0 off
/-- A table whose first entry is the coherent range 0x40000 to 0x4FFFF at slice 0 and spring 0. -/
def tabled : State := commanded [(0x800, 5), (0, 2 ^ 63 + 2 ^ 62 + 0x40000), (8, 0x4F000), (24, 2 ^ 32)]
def classed (gran : Nat) : State := commanded [(0x810, 2 ^ 60 + 2 ^ 20 * 2 + gran), (0x818, 6)]
def translating (cmd lvl va : Nat) : State :=
  commanded [(0x840, cmd * 2 ^ 60 + lvl * 2 ^ 16), (0x848, va), (0x850, 0x2), (0x858, 0x800), (0x860, 7)]
def maintaining (cmd va y : Nat) : State := commanded [(0x880, cmd * 2 ^ 60), (0x888, va), (0x890, y), (0x8A0, 9)]
/-- R142, R146, R305, R321, R334, R335: each command's result in [7:0] of its status and its effect. -/
theorem test_supervisor :
    (pageAfter tabled (.rangeTableCommit 0) 0x808 == some 0x501 && (after (.rangeTableCommit 0) tabled).map (fun t => (t.part 0).table.map fun e => (e.coh, e.base, e.last)) ==
       some [(true, 0x40, 0x4F)] &&
     pageAfter (classed 3) (.setClass 0) 0x820 == some 0x601 && (after (.setClass 0) (classed 3)).map (fun t => t.classAt (3 * 2 ^ 21)) == some 2 &&
     pageAfter (translating 1 0 0x40000) (.probe 0) 0x868 == some 0x701 && pageAfter (translating 1 0 0x40000) (.probe 0) 0x878 == some 0x805BF &&
     pageAfter (translating 1 0 0x50000) (.probe 0) 0x868 == some 0x706 && (after (.edit 0) (translating 2 1 0)).map (fun t => readNat t.mem 0x100000 8) == some 0x101801 &&
     (after (.setRoot 0) (maintaining 1 0 0x101000)).map (fun t => (t.part 0).roots) == some [(0, 0x101000)] && ((after (.migrate 0) (maintaining 4 0x40000 0x90000)).bind fun t => pageAfter t (.migrate 0) 0x8A8) == some 0x901 &&
     ((after (.migrate 0) (maintaining 4 0x40000 0x90000)).bind (after (.migrate 0))).map (fun t => (readNat t.mem 0x104200 8, readNat t.mem 0x90000 8)) == some (0x905BF, 0x1122334455667788)) = true := by
  decide +kernel
theorem test_lines_cleaned : ((after (.clean 0) { maintaining 3 0x40000 64 with l2 := [l2Line 0x1000 5, l2Line 0x1001 6] }).map (fun t => t.l2.map fun x => x.line) == some [0x1001] &&
    pageAfter (maintaining 2 0x40000 64) (.invalidate 0) 0x8A8 == some 0x901 && pageAfter (maintaining 5 1 1) (.answer 0) 0x8A8 == some 0x901) = true := by decide +kernel
def heldLaunch : Launch :=
  { part := 0, queue := 0, seq := 0, state := .running, record := Vector.replicate 8 0, image := Vector.replicate 8 0, x := 0, y := 0, w := 1, h := 1, accepted := 0, started := 0,
    stopping := false, saved := [], barriers := [], locks := [], packets := [], columns := [], aside := [] }
/-- A migration that has begun, with a write-back of byte 1 of the frame's first line held meanwhile. -/
def moving : State :=
  let s := (after (.migrate 0) (maintaining 4 0x40000 0x90000)).getD base
  s.modSpring 0 fun g => { g with held := [{ req := 0, frame := some (0x80000 / 64), part := 0, asid := 0, line := 0x1000, data := 0xEE00, mask := 2, marks := 0 }] }
theorem test_migration_meets_writes :
    (((after (.migrate 0) moving).map fun t => (readNat t.mem 0x90000 8, (t.spring 0).held.length, (t.spring 0).moving.isNone)) == some (0x112233445566EE88, 0, true) &&
    pageAfter { moving with mem := moving.mem, parts := (maintaining 4 0x40000 0x90000).parts } (.migrate 0) 0x8A8 == some 0x902) = true := by decide +kernel
theorem witness_SupervisorCommandsAreDone :
    (paged.flights.isEmpty && (paged.part 0).pendingCmds.isEmpty && (paged.l1Of 0).all (fun l => !l.recorded) && (tabled.part 0).pendingCmds == [(0x800, 0)] &&
     (commanded [(0x800, 0)]).page 0 0x800 == 0 && ((commanded [(0x800, 0)]).part 0).pendingCmds == [(0x800, 0)] &&
     ((classed 3).part 0).pendingCmds == [(0x810, 0)] && ((translating 1 0 0x40000).part 0).pendingCmds == [(0x840, 0)] &&
     ((maintaining 5 1 1).part 0).pendingCmds == [(0x880, 0)] && (paged.spring 0).moving.isNone && moving.latent.isEmpty && (moving.part 0).pendingCmds == [(0x8A8, 0)] &&
     (moving.springs.find? fun e => (e.2.moving.map fun m => m.part) == some 0).any (fun e => e.1 == 0 && e.2.moving.any fun m =>
       m.old == 0x80000 && m.new == 0x90000 && m.size == 4096 && m.entry == 0x104200 && e.2.held.all fun h => h.frame.all fun u => decide (m.old ≤ 64 * u ∧ 64 * u < m.old + m.size)) &&
     Memory.wf tabled.mem && paged.page 0 0x800 == 0 && tabled.page 0 0x800 != 0 && !tabled.launchHeld 0 && ({ tabled with launches := [heldLaunch] } : State).launchHeld 0 &&
     ((List.range 64).filter fun n => (tabled.entryWord 0 n 0).testBit 63) == [0] && !tabled.entryBroken 0 0 && !(tabled.part 0).lacks (tabled.entryAt 0 0) &&
     ({ tabled with l2 := [] } : State).l1.isEmpty && (classed 3).page 0 0x810 / 2 ^ 60 == 1 && bits ((classed 3).page 0 0x810) 22 38 == 0 && (classed 3).page 0 0x818 != 0 &&
     (paged.part 0).chans.contains (32 * bits ((classed 3).page 0 0x810) 15 5 + 3 / 1024) && !((classed 3).spring 0).uses (3 * 2 ^ 21) && sortedKeys ((classed 3).spring 0).classes &&
     (let s := (classed 0).modSpring 0 fun g => { g with walk := [{ part := 0, asid := 0, level := 1, pfx := 0, table := 0x101000, path := [0x100000] }] }
      (s.spring 0).uses 0) &&
     [translating 1 0 0x40000, translating 2 1 0].all (fun s => bits (s.page 0 0x840) 19 41 == 0 && bits (s.page 0 0x848) 57 7 == 0 && s.page 0 0x860 != 0 &&
       find (s.part 0).roots 0 == some 0x100000) && (find ((translating 1 0 0).part 0).roots 1).isNone && (translating 2 1 0).page 0 0x840 / 2 ^ 60 == 2 &&
     bits ((translating 2 1 0).page 0 0x840) 16 3 == 1 &&
     [maintaining 1 0 0x101000, maintaining 2 0x40000 (2 ^ 40), maintaining 3 0x40000 1, maintaining 4 0x40000 0x90000, maintaining 5 1 1].all (fun s =>
       bits (s.page 0 0x880) 16 44 == 0 && s.page 0 0x898 == 0 && s.page 0 0x8A0 != 0) && paged.tableOk 0 0x101000 && sortedKeys (paged.part 0).roots &&
     ({ maintaining 3 0x40000 64 with l2 := [l2Line 0x1000 5, l2Line 0x1001 6] } : State).l2.all (fun x => x.dirty == 0) &&
     (let z := paged.walkTo 0 0x40000 6 5 1 0x100000
      z.leaf && z.lvl == 5 && bits z.entry 12 36 * 4096 == 0x80000 && z.addr == 0x104200 && (paged.part 0).ownsPa 0x90000 && paged.frameOk 0 0x40000 0x90000 5 (bits z.entry 10 2) &&
        paged.latent.isEmpty) && !(paged.walkTo 0 0x50000 6 5 1 0x100000).leaf) = true := by decide +kernel

/-- Partition 0 with eight handle slots, whose command block at VA 0x7000 is in its home slice; slot 2 with an old generation. -/
def handling (cmd : Nat) (colls : List Coll) : State :=
  let s := base.modPart 0 fun q => { q with pendingCmds := [(0x1208, 0)], handles := [(2, { gen := 4095, live := true, base := 0, len := 64, owner := 0, colls := 3 })] }
  { s with
    l2 := [l2Line 0x1C0 (cmd * 2 ^ 60 + 2 + 0x10000 * 2 ^ 64 + 2 ^ 40 * 2 ^ 128)]
    mem := writeNat (writeNat s.mem (ctlPlace 0 0x1208) 8 0x7000) (ctlPlace 0 0x1210) 8 8
    colls := colls }
/-- A command of slot 2 that has not ended. -/
def slotBusy2 : List Coll := waiting.colls.map fun x => { x with slot := 2 }
def handleAfter (s : State) (i : Instr) : Option (Nat × Bool × Nat) :=
  (after i s).map fun t => (((t.part 0).handle 2).gen, ((t.part 0).handle 2).live, (t.l2.headD (l2Line 0 0)).data.toNat / 2 ^ 256 % 2 ^ 64)
/-- R278: the generation after 4095 is 1; the status doubleword holds handle and result; a busy slot is refused, a forced revoke aborts. -/
theorem test_handles :
    (handleAfter (handling 1 []) (.register 0 0) == some (1, true, (2 * 4096 + 1) * 2 ^ 32 + 1) && handleAfter (handling 2 []) (.revoke 0 0) == some (4095, false, (2 * 4096 + 4095) * 2 ^ 32 + 1) &&
     handleAfter (handling 2 slotBusy2) (.revoke 0 0) == some (4095, true, 2) && handleAfter (handling 3 slotBusy2) (.forcedRevoke 0 0) == some (4095, false, (2 * 4096 + 4095) * 2 ^ 32 + 1) &&
     (after (.forcedRevoke 0 0) (handling 3 slotBusy2)).map (fun t => (t.colls.map fun x => x.state, (t.core 0).pend.any fun e => e.1 == 0x11)) == some ([.aborted], true)) = true := by
  decide +kernel
theorem witness_HandleCommandsAreDone :
    ([handling 1 [], handling 2 [], handling 2 slotBusy2, handling 3 [], handling 3 slotBusy2].all fun s => (s.part 0).pendingCmds == [(0x1208, 0)] && s.flights.isEmpty && s.htab 0 == 0x7000 && !inWindow (s.htab 0) && !inControl (s.htab 0) && s.l1.isEmpty &&
      s.tags.isEmpty && (s.l2Get 0 0 0x1C0).any (fun x => bits (x.data.toNat % 2 ^ 64) 20 40 == 0 && x.data.toNat % 2 ^ 20 == 2 && decide (2 < s.hslots 0) &&
        x.data.toNat / 2 ^ 64 % 2 ^ 64 == 0x10000 && x.data.toNat / 2 ^ 128 % 2 ^ 64 == 2 ^ 40 && x.data.toNat / 2 ^ 192 % 2 ^ 64 == 0) &&
      s.slotBusy 0 2 == !s.colls.isEmpty && s.launches.isEmpty && s.colls.all fun z => z.issuer.part == 0 && z.slot == 2 && z.active && (s.core 0).gen == z.issuer.gen) = true := by
  decide +kernel

/-! ## The host port and the links -/

/-- The paged partition's virtual function with a nonce, a record in window 2 and event queues of 16 slots. -/
def vfState : State := paged.modPart 0 fun q => { q with
  vf := { q.vf with
    nonce := List.replicate 32 7, asked := true, eventBase := 0x8000, eventLog := 4
    windows := q.vf.windows.setIfInBounds 2 (Vector.replicate 8 5) } }
/-- One event held since 0 of the global clock, at 2 µs after. -/
def eventful (now : Nat) : State :=
  { vfState.modPart 0 (fun q => { q with events := [{ time := 100, src := 3, type := 7, cause := 0, queue := 2, seq := 9, val := 11 }] }) with fabric := 2 * now }
/-- R367, R360: a doorbell queues its window's record under 0 and counts on, until its one slot is full; R368: an event's slot; R379: a port trains with 4 to 8 lanes. -/
theorem test_host :
    ((after (.doorbell 0 2) vfState).map (fun t => let l := (t.part 0).queues.toArray.getD 2 LaunchQueue.reset
        (l.next, l.given, l.queued.map fun x => (x.seq, word8 x.words 0))) == some (1, 0, [(0, 5)]) &&
     (((after (.doorbell 0 2) vfState).bind (after (.doorbell 0 2))).map fun t => ((t.part 0).queues.toArray.getD 2 LaunchQueue.reset).given) == some 0x8000000000000001 &&
     (after (.eventWrite 0) (eventful 2100)).map (fun t => ((t.part 0).vf.eventProd, (t.part 0).events.length, readNat t.mem (hostPlace 0x8000) 8, readNat t.mem (hostPlace 0x8010) 8)) ==
       some (1, 0, 100, 2 * 2 ^ 61 + 9) &&
     (after (.eventWrite 0) (eventful 2099)).map (fun t => (t.part 0).events.length) == some 1 &&
     (after (.registerWrite 0 0x060 0x12345) vfState).map (fun t => (t.part 0).vf.eventBase) == some 0x12000 &&
     (after (.registerWrite 0 (0x200 + 64 + 8) 9) vfState).map (fun t => word8 ((t.part 0).vf.windows.toArray.getD 1 (Vector.replicate 8 0)) 1) == some 9 &&
     (after (.hostLinkTraining (8, 32) [(0, 0, 2 ^ 28), (2, 2 ^ 28, 2 ^ 29)]) base).map (fun t => (t.dev.hostLanes, t.dev.hostSpeed, t.dev.decoders.length)) ==
       some (8, 32, 2) &&
     (after (.hostLinkTraining (8, 32) [(0, 0, 2 ^ 29), (2, 2 ^ 28, 2 ^ 29)]) base).map (fun t => t.dev.hostLanes) == some base.dev.hostLanes &&
     (after (.scaleOutTraining 32 4) base).map (fun t => (t.port 32).trained) == some false &&
     (after (.scaleOutTraining 3 4) base).map (fun t => ((t.port 3).trained, (t.port 3).lanes)) == some (true, 4) &&
     (after (.scaleOutTraining 3 3) base).map (fun t => (t.port 3).trained) == some false &&
     (after (.vfAnswer 0 1) vfState).map (fun t => readNat t.mem (ctlPlace 0 0x8B0) 8) == some 1) = true := by decide +kernel
theorem test_attestation :
    ((after (.attestationRequest 0 0x0807060504030201) vfState).map (fun t => ((t.part 0).vf.ready, ((t.part 0).vf.nonce.drop 24).map fun b => b.toNat)) ==
       some (false, [1, 2, 3, 4, 5, 6, 7, 8]) &&
     (after (.attestationReportReady 0) vfState).map (fun t => ((t.part 0).vf.ready, (t.part 0).vf.report.take 1)) == some (true, [7]) &&
     (after (.ideKeying 0) (base.modPart 0 fun q => { q with live := true })).map (fun t => (t.part 0).ideKey) == some none &&
     (after (.ideKeying 0) { base.modPart 0 (fun q => { q with live := true }) with dev := { base.dev with hostLanes := 16 } }).map (fun t => (t.part 0).ideKey.isSome) == some true) =
      true := by decide +kernel
/-- A port whose lock was lost at 0 and that carried the waiting command's flits. -/
def linkState (now : Nat) : State :=
  { waiting with fabric := now, dev := { waiting.dev with ports := [(3, { lanes := 4, trained := false, lost := false, lostAt := some 0 })] } }
theorem test_links :
    ((after (.flitTagFailure 3) ((after (.scaleOutTraining 3 8) base).getD base)).map (fun t => ((t.port 3).trained, (t.port 3).lostAt)) == some (false, some 0) &&
     (after (.linkLost 3 [1]) (linkState 1999999)).map (fun t => (t.port 3).lost) == some false &&
     (after (.linkLost 3 [1]) (linkState 2000000)).map (fun t => ((t.port 3).lost, t.colls.map fun x => x.state)) == some (true, [.cancelled]) &&
     (after (.pairKeyAgreement 0 4) ((waiting.modPart 0 fun q => { q with live := true }))).map (fun t => (t.part 0).linkKeys.length) == some 1) = true := by decide +kernel
theorem witness_HostAndLinksAct :
    (!base.vfLive 0 && vfState.vfLive 0 && (vfState.part 0).vf.nonce.length == 32 && (vfState.part 0).vf.asked && Memory.wf vfState.mem &&
     [2099, 2100].all (fun n => (eventful n).gtime == n && (eventful n |>.part 0).events.all (fun e => (e.time + 2000 ≤ (eventful n).gtime : Bool) == (n == 2100)) &&
       (eventful n |>.part 0).vf.eventRoom) && (base.modPart 0 fun q => { q with live := true }).dev.hostLanes == 0 &&
     decide ((0 : Nat) ≠ 32) && ({ base with dev := { base.dev with hostLanes := 16 } } : State).dev.hostLanes == 16 &&
     [1999999, 2000000].all (fun n => ((linkState n).port 3).lostAt == some 0 && !((linkState n).port 3).trained && (linkState n).colls.length == 1 && (linkState n).colls.all Coll.active) &&
     ((waiting.modPart 0 fun q => { q with live := true }).part 0).peers.any fun e => e.num == 4 && !e.own) = true := by decide +kernel

/-! ## Partitions and launches -/

/-- A peer table: this partition is 7, and 8 lies on device 1. -/
def peers2 : List Peer := [{ num := 7, own := true, device := 0, part := 2 }, { num := 8, own := false, device := 1, part := 0 }]
/-- R382, R142: a partition over chiplet 1 and channel 40; R364: what it gains joins at the next round; a backed channel stays. -/
theorem test_partitions :
    ((after (.partitionCreation 2 7 [1] [40] peers2 (10, 10) [(1, 100)] 0x7000 (2 ^ 32 + 8) 0) base).map (fun t => ((t.part 2).live, (t.part 2).chips, (t.part 2).chans, t.page 2 0x1208)) ==
       some (true, [1], [40], 0x7000) &&
     (after (.partitionDestruction 0) (paged.modPart 0 fun q => { q with chans := [] })).map (fun t => (t.part 0).live) == some false &&
     (after (.ownershipChange 0 true false 5) paged).map (fun t => (t.part 0).joinChips) == some [5] &&
     ((after (.ownershipChange 0 true false 5) paged).bind (after (.admissionRound 0))).map (fun t => ((t.part 0).chips, (t.part 0).ownGen)) == some ([0, 5], 1) &&
     (after (.ownershipChange 0 false true 0) paged).map (fun t => (t.part 0).chans) == some [0] &&
     (after (.partitionReset 0) packets2).map (fun t => t.packets.length) == some 0) = true := by decide +kernel
theorem witness_PartitionsChange :
    (!(base.part 2).live && decide (2 < Config.numParts ∧ (2 ^ 32 + 8 : Word).toNat = 8 + 2 ^ 32 * 1 ∧ 8 < 2 ^ 20) && (peers2.filter fun e => e.own).map (fun e => e.num) == [7] && !base.chipTaken 1 && !base.chanTaken 40 && Memory.wf base.mem && base.sharesFit (10, 10) && !base.sharesFit (10, 257) && Memory.wf paged.mem && (paged.part 0).live && paged.launches.isEmpty &&
     ((paged.modPart 0 fun q => { q with chans := [] }).part 0).chans.isEmpty && !paged.chipTaken 5 && !paged.chanTaken 5 && (paged.part 0).chips.contains 0 &&
     (paged.part 0).chans.contains 0 && (paged.spring 0).classes.any (fun e => e.1 / 1024 == 0) &&
     (let s : State := { paged with l2 := [], launches := [heldLaunch] }
      s.launches.any fun l => l.part == 0 && l.state == .running && (rectChips l.rect).contains 0) &&
     ((paged.modSpring 0 fun g => { g with classes := [] }).spring 0).classes.isEmpty && sortedKeys packets2.cores) = true := by decide +kernel

/-- Queue 1 of the live partition 0 on one READY chiplet: a record for one core in its first slot, its image and arguments in lines that L2 holds. -/
def launchRecord : List Nat := [0x3000, 0x3040, 2 ^ 33, 64, 0, 0, 0, 0]
def launchImage : List Nat := [0x4000, 0, 0, 0, 0, 0, 0, 2 ^ 40 + 1]
def packed (l : List Nat) : Nat := l.reverse.foldl (fun a x => a * 2 ^ 64 + x) 0
def queueing (weight : Nat) : State :=
  let s := (base.modPart 0 fun q => { q with live := true, chips := [0], chans := [0] }).modChip 0 fun h => { h with state := 6 }
  let rec0 : Queued := { seq := 0, slot := 0, words := recordOf (packed launchRecord), rel := none }
  let s := s.modQueue 0 1 fun l => { l with next := 1, openSeqs := [0], queued := [rec0] }
  let s := s.modCore 0 fun k => { k with run := .idle }
  { s with
    l1 := []
    l2 := [l2Line 0x80 (packed launchRecord), l2Line 0xC0 (packed launchImage), l2Line 0xC1 0]
    mem := [(0x1040, 0x2001), (0x1048, 0x3000), (0x1050, weight * 2 ^ 32), (0x1060, 100), (0x1070, 20)].foldl (fun m e => writeNat m (ctlPlace 0 e.1) 8 e.2) s.mem }
def accepted : State := (after (.launchRecordHandling 0 1) (queueing 1)).getD base
def started : State := (after (.admissionRound 0) accepted).getD base
def finished (b : Bool) : State := started.modCore 0 fun k => { k with run := .ended b }
/-- R360: accepted with event 1, or with a weight above 255 rejected with 0x16; R25: the task's pc, budget and argument pointer; R361. -/
theorem test_launch_life :
    (((accepted.part 0).events.map fun e => (e.type, e.cause, e.queue, e.seq)) == [(1, 0, 1, 0)] && (accepted.launches.map fun l => l.state) == [.accepted] &&
     ((after (.launchRecordHandling 0 1) (queueing 256)).map fun t => ((t.part 0).events.map fun e => (e.type, e.cause), t.launches.length)) == some ([(9, 0x16)], 0) &&
     (let k := started.core 0
      (started.launches.map fun l => l.state) == [.running] && k.run == .running && k.level == .user && k.pc == 0x4000 && k.csrs.budget == 64 && k.regs.scalar 59 == 0x3040) &&
     ((after (.launchCompletion 0 1 0) (finished false)).map fun t => (t.launches.length, (t.core 0).run, (t.part 0).events.map fun e => e.type)) == some (0, .idle, [1, 2]) &&
     ((after (.launchCompletion 0 1 0) (finished true)).map fun t => (t.part 0).events.map fun e => e.type) == some [1, 3]) = true := by decide +kernel
theorem witness_LaunchesRun :
    ([queueing 1, queueing 256].all (fun s => ((s.part 0).queues.toArray.getD 1 LaunchQueue.reset).queued.length == 1 && s.l1.isEmpty) && (queueing 256).queueBroken 0 1 &&
     !(queueing 1).queueBroken 0 1 &&
     (match ((queueing 1).modQueue 0 1 fun l => { l with queued := [] }).fetch8 ((queueing 1).sequencer 0 1) ((queueing 1).slotAddr 0 1 0) with
      | (u, some r) => (match u.judge 0 1 r with
        | (_, .inr e) => word8 e 0 == 0x4000
        | _ => false)
      | _ => false) &&
     accepted.launches.all (fun l => l.part == 0 && l.queue == 1 && l.state == .accepted && !l.stopping && bits (word8 l.record 5) 0 16 == 0 && imgLen l.image == 0 &&
       accepted.place l [] == some (0, 0, 1, 1) && l.w == recW l.record && l.h == recH l.record) && accepted.launches.length == 1 && !accepted.queueBroken 0 1 &&
     bits (accepted.queueDesc 0 1 2) 32 32 != 0 && (accepted.part 0).joinChips.isEmpty && (accepted.part 0).joinChans.isEmpty && accepted.l1.isEmpty && accepted.cores.all (fun e => e.2.thrq.isEmpty) &&
     [started, finished false, finished true].all (fun s => s.l1.isEmpty && s.launches.length == 1 && s.launches.all fun l => l.part == 0 && l.queue == 1 && l.seq == 0 &&
       l.state == .running && bits (word8 l.record 5) 48 16 == 0 && rectCores l.rect == [0]) && (started.core 0).run == .running) = true := by decide +kernel

/-! ## Bringing up a window, clocks, budgets and shares -/

/-- A booted device with accepted firmware and a window of two chiplets in a row, both in a state since cycle 100. -/
def bringUp (st : BitVec 3) (now : Nat) : State :=
  let s : State := { State.reset with fabric := now, dev := { State.reset.dev with booted := true, firmware := true, window := some (0, 0, 2, 1) } }
  [0, 1].foldl (fun s n => s.modChip n fun h => { h with state := st, since := 100, locked := 100 }) s
def chipAfter (s : State) (i : Instr) (n : Nat) : Option Chip := (after i s).map fun t => t.chip n
/-- R351, R374, R350, R353: each state's own step, the limit not yet over, the source's clock, and the network select of a clear window. -/
theorem test_bring_up :
    ((chipAfter (bringUp 2 200) (.tested 0 true) 0).map (fun h => h.state) == some 3 &&
     (chipAfter (bringUp 3 200) (.trained 0 0x100) 0).map (fun h => (h.state, h.dead)) == some (4, 0x100) &&
     (chipAfter (bringUp 3 200) (.trained 0 0x100) 1).map (fun h => (h.state, h.dead)) == some (3, 1) &&
     (after .nselWrite (bringUp 4 200)).map (fun t => (t.dev.routed, t.dev.degraded, (t.chip 0).nselCached)) == some (true, false, 0) &&
     ((after .nselWrite (bringUp 4 200)).bind fun t => chipAfter t (.forwarding 0) 0).map (fun h => h.state) == some 5 &&
     (chipAfter (bringUp 5 200) (.ready 0) 0).map (fun h => h.state) == some 6 && (chipAfter (bringUp 5 (100 + 2 ^ 20)) (.stateLimitExpiry 0) 0).map (fun h => h.state) == some 5 &&
     (after (.edgeSourceStart 0 0 0 2 1) (bringUp 0 200)).map (fun t => t.dev.clocks) == some [⟨0, 0, 0, 200⟩] &&
     (after (.clockForward 0) ((bringUp 0 5000).modChip 0 fun h => { h with state := 1, src := 4, locked := 100 })).map (fun t => t.dev.clocks) == some [⟨1, 0, 4, 4196⟩] &&
     (after (.rootOfTrustBoot []) State.reset).map (fun t => (t.dev.booted, t.dev.firmware)) == some (true, false)) = true := by decide +kernel
/-- A link that is dead in both directions of the row's only path leaves no path: the window is degraded. -/
theorem test_degraded :
    (let s := (bringUp 4 200).modChip 0 fun h => { h with dead := 0xF00 }
     (after .nselWrite (s.modChip 1 fun h => { h with dead := 0xF })).map (fun t => (t.dev.routed, t.dev.degraded)) == some (false, true)) = true := by decide +kernel
theorem witness_WindowsComeUp :
    (!State.reset.dev.booted && (bringUp 0 0).dev.booted && !State.reset.dev.firmware && (bringUp 0 0).dev.firmware && (bringUp 0 0).dev.started.isEmpty &&
     decide (31 < 32 ∧ 0 < 2 ∧ 0 < 1 ∧ 0 + 2 ≤ 20 ∧ 0 + 1 ≤ 16) && (bringUp 0 0).dev.window == some (0, 0, 2, 1) && (let s : State := { bringUp 0 0 with dev := { (bringUp 0 0).dev with window := none } }
      s.dev.firmware && s.dev.window.isNone && s.launches.isEmpty && s.chips.all fun e => e.2.state == 0) && (State.reset.chip 7).state == 0 &&
     (let s : State := { bringUp 0 200 with dev := { (bringUp 0 200).dev with clocks := [⟨0, 0, 4, 200⟩] } }
      (s.dev.clocks.map fun c => (c.chip, decide (c.at_ ≤ s.fabric))) == [(0, true)] && (s.chip 0).state == 0 && s.inWin 0 && !s.dev.routed && !s.dev.degraded && (s.neighbours 0).all fun e => (s.chip e.2).state == 0) &&
     (bringUp 1 200).standsIn 0 1 && !(bringUp 1 (101 + 2 ^ 20)).standsIn 0 1 &&
     (let h := (bringUp 1 4196).chip 0
      h.state != 0 && !h.presented && decide (h.locked + 4096 ≤ (bringUp 1 4196).fabric) && decide ((bringUp 1 4195).fabric < h.locked + 4096)) &&
     ((bringUp 1 200).chip 0).state == 1 && (bringUp 1 200).launches.isEmpty && ((bringUp 2 200).chip 0).state == 2 && ((bringUp 3 200).chip 0).state == 3 &&
     ((bringUp 3 200).neighbours 0) == [(2, 1)] && decide (3 ≤ ((bringUp 3 200).chip 1).state.toNat) &&
     (let s : State := { bringUp 4 200 with dev := { (bringUp 4 200).dev with routed := true } }
      (s.chip 0).state == 4 && s.dev.routed && !s.dev.degraded) && (bringUp 4 200).windowChips == [0, 1] && !(bringUp 4 200).dev.routed &&
     ((bringUp 5 200).chip 0).state == 5 && ((bringUp 5 200).neighbours 0).all (fun e => decide (5 ≤ ((bringUp 5 200).chip e.2).state.toNat)) &&
     (((bringUp 5 200).modChip 1 fun h => { h with state := 4 }).neighbours 0).any (fun e => e.2 == 1) && !((bringUp 5 200).modChip 1 fun h => { h with state := 4 }).passedOver 1 &&
     decide (((bringUp 5 (101 + 2 ^ 20)).chip 0).since + 2 ^ 20 < (bringUp 5 (101 + 2 ^ 20)).fabric)) = true := by decide +kernel
/-- An image's own digest, and one that differs from it by its length. -/
theorem witness_configured : (∃ digest, Config.digest [] = digest) ∧ ∃ digest, Config.digest [] ≠ digest :=
  ⟨⟨_, rfl⟩, Config.digest [] ++ [0], by simp⟩

/-- Partition 0 on chiplet 0 with a share of spring 0 and of a port's networks, at a microsecond and 512 cycles. -/
def sharing : State :=
  { paged.modPart 0 (fun q => { q with springShares := [(0, 1000)], cachedShare := 40, messageShare := 5 }) with fabric := 4096 }
/-- R372, R370: 750 MHz is a step, 755 is none; a hot chiplet steps down from 750 to 700 and no further; a spring's shares shrink. -/
theorem test_shares :
    ((chipAfter sharing (.clockChange 0 750) 0).map (fun h => h.mhz) == some 750 && (chipAfter sharing (.clockChange 0 755) 0).map (fun h => h.mhz) == some (sharing.chip 0).mhz &&
     (chipAfter (sharing.modChip 0 fun h => { h with mhz := 700 }) (.chipletThermalLimit 0) 0).map (fun h => h.mhz) == some 700 &&
     ((after (.chipletThermalLimit 0) sharing).map fun t => (t.part 0).events.map fun e => e.type) == some [7] &&
     ((after (.springThermalLimit 0 1 2) sharing).map fun t => ((t.part 0).events.map fun e => (e.type, e.val), (t.spring 0).scaled 1000)) == some ([(8, 500)], 500) &&
     ((after (.byteBudgetInterval 0 [(0, 0)]) sharing).map fun t => (t.spring 0).budgets) == some [(0, 0)]) = true := by decide +kernel
theorem witness_SharesAndClocksAreKept :
    (sortedKeys sharing.parts && (sharing.part 0).live && (sharing.part 0).chips.contains 0 && find (sharing.part 0).springShares 0 == some 1000 && decide (0 < 1 ∧ 1 ≤ 2) &&
     decide ((find sharing.dev.intervals 0).getD 0 < sharing.gtime / 1000) && decide (0 ≤ sharing.springBytes 0) &&
     decide ((find sharing.dev.refills 0).getD 0 + 256 ≤ sharing.fabric) && sharing.parts.all (fun e => decide (e.1 < 32)) && decide (base.fabric < (find base.dev.refills 0).getD 0 + 256) &&
     decide (700 ≤ 1400 ∧ 1400 % 50 = 0 ∧ 699 < 700 ∧ 755 % 50 ≠ 0)) = true := by decide +kernel

/-! ## Decoding, the step, reset -/

theorem witness_DecodeAndEncodeAgree :
    ((Instr.vectorPrefix 7 true 5 15 0xC6048E00).wf && (Instr.vectorPrefix 7 true 5 15 0xC6048E00).word?.isSome && (Instr.csrx 7 63 63 0x303).wf &&
     (decodeWords [0x402DA800, 0x00000840, 0x5A010006]) == some (.addk 0 45 42 false 0x840, [0x5A010006])) = true := by decide +kernel
/-- A core, by the agenda or without one, whose line is in its home slice: a word, a word with a literal, a word that is no instruction, an
instruction across two lines. -/
def fetching (w : List Nat) (pc : Nat) (agenda : Bool) : State :=
  let s := withCore base fun k => { k with pc := BitVec.ofNat 64 pc }
  let bytes (line : Nat) : Nat := ((List.range w.length).map fun j => if (pc + 4 * j) / 64 = line then w.getD j 0 * 2 ^ (8 * ((pc + 4 * j) % 64)) else 0).foldl (· + ·) 0
  { s with l2 := [l2Line (pc / 64) (bytes (pc / 64)), l2Line (pc / 64 + 1) (bytes (pc / 64 + 1))], turns := if agenda then [.core 0] else [] }
/-- R77, R98: `addi s6, s6, -1` by a step, `lit.n s14, 0x200E10` across two lines, and a word that is no instruction. -/
theorem test_step :
    ((match step (fetching [0x2C061BFF] 0x1000 false) with
      | .next t => (t.core 0).regs.scalar 6 == BitVec.allOnes 64 && (t.core 0).pc == 0x1004
      | _ => false) &&
     (match step (fetching [0x3E0E0001, 0x00200E10] 0x103C true) with
      | .next t => (t.core 0).regs.scalar 14 == 0x200E10 && (t.core 0).pc == 0x1044 && t.turns.isEmpty
      | _ => false) &&
     (match step (fetching [0x00000001] 0x1000 false) with
      | .next t => (t.core 0).csrs.xcause == 1 && (t.core 0).csrs.xval == 1
      | _ => false)) = true := by decide +kernel
/-- The `addi` waits five cycles for s6, and a copy is to start in two. -/
def stalled : State := withCore (fetching [0x2C061BFF, 0] 0x1000 false) fun k =>
  { k with ready := [(6, k.cyc + 5)], chan := k.chan.setIfInBounds 0 { Channel.reset with cmds := [copyCmd base (some (k.csrs.taskclk + 2)) false 0] } }
theorem witness_StepRunsTheDecodedInstruction :
    (([(0x2C061BFF, 0, 0x1000), (0x3E0E0001, 0x00200E10, 0x103C), (0x00000001, 0, 0x1000)] : List (Nat × Nat × Nat)).all fun e =>
      let s := fetching [e.1, e.2.1] e.2.2 false
      let k := s.core 0
      s.turns.isEmpty && decide (s.cur < Config.numCores) && sortedKeys s.cores && k.run == .running && k.wait == .none && k.group.fwd == .none && k.group.pair == .none &&
        decide ((s.chip 0).frozenUntil ≤ s.fabric) && decide (k.energy < 10 ^ 9) && (s.dueIds 0).isEmpty && k.pend.isEmpty && !s.beingStopped 0 && !k.inFrame && k.pages.isEmpty &&
        !inWindow k.pc.toNat && !inWindow (k.pc.toNat + 4) && !inControl k.pc.toNat && !inControl (k.pc.toNat + 4) && [k.pc, k.pc + 4].all fun a => (s.l2Get k.task.part k.csrs.asid (a.toNat / 64)).any fun x => x.marks == 0 && x.err.isNone) = true ∧
    (let s := stalled
     let k := s.core 0
     s.l1.isEmpty && k.level == .user && s.nextStart 0 == some 2 && decide (2 ≤ k.waits (.addi 0 6 6 0x3FF)) && (s.dueIds 0).isEmpty &&
       match step s with
       | .next t => (t.core 0).cyc == k.cyc + 2 && (t.core 0).pc == k.pc && !(t.dueIds 0).isEmpty
       | _ => false) = true := by
  decide +kernel
theorem witness_step_homes : (fetching [0x2C061BFF, 0] 0x1000 false).tickClock.homesFixed 0 ∧ stalled.tickClock.homesFixed 0 :=
  ⟨State.homesFixed_of_table (by decide +kernel), State.homesFixed_of_table (by decide +kernel)⟩
/-- An agenda that names a core the device does not have, and one that names core 0. -/
theorem witness_EveryStepAnswers :
    ((match step { base with turns := [.core Config.numCores] } with
      | .fault _ => true
      | _ => false) &&
     (match step { base with turns := [.core 0] } with
      | .next _ => true
      | _ => false)) = true := by decide +kernel
theorem witness_EveryStepKeepsMemoryCanonical :
    (Memory.wf base.mem && (match step base with
      | .next t => Memory.wf t.mem
      | _ => false)) = true := by decide +kernel
/-- The row of an agent on the agenda. -/
theorem test_agenda : (match step { packets2 with turns := [.unit (.packetArrival 1)] } with
    | .next t => t.packets.length == 2 && t.turns.isEmpty
    | _ => false) = true := by decide +kernel

end Sys2Proof.Tests
end

section
/-!
PROOFS. The compares (R59, R91).
-/
namespace Sys2Proof.Machine

/-! ## Compares (R59, R91) -/

/-- The model's test of a condition code is the condition of R59. -/
theorem condInt_iff_holds (c : BitVec 3) (a b : Word) : condInt c a b = true ↔ holds c a b := by
  have not_lt_int : ∀ x y : Int, (!decide (x < y)) = true ↔ y ≤ x := fun x y => by
    rw [Bool.not_eq_true', decide_eq_false_iff_not, Int.not_lt]
  have not_lt_nat : ∀ x y : Nat, (!decide (x < y)) = true ↔ y ≤ x := fun x y => by
    rw [Bool.not_eq_true', decide_eq_false_iff_not, Nat.not_lt]
  have codes : c = 0 ∨ c = 1 ∨ c = 2 ∨ c = 3 ∨ c = 4 ∨ c = 5 ∨ c = 6 ∨ c = 7 := by revert c; decide
  rcases codes with rfl | rfl | rfl | rfl | rfl | rfl | rfl | rfl
  · exact beq_iff_eq
  · exact bne_iff_ne
  · exact decide_eq_true_iff
  · exact not_lt_int a.toInt b.toInt
  · exact not_lt_int b.toInt a.toInt
  · exact decide_eq_true_iff
  · exact decide_eq_true_iff
  · exact not_lt_nat a.toNat b.toNat

/-- A truth value that stands for the condition is what the model's test answers. -/
theorem eq_condInt {v : Bool} {c : BitVec 3} {a b : Word} (h : v = true ↔ holds c a b) : v = condInt c a b :=
  Bool.eq_iff_iff.mpr (h.trans (condInt_iff_holds c a b).symm)

/-- Settles O3: each form of a compare sets its guard by the model's test, which is the condition of R59. -/
theorem comparesSetTheirGuard : Obligations.ComparesSetTheirGuard := by
  intro s g c h a b im n v lit
  refine ⟨fun x y k hs hx hv => ?_, fun x k hs hx hv => ?_, fun x k hs hx hv => ?_⟩
  · rw [eq_condInt hv]; exact compare_sets rfl hs hx
  · rw [eq_condInt hv]; exact compare_imm_sets rfl hs hx
  · rw [eq_condInt hv]; exact compare_imm_sets rfl hs hx

end Sys2Proof.Machine
end

section
/-!
PROOFS. The words that shifts, rotates, extremes, logic and the bit-field instructions write (R86, R88, R89).
-/
namespace Sys2Proof.Machine

/-! ## Values of the shifts (R86, R88) -/

theorem wide32_eq (n : Int) : wide32 n = (BitVec.ofInt 32 n).signExtend 64 := rfl

theorem shiftLeft_eq_ofNat {w : Nat} (x : BitVec w) (n : Nat) : x <<< n = BitVec.ofNat w (x.toNat * 2 ^ n) :=
  BitVec.eq_of_toNat_eq (by simp [Nat.shiftLeft_eq])
theorem ushiftRight_eq_ofNat {w : Nat} (x : BitVec w) (n : Nat) : x >>> n = BitVec.ofNat w (x.toNat / 2 ^ n) := by
  rw [← Nat.shiftRight_eq_div_pow, ← BitVec.toNat_ushiftRight, BitVec.ofNat_toNat, BitVec.setWidth_eq]
theorem sshiftRight_eq_ofInt {w : Nat} (x : BitVec w) (n : Nat) : x.sshiftRight n = BitVec.ofInt w (x.toInt / 2 ^ n) := by
  simp [BitVec.sshiftRight, Int.shiftRight_eq_div_pow]

/-- A rotate right joins the bits that stay and those that come round; no position belongs to both. -/
theorem rotateRight_eq_ofNat {w : Nat} (x : BitVec w) {n : Nat} (h : n < w) :
    x.rotateRight n = BitVec.ofNat w (x.toNat / 2 ^ n + x.toNat * 2 ^ (w - n)) := by
  have apart : x >>> n &&& x <<< (w - n) = 0#w := by
    ext i hi
    by_cases hl : i < w - n
    · simp [hl]
    · simp [BitVec.getElem_ushiftRight, BitVec.getLsbD_of_ge x (n + i) (by omega)]
  rw [BitVec.rotateRight_def, Nat.mod_eq_of_lt h, ← BitVec.add_eq_or_of_and_eq_zero _ _ apart, BitVec.ofNat_add,
    ← ushiftRight_eq_ofNat, ← shiftLeft_eq_ofNat]

theorem shlOp_false (x y : Word) : shlOp false x y = BitVec.ofNat 64 (x.toNat * 2 ^ (y.toNat % 64)) := shiftLeft_eq_ofNat ..
theorem shrOp_false (x y : Word) : shrOp false x y = BitVec.ofNat 64 (x.toNat / 2 ^ (y.toNat % 64)) := ushiftRight_eq_ofNat ..
theorem sraOp_false (x y : Word) : sraOp false x y = BitVec.ofInt 64 (x.toInt / 2 ^ (y.toNat % 64)) := sshiftRight_eq_ofInt ..
theorem rotOp_false (x y : Word) :
    rotOp false x y = BitVec.ofNat 64 (x.toNat / 2 ^ (y.toNat % 64) + x.toNat * 2 ^ (64 - y.toNat % 64)) :=
  rotateRight_eq_ofNat x (Nat.mod_lt _ (by decide))

theorem shlOp_true (x y : Word) : shlOp true x y = wide32 (x.toNat * 2 ^ (y.toNat % 32) : Nat) := by
  show ((x <<< (y.toNat % 32)).setWidth 32).signExtend 64 = _
  rw [wide32_eq, BitVec.ofInt_natCast, shiftLeft_eq_ofNat, BitVec.setWidth_ofNat_of_le (by decide)]
theorem shrOp_true (x y : Word) : shrOp true x y = wide32 (x.toNat % 2 ^ 32 / 2 ^ (y.toNat % 32) : Nat) := by
  rw [wide32_eq, BitVec.ofInt_natCast, ← BitVec.toNat_setWidth, ← ushiftRight_eq_ofNat]; rfl
theorem sraOp_true (x y : Word) : sraOp true x y = wide32 (low32 x / 2 ^ (y.toNat % 32)) := by
  rw [wide32_eq, low32, ← sshiftRight_eq_ofInt]; rfl
theorem rotOp_true (x y : Word) :
    rotOp true x y = wide32 (x.toNat % 2 ^ 32 / 2 ^ (y.toNat % 32) + x.toNat * 2 ^ (32 - y.toNat % 32) : Nat) := by
  have low : BitVec.ofNat 32 (x.toNat % 2 ^ 32) = BitVec.ofNat 32 x.toNat := BitVec.eq_of_toNat_eq (by simp)
  rw [wide32_eq, BitVec.ofInt_natCast, BitVec.ofNat_add, BitVec.ofNat_mul, ← low, ← BitVec.ofNat_mul, ← BitVec.ofNat_add,
    ← BitVec.toNat_setWidth, ← rotateRight_eq_ofNat _ (Nat.mod_lt _ (by decide))]
  rfl

/-- A shift amount of 6 bits, as the register forms take it. -/
theorem amount64 (n : BitVec 6) : (n.setWidth 64).toNat % 64 = n.toNat := by
  rw [BitVec.toNat_setWidth]; have := n.isLt; omega
theorem amount32 {n : BitVec 6} (h : n.toNat < 32) : (n.setWidth 64).toNat % 32 = n.toNat := by
  rw [BitVec.toNat_setWidth]; omega

theorem minOp_false (x y : Word) : minOp false x y = BitVec.ofInt 64 (min x.toInt y.toInt) := by
  by_cases h : y.toInt < x.toInt
  · simp [minOp, BitVec.slt, h, Int.min_eq_right (Int.le_of_lt h)]
  · simp [minOp, BitVec.slt, h, Int.min_eq_left (Int.not_lt.mp h)]
theorem minOp_true (x y : Word) : minOp true x y = BitVec.ofNat 64 (min x.toNat y.toNat) := by
  by_cases h : y.toNat < x.toNat
  · simp [minOp, BitVec.ult, h, Nat.min_eq_right (Nat.le_of_lt h)]
  · simp [minOp, BitVec.ult, h, Nat.min_eq_left (Nat.not_lt.mp h)]
theorem maxOp_false (x y : Word) : maxOp false x y = BitVec.ofInt 64 (max x.toInt y.toInt) := by
  by_cases h : x.toInt < y.toInt
  · simp [maxOp, BitVec.slt, h, Int.max_eq_right (Int.le_of_lt h)]
  · simp [maxOp, BitVec.slt, h, Int.max_eq_left (Int.not_lt.mp h)]
theorem maxOp_true (x y : Word) : maxOp true x y = BitVec.ofNat 64 (max x.toNat y.toNat) := by
  by_cases h : x.toNat < y.toNat
  · simp [maxOp, BitVec.ult, h, Nat.max_eq_right (Nat.le_of_lt h)]
  · simp [maxOp, BitVec.ult, h, Nat.max_eq_left (Nat.not_lt.mp h)]

/-! ## Values of the bit-field instructions (R89) -/

theorem signed_eq_toInt (n v : Nat) (h : 0 < n) : signed n v = (BitVec.ofNat n v).toInt := by
  obtain ⟨m, rfl⟩ : ∃ m, n = m + 1 := ⟨n - 1, by omega⟩
  have : 2 ^ (m + 1) = 2 * 2 ^ m := by rw [Nat.pow_succ, Nat.mul_comm]
  simp only [signed, BitVec.toInt, BitVec.toNat_ofNat, Nat.add_sub_cancel]
  generalize v % 2 ^ (m + 1) = u
  rw [this]
  split <;> split <;> omega

theorem fieldLo_eq (y : Word) : fieldLo y = y.toNat % 64 := by simp [fieldLo, bits]
theorem fieldLen_eq (y : Word) : fieldLen y = if y.toNat / 64 % 64 = 0 then 64 else y.toNat / 64 % 64 := rfl
theorem fieldLen_pos (y : Word) : 0 < fieldLen y := by
  rw [fieldLen_eq]; split <;> omega

theorem bfxOp_eq (n : Bool) (x y : Word) :
    bfxOp n x y = if n then BitVec.ofNat 64 (x.toNat / 2 ^ fieldLo y % 2 ^ fieldLen y)
      else (BitVec.ofNat (fieldLen y) (x.toNat / 2 ^ fieldLo y)).signExtend 64 := by
  cases n with
  | true => rfl
  | false =>
    have wraps : BitVec.ofNat (fieldLen y) (x.toNat / 2 ^ fieldLo y % 2 ^ fieldLen y) =
        BitVec.ofNat (fieldLen y) (x.toNat / 2 ^ fieldLo y) := BitVec.eq_of_toNat_eq (by simp)
    simp only [bfxOp, bits, signed_eq_toInt _ _ (fieldLen_pos y), wraps]
    rfl

/-- A bit of the inserted word: of A inside the field, of the old D outside. -/
theorem getLsbD_bfiOp (z x y : Word) {j : Nat} (h : j < 64) :
    (bfiOp z x y).getLsbD j =
      if fieldLo y ≤ j ∧ j < fieldLo y + fieldLen y then x.getLsbD (j - fieldLo y) else z.getLsbD j := by
  have mask : (w64 ((2 ^ fieldLen y - 1) * 2 ^ fieldLo y)).getLsbD j = decide (fieldLo y ≤ j ∧ j < fieldLo y + fieldLen y) := by
    rw [w64, BitVec.getLsbD_ofNat, Nat.testBit_mul_two_pow, Nat.testBit_two_pow_sub_one]
    by_cases hl : fieldLo y ≤ j
    · simp [h, hl]; omega
    · simp [hl]
  simp only [bfiOp, BitVec.getLsbD_or, BitVec.getLsbD_and, BitVec.getLsbD_not, BitVec.getLsbD_shiftLeft, mask, h]
  by_cases hf : fieldLo y ≤ j ∧ j < fieldLo y + fieldLen y
  · simp [hf, Nat.not_lt.mpr hf.1]
  · simp [hf]

/-- The leading zeros of a number below `2 ^ n` are what its size leaves of `n`. -/
theorem clz_eq (a : Word) {n v : Nat} (ha : a.toNat < 2 ^ n) (hv : v < n) (hlo : 2 ^ (n - 1 - v) ≤ a.toNat)
    (hhi : a.toNat < 2 ^ (n - v)) : clz a n = v := by
  induction n generalizing v with
  | zero => omega
  | succ n ih =>
    have top : a.getLsbD n = decide (2 ^ n ≤ a.toNat) := by
      rw [BitVec.getLsbD, Nat.testBit_eq_decide_div_mod_eq]
      have : 2 ^ (n + 1) = 2 * 2 ^ n := by rw [Nat.pow_succ, Nat.mul_comm]
      by_cases h : 2 ^ n ≤ a.toNat
      · have : a.toNat / 2 ^ n = 1 := Nat.div_eq_of_lt_le (by omega) (by omega)
        simp [this, h]
      · simp [Nat.div_eq_of_lt (Nat.not_le.mp h), h]
    cases v with
    | zero => simp only [clz, top]; simpa using hlo
    | succ v =>
      have small : a.toNat < 2 ^ n := Nat.lt_of_lt_of_le hhi (Nat.pow_le_pow_right (by decide) (by omega))
      have : clz a n = v := ih small (by omega) (by rwa [show n - 1 - v = n + 1 - 1 - (v + 1) by omega])
        (by rwa [show n - v = n + 1 - (v + 1) by omega])
      simp only [clz, top, Nat.not_le.mpr small, decide_false, Bool.false_eq_true, ↓reduceIte, this]
      omega
theorem clz_zero (n : Nat) : clz 0#64 n = n := by
  induction n with
  | zero => rfl
  | succ n ih => simp [clz, ih]; omega

/-- The trailing zeros from a bit on end at the first set bit. -/
theorem ctz_eq (a : Word) {n i v : Nat} (hv : v < n) (hlo : ∀ j < v, a.getLsbD (i + j) = false)
    (hbit : a.getLsbD (i + v) = true) : ctz a i n = v := by
  induction n generalizing i v with
  | zero => omega
  | succ n ih =>
    cases v with
    | zero => simp only [ctz, show a.getLsbD i = true from hbit, ↓reduceIte]
    | succ v =>
      have low : a.getLsbD i = false := hlo 0 (by omega)
      have : ctz a (i + 1) n = v := ih (by omega)
        (fun j hj => by rw [show i + 1 + j = i + (j + 1) by omega]; exact hlo _ (by omega))
        (by rwa [show i + 1 + v = i + (v + 1) by omega])
      simp only [ctz, low, Bool.false_eq_true, ↓reduceIte, this]
      omega
theorem ctz_zero (i n : Nat) : ctz 0#64 i n = n := by
  induction n generalizing i with
  | zero => rfl
  | succ n ih => simp [ctz, ih]; omega

theorem popCount_eq_countP (n v : Nat) : popCount n v = (List.range n).countP fun j => v.testBit j := by
  induction n generalizing v with
  | zero => rfl
  | succ n ih =>
    have shift : ((fun j => v.testBit j) ∘ Nat.succ) = fun j => (v / 2).testBit j := funext fun j => by simp [Nat.testBit_succ]
    rw [List.range_succ_eq_map, List.countP_cons, List.countP_map, shift, ← ih, popCount, Nat.add_comm]
    congr 1
    rcases Nat.mod_two_eq_zero_or_one v with h | h <;> simp [h]

/-- The first `n` bits of a word set from the top down, in a number. -/
def revSum (a : Word) (n : Nat) : Nat := (List.range n).foldl (fun r i => if a.getLsbD i then r + 2 ^ (63 - i) else r) 0

theorem bitRev_eq (a : Word) : bitRev a = w64 (revSum a 64) := rfl
theorem revSum_succ (a : Word) (n : Nat) : revSum a (n + 1) = if a.getLsbD n then revSum a n + 2 ^ (63 - n) else revSum a n := by
  simp [revSum, List.range_succ]
theorem revSum_spec (a : Word) {n : Nat} (hn : n ≤ 64) :
    2 ^ (64 - n) ∣ revSum a n ∧ ∀ j < 64, (revSum a n).testBit j = (decide (64 - n ≤ j) && a.getLsbD (63 - j)) := by
  induction n with
  | zero => exact ⟨⟨0, rfl⟩, fun j hj => by simp [revSum, Nat.not_le.mpr hj]⟩
  | succ n ih =>
    obtain ⟨⟨q, hq⟩, bit⟩ := ih (by omega)
    have top : 2 ^ (64 - n) = 2 ^ (63 - n) * 2 := by rw [← Nat.pow_succ]; congr 1; omega
    have low : 2 ^ (63 - n) < 2 ^ (64 - n) := Nat.pow_lt_pow_right (by decide) (by omega)
    rw [revSum_succ, show 64 - (n + 1) = 63 - n by omega]
    split
    · next hb =>
      refine ⟨Nat.dvd_add ⟨2 * q, by rw [hq, top, Nat.mul_assoc]⟩ (Nat.dvd_refl _), fun j hj => ?_⟩
      rw [hq, Nat.two_pow_add_eq_or_of_lt low, ← hq, Nat.testBit_or, bit j hj, Nat.testBit_two_pow]
      by_cases e : 63 - n = j
      · subst e; simp [show 63 - (63 - n) = n by omega, hb]
      · simp [e, show (64 - n ≤ j) = (63 - n ≤ j) from propext (by omega)]
    · next hb =>
      refine ⟨⟨2 * q, by rw [hq, top, Nat.mul_assoc]⟩, fun j hj => ?_⟩
      rw [bit j hj]
      by_cases e : 63 - n = j
      · subst e; simp [show 63 - (63 - n) = n by omega, hb]
      · simp [show (64 - n ≤ j) = (63 - n ≤ j) from propext (by omega)]
theorem getLsbD_bitRev (a : Word) {j : Nat} (h : j < 64) : (bitRev a).getLsbD j = a.getLsbD (63 - j) := by
  rw [bitRev_eq, w64, BitVec.getLsbD_ofNat, (revSum_spec a (Nat.le_refl 64)).2 j h]; simp [h]

theorem eq_w64 {v : Word} {n : Nat} (h : v.toNat = n) : v = w64 n := by
  rw [w64, ← h, BitVec.ofNat_toNat, BitVec.setWidth_eq]

theorem eq_clz {x v : Word}
    (h : if x = 0 then v.toNat = 64 else v.toNat < 64 ∧ 2 ^ (63 - v.toNat) ≤ x.toNat ∧ x.toNat < 2 ^ (64 - v.toNat)) :
    v = w64 (clz x 64) := by
  split at h
  · next hx => rw [hx]; exact eq_w64 (h.trans (clz_zero 64).symm)
  · obtain ⟨hv, hlo, hhi⟩ := h
    exact eq_w64 (clz_eq x x.isLt hv hlo hhi).symm
theorem eq_ctz {x v : Word}
    (h : if x = 0 then v.toNat = 64 else v.toNat < 64 ∧ x.toNat % 2 ^ v.toNat = 0 ∧ x.getLsbD v.toNat = true) :
    v = w64 (ctz x 0 64) := by
  split at h
  · next hx => rw [hx]; exact eq_w64 (h.trans (ctz_zero 0 64).symm)
  · obtain ⟨hv, hlo, hbit⟩ := h
    have low : ∀ j < v.toNat, x.getLsbD (0 + j) = false := fun j hj => by
      have := Nat.testBit_mod_two_pow x.toNat v.toNat j
      rw [hlo, Nat.zero_testBit] at this
      simpa [hj, BitVec.getLsbD] using this.symm
    exact eq_w64 (ctz_eq x hv low (by rwa [Nat.zero_add])).symm

/-- The word that R89 describes for a form of `bcnt` is the one the model computes. -/
theorem eq_bcntOp {f : BitVec 2} {x v : Word}
    (hclz : f = 0 → if x = 0 then v.toNat = 64 else v.toNat < 64 ∧ 2 ^ (63 - v.toNat) ≤ x.toNat ∧ x.toNat < 2 ^ (64 - v.toNat))
    (hctz : f = 1 → if x = 0 then v.toNat = 64 else v.toNat < 64 ∧ x.toNat % 2 ^ v.toNat = 0 ∧ x.getLsbD v.toNat = true)
    (hpop : f = 2 → v.toNat = (List.range 64).countP fun j => x.getLsbD j)
    (hrev : f = 3 → ∀ j < 64, v.getLsbD j = x.getLsbD (63 - j)) : v = bcntOp f x := by
  have forms : f = 0 ∨ f = 1 ∨ f = 2 ∨ f = 3 := by clear hclz hctz hpop hrev; revert f; decide
  rcases forms with rfl | rfl | rfl | rfl
  · exact eq_clz (hclz rfl)
  · exact eq_ctz (hctz rfl)
  · exact eq_w64 ((hpop rfl).trans (popCount_eq_countP 64 x.toNat).symm)
  · exact BitVec.eq_of_getLsbD_eq fun j hj => (hrev rfl j hj).trans (getLsbD_bitRev x hj).symm

/-! ## The instructions -/

theorem alu3_writes_of {s : State} {i : Instr} {d a b : SReg} {f f' : Word → Word → Word} (he : exec i s = issue i (alu3 d a b f) s)
    (hf : ∀ x y, f x y = f' x y) : s.Writes2 i d a b f' := by
  rw [← show f = f' from funext fun x => funext (hf x)]; exact alu3_writes he
theorem alu2_writes_of {s : State} {i : Instr} {d a : SReg} {f f' : Word → Word} (he : exec i s = issue i (alu2 d a f) s)
    (hf : ∀ x, f x = f' x) : s.Writes1 i d a f' := by
  rw [← funext hf]; exact alu2_writes he

/-- `bfi` reads D, A and B in this order (R55) and puts the joined word. -/
theorem bfi_puts {s : State} {g : Sel} {d a b : SReg} (h : s.clear (.bfi g d a b) = true) {z x y : Word × Bool} {k1 k2 : Core}
    (hz : (s.seen (.bfi g d a b)).take d = some (z, k1)) (hx : k1.take2 a b = some (x, y, k2)) :
    s.Puts (.bfi g d a b) d k2 (bfiOp z.1 x.1 y.1) (z.2 || x.2 || y.2) := by
  intro k' hk
  obtain ⟨k3, h3, h2⟩ := Core.take2_some hx
  have hp := State.seen_pair h
  have hp1 := (congrArg Group.pair (Core.take_group hz)).trans hp
  have hp3 := (congrArg Group.pair (Core.take_group h3)).trans hp1
  have hp2 := (congrArg Group.pair (Core.take_group h2)).trans hp3
  refine State.completes_of (l := 1) h rfl ?_ ((congrArg Group.pair (Core.give_group hk)).trans hp2)
  simp only [M.bind_run, rs_take hp hz, rs_take hp1 h3, rs_take hp3 h2, ws_give hp2 hk, M.pure_run, next]

/-- Settles O2: the model's operations are the words that R86, R88 and R89 describe, bit by bit where the rule does so. -/
theorem shiftsExtremesAndBits : Obligations.ShiftsExtremesAndBits := by
  refine ⟨fun s g d a b n => ⟨?shl, ?shlw, ?shr, ?shrw, ?sra, ?sraw, ?rot, ?rotw, ?shli, ?shri, ?srai, ?shliw, ?shriw, ?sraiw,
      ?min, ?minn, ?max, ?maxn⟩,
    fun s g d a b im n f => ⟨?and, ?or, ?xor, ?andn, ?andi, ?ori, ?xori, ?bfx, ?bfi, ?bcnt⟩⟩
  case shl => exact alu3_writes_of rfl shlOp_false
  case shlw => exact alu3_writes_of rfl shlOp_true
  case shr => exact alu3_writes_of rfl shrOp_false
  case shrw => exact alu3_writes_of rfl shrOp_true
  case sra => exact alu3_writes_of rfl sraOp_false
  case sraw => exact alu3_writes_of rfl sraOp_true
  case rot => exact alu3_writes_of rfl rotOp_false
  case rotw => exact alu3_writes_of rfl rotOp_true
  case shli => exact alu2_writes_of rfl fun x => by rw [shlOp_false, amount64]
  case shri => exact alu2_writes_of rfl fun x => by rw [shrOp_false, amount64]
  case srai => exact alu2_writes_of rfl fun x => by rw [sraOp_false, amount64]
  case shliw => exact fun h => alu2_writes_of rfl fun x => by rw [shlOp_true, amount32 h]
  case shriw => exact fun h => alu2_writes_of rfl fun x => by rw [shrOp_true, amount32 h]
  case sraiw => exact fun h => alu2_writes_of rfl fun x => by rw [sraOp_true, amount32 h]
  case min => exact alu3_writes_of rfl minOp_false
  case minn => exact alu3_writes_of rfl minOp_true
  case max => exact alu3_writes_of rfl maxOp_false
  case maxn => exact alu3_writes_of rfl maxOp_true
  case and => exact alu3_writes rfl
  case or => exact alu3_writes rfl
  case xor => exact alu3_writes rfl
  case andn => exact alu3_writes rfl
  case andi => exact alu2_writes rfl
  case ori => exact alu2_writes rfl
  case xori => exact alu2_writes rfl
  case bfx => exact alu3_writes_of rfl fun x y => by rw [bfxOp_eq, fieldLo_eq, fieldLen_eq]
  case bfi =>
    intro h z x y k1 k2 hz hx v hv
    have : v = bfiOp z.1 x.1 y.1 := BitVec.eq_of_getLsbD_eq fun j hj => by
      rw [hv j hj, getLsbD_bfiOp _ _ _ hj, fieldLo_eq, fieldLen_eq]
    rw [this]; exact bfi_puts h hz hx
  case bcnt =>
    intro h x k hx v hclz hctz hpop hrev
    rw [eq_bcntOp hclz hctz hpop hrev]; exact alu2_writes rfl h x k hx

end Sys2Proof.Machine
end

section
/-!
PROOFS. What a kill leaves of every core that its handler's entry reads, and an instruction that stops with a trap, also one that kills
(R103, R311).
-/
namespace Sys2Proof.Machine

/-! ## What the entry of a handler finds after a kill (R103, R311) -/

/-- What the entry of a handler reads of each core beside its level: the registers, which it leaves alone, and `XVEC`. -/
def State.entry (s : State) (c : Nat) : Regs × Word := ((s.core c).regs, (s.core c).csrs.xvec)

theorem State.entry_of_cores {s t : State} (h : t.cores = s.cores) : t.entry = s.entry := by
  unfold State.entry State.core; rw [h]
theorem State.entry_modCore (s : State) (c : Nat) {f : Core → Core} (h : ∀ k, (f k).regs = k.regs ∧ (f k).csrs.xvec = k.csrs.xvec) :
    (s.modCore c f).entry = s.entry := by
  funext d
  by_cases e : d = c
  · subst e; simp [State.entry, h]
  · simp [State.entry, State.core_modCore_of_ne _ _ e]
theorem State.entry_foldl {β : Type} (f : State → β → State) (h : ∀ t x, (f t x).entry = t.entry) (l : List β) (s : State) :
    (l.foldl f s).entry = s.entry := by
  induction l generalizing s with
  | nil => rfl
  | cons x l ih => exact (ih _).trans (h s x)
theorem State.entry_foldl_fst {β γ : Type} (f : State × γ → β → State × γ) (h : ∀ r x, (f r x).1.entry = r.1.entry) (l : List β)
    (r : State × γ) : (l.foldl f r).1.entry = r.1.entry := by
  induction l generalizing r with
  | nil => rfl
  | cons x l ih => exact (ih _).trans (h r x)

/-! ### Updates of the rest of the device -/

@[simp] theorem State.entry_withMem (s : State) (m : Memory) : ({ s with mem := m } : State).entry = s.entry := rfl
@[simp] theorem State.entry_setL1 (s : State) (c : Nat) (l : List L1Line) : (s.setL1 c l).entry = s.entry := rfl
@[simp] theorem State.entry_modPond (s : State) (p : Nat) (f : Pond → Pond) : (s.modPond p f).entry = s.entry := rfl
@[simp] theorem State.entry_modSpring (s : State) (n : Nat) (f : Spring → Spring) : (s.modSpring n f).entry = s.entry := rfl
@[simp] theorem State.entry_modPart (s : State) (p : Nat) (f : Part → Part) : (s.modPart p f).entry = s.entry := rfl
@[simp] theorem State.entry_unlock (s : State) (p id : Nat) (rd : Bool) : (s.unlock p id rd).entry = s.entry := rfl
@[simp] theorem State.entry_setPackets (s : State) (l : List Packet) : (s.setPackets l).entry = s.entry := rfl
@[simp] theorem State.entry_post (s : State) (p : Nat) (src type cause queue seq : Nat) (v : Word) :
    (s.post p src type cause queue seq v).entry = s.entry := rfl
@[simp] theorem State.entry_mark (s : State) (p n : Nat) : (s.mark p n).entry = s.entry := by
  obtain ⟨m, h⟩ := s.mark_eq p n
  rw [h]; rfl
@[simp] theorem State.entry_unmark (s : State) (p n : Nat) : (s.unmark p n).entry = s.entry := rfl
@[simp] theorem State.entry_untag (s : State) (tarn : Bool) (part : Nat) (asid : BitVec 16) (a n : Nat) :
    (s.untag tarn part asid a n).entry = s.entry := rfl
@[simp] theorem State.entry_tag (s : State) (tarn : Bool) (part : Nat) (asid : BitVec 16) (a n : Nat) (r : Rel) :
    (s.tag tarn part asid a n r).entry = s.entry := rfl
@[simp] theorem State.entry_overtake (s : State) (part : Nat) (asid : BitVec 16) (line : Nat) (m : BitVec 64) (o : Option Nat) :
    (s.overtake part asid line m o).entry = s.entry := rfl
@[simp] theorem State.entry_l1Set (s : State) (c : Nat) (l : L1Line) (l' : Option L1Line) : (s.l1Set c l l').entry = s.entry := rfl
@[simp] theorem State.entry_modLine (s : State) (c : Nat) (asid : BitVec 16) (line : Nat) (f : L1Line → L1Line) :
    (s.modLine c asid line f).entry = s.entry := rfl
@[simp] theorem State.entry_l2Put (s : State) (x : L2Line) : (s.l2Put x).entry = s.entry :=
  State.entry_of_cores (s.l2Put_cores x).1
@[simp] theorem State.entry_toRoot (s : State) (n : BarName) (e : Nat × Nat × Nat × Nat) : (s.toRoot n e).entry = s.entry := by
  unfold State.toRoot State.openRoot
  split
  · rfl
  · extract_lets l s1
    refine State.entry_of_cores (s := s) (show s1.cores = s.cores from ?_)
    unfold s1; split <;> rfl
@[simp] theorem State.entry_setBits (s : State) (a e : Nat) (d : Bool) : (s.setBits a e d).entry = s.entry := by
  unfold State.setBits; extract_lets; split <;> rfl
@[simp] theorem State.entry_writeLine (s : State) (p : Nat) (data : BitVec 512) (mask : BitVec 64) (marks : BitVec 16) :
    (s.writeLine p data mask marks).entry = s.entry := by
  unfold State.writeLine
  refine State.entry_foldl _ (fun t i => ?_) ..
  split
  · simp
  · split <;> simp
@[simp] theorem State.entry_touch (s : State) (part chip va : Nat) : (s.touch part chip va).entry = s.entry := by
  unfold State.touch
  extract_lets
  split
  · extract_lets
    split
    · rfl
    · split
      · rfl
      · split <;> rfl
  · rfl
@[simp] theorem State.entry_request (s : State) (spring part : Nat) (gen asid : BitVec 16) (core kind cause : Nat) (acc : BitVec 4)
    (level va : Nat) : (s.request spring part gen asid core kind cause acc level va).1.entry = s.entry := by
  have hw : ∀ (t : State) (r : PageReq), (t.writeFault r).entry = t.entry := by
    intro t r
    unfold State.writeFault
    extract_lets
    split
    · rw [State.entry_modPart, State.entry_withMem]
    · rfl
  unfold State.request
  rw [hw, State.entry_modSpring]
@[simp] theorem State.entry_slogRequest (s : State) (c : Nat) (q : Req) (va cause lvl : Nat) :
    (s.slogRequest c q va cause lvl).entry = s.entry := State.entry_request ..

/-! ### Errors and energy charged to a core -/

@[simp] theorem State.entry_raise (s : State) (c cause : Nat) (v : Word) : (s.raise c cause v).entry = s.entry :=
  State.entry_modCore _ _ fun k => by split <;> simp
@[simp] theorem State.entry_countError (s : State) (c n a : Nat) : (s.countError c n a).entry = s.entry := by
  unfold State.countError
  extract_lets e e' s1
  have h1 : s1.entry = s.entry := State.entry_modCore _ _ fun _ => by exact ⟨rfl, rfl⟩
  split
  · rfl
  · split <;> simp [h1]
@[simp] theorem State.entry_countMet (s : State) (who : Option Nat) (bad : Bool) (a : Nat) : (s.countMet who bad a).entry = s.entry := by
  unfold State.countMet; split
  · simp
  · rfl
@[simp] theorem State.entry_meetError (s : State) (place : Nat) (who : Option Nat) (a : Nat) :
    (s.meetError place who a).entry = s.entry := by
  unfold State.meetError
  extract_lets unit s1
  split
  · rfl
  · have h1 : s1.entry = s.entry := rfl
    rw [State.entry_countMet]
    split <;> simp [h1]
@[simp] theorem State.entry_meetGiven (s : State) (l : L1Line) : (s.meetGiven l).entry = s.entry := by
  unfold State.meetGiven; split <;> simp
@[simp] theorem State.entry_spendFor (s : State) (who : Option Nat) (n : Nat) : (s.spendFor who n).entry = s.entry := by
  unfold State.spendFor; split
  · exact State.entry_modCore _ _ fun _ => by exact ⟨rfl, rfl⟩
  · rfl

/-! ### Translation (R318, R319, R326) -/

@[simp] theorem State.entry_readEntry (s : State) (part va : Nat) (who : Option Nat) (l a : Nat) :
    (s.readEntry part va who l a).1.entry = s.entry := by
  unfold State.readEntry
  extract_lets e s1
  have h1 : s1.entry = s.entry := State.entry_meetError ..
  split
  · exact h1
  · split
    · cases who <;> simp [h1]
    · exact h1
@[simp] theorem State.entry_walkFrom (s : State) (part va : Nat) (who : Option Nat) (fuel l t : Nat) (seen : List (Nat × Nat × Nat)) :
    (s.walkFrom part va who fuel l t seen).1.entry = s.entry := by
  induction fuel generalizing s l t seen with
  | zero => rfl
  | succ fuel ih =>
    have h := s.entry_readEntry part va who l (t + 8 * walkIndex va l)
    simp only [State.walkFrom]
    split
    · exact h
    · split
      · exact h
      · exact (ih ..).trans h
@[simp] theorem State.entry_walked (s : State) (q : Req) (va : Nat) : (s.walked q va).1.entry = s.entry := by
  unfold State.walked
  extract_lets p n
  split
  · rfl
  · extract_lets start r s1
    have h1 : s1.entry = s.entry := State.entry_walkFrom ..
    split
    · exact h1
    · split
      · exact h1
      · simp [h1]
@[simp] theorem State.entry_translate (s : State) (q : Req) (va : Nat) : (s.translate q va).1.entry = s.entry := by
  unfold State.translate
  split
  · rfl
  · extract_lets p n
    split
    · next t _ =>
      split
      · rfl
      · split
        · extract_lets drop
          have hd : ∀ st, (drop st).entry = st.entry := fun _ => rfl
          have h := s.entry_readEntry q.part va q.who t.level t.addr
          split
          next s1 e c hr =>
            rw [hr] at h
            split
            · exact h
            · split
              · simp [hd, h]
              · split
                · exact h
                · simp [h]
        · rfl
    · simp

/-! ### L2 (R134, R141) -/

@[simp] theorem State.entry_l2Meet (s : State) (x : L2Line) (who : Option Nat) (a : Nat) : (s.l2Meet x who a).entry = s.entry := by
  unfold State.l2Meet; split <;> simp
@[simp] theorem State.entry_l2Evict (s : State) (y : L2Line) : (s.l2Evict y).entry = s.entry := by
  unfold State.l2Evict
  extract_lets x s0 s0' q va kept hold
  have h0 : s0'.entry = s.entry := by
    unfold s0'; split
    · exact State.entry_countMet ..
    · rfl
  clear_value s0'
  split
  · exact h0
  · have hh : ∀ st n r f, (hold st n r f).entry = st.entry := fun _ _ _ _ => rfl
    have ht := s0'.entry_translate q va
    split
    · next s1 pa cls hx =>
      rw [hx] at ht
      extract_lets n
      split
      · split <;> simp [hh, ht, h0]
      · simp [ht, h0]
    · next s1 c l hx =>
      rw [hx] at ht
      extract_lets n r
      rw [hh]
      exact (State.entry_request ..).trans (ht.trans h0)
@[simp] theorem State.entry_l2Room (s : State) (part chip va : Nat) (who : Option Nat) : (s.l2Room part chip va who).entry = s.entry := by
  unfold State.l2Room
  split
  · rfl
  · extract_lets l free free'
    split
    · rfl
    · split
      · rw [State.entry_l2Evict]; split <;> simp
      · rfl
@[simp] theorem State.entry_l2Bring (s : State) (q : Req) (va : Nat) : (s.l2Bring q va).1.entry = s.entry := by
  unfold State.l2Bring
  extract_lets line reader s0
  have h0 : s0.entry = s.entry := by unfold s0; split <;> simp
  clear_value s0
  split
  · simp [h0]
  · split
    · dsimp only; split <;> simp [h0]
    · have ht := s0.entry_translate q va
      split
      · next hx => rw [hx] at ht; exact ht.trans h0
      · next s1 pa cls hx =>
        rw [hx] at ht
        extract_lets base s2 p h x
        have h2 : s2.entry = s1.entry := by simp [s2]
        rw [State.entry_spendFor]
        exact h2.trans (ht.trans h0)
/-- A request that no stopped launch keeps is made by what runs now. -/
theorem State.l2Fill_of_running (s : State) {q : Req} (va : Nat) (h : q.kept = none) : s.l2Fill q va = s.l2Bring q va := by
  unfold State.l2Fill; rw [h]
theorem State.entry_l2Fill (s : State) {q : Req} (va : Nat) (h : q.kept = none) : (s.l2Fill q va).1.entry = s.entry := by
  rw [s.l2Fill_of_running va h]; exact s.entry_l2Bring q va

/-! ### Writes of a core at their home slices (R129, R136, R330) -/

@[simp] theorem State.entry_untagMask (s : State) (part : Nat) (asid : BitVec 16) (line : Nat) (m : BitVec 64) :
    (s.untagMask part asid line m).entry = s.entry := by
  unfold State.untagMask
  split
  · rfl
  · exact State.entry_foldl _ (fun t i => by split <;> simp) ..
@[simp] theorem State.entry_tagMask (s : State) (part : Nat) (asid : BitVec 16) (line : Nat) (m : BitVec 64) (r : Rel) :
    (s.tagMask part asid line m r).entry = s.entry :=
  State.entry_foldl _ (fun t i => by split <;> simp) ..
@[simp] theorem State.entry_merged (s : State) (x : L2Line) (w : WriteBack) : (s.merged x w).entry = s.entry := by
  unfold State.merged State.arrived
  extract_lets s1
  have h1 : s1.entry = s.entry := by simp [s1]
  split <;> simp [h1]
@[simp] theorem State.entry_atomicLine (s : State) (x : L2Line) (off op f b : Nat) (bp : Bool) (d : Nat) :
    (s.atomicLine x off op f b bp d).1.entry = s.entry := by
  unfold State.atomicLine
  extract_lets
  split <;> simp
@[simp] theorem State.entry_atomicDone (s : State) (c : Nat) (asid : BitVec 16) (va n : Nat) (rel : Option Rel) :
    (s.atomicDone c asid va n rel).entry = s.entry := by
  unfold State.atomicDone; cases rel <;> rfl

theorem State.entry_slogPut {s t : State} {c kind va oper data : Nat} {marks : BitVec 16} {e : SideEntry}
    (h : s.slogPut c kind va oper data marks e = some t) : t.entry = s.entry := by
  unfold State.slogPut at h
  split at h
  · exact absurd h (by simp)
  · injection h with h
    rw [← h]
    refine (State.entry_modCore _ _ fun _ => by exact ⟨rfl, rfl⟩).trans ?_
    refine (State.entry_foldl _ (fun t i => ?_) ..).trans (State.entry_withMem ..)
    split <;> simp
@[simp] theorem State.entry_slogDrop (s : State) (c i : Nat) : (s.slogDrop c i).entry = s.entry := by
  unfold State.slogDrop
  exact (State.entry_modCore _ _ fun _ => by exact ⟨rfl, rfl⟩).trans (State.entry_withMem ..)
@[simp] theorem State.entry_slogForget (s : State) (c : Nat) : (s.slogForget c).entry = s.entry := by
  unfold State.slogForget
  rw [State.entry_modCore _ _ fun _ => by exact ⟨rfl, rfl⟩, State.entry_foldl (fun st (e : SideEntry) => st.slogDrop c e.num) fun t e => t.entry_slogDrop c e.num]

@[simp] theorem State.entry_sendHome (s : State) (w : WriteBack) : (s.sendHome w).1.entry = s.entry := by
  unfold State.sendHome
  extract_lets va log q
  have hl : ∀ st f, (log st f).1.entry = st.entry := by
    intro st f
    unfold log
    split
    · rfl
    · next h => split <;> simp [State.entry_slogPut h]
  clear_value log
  split
  · rfl
  · split
    · exact hl ..
    · have hf := s.entry_l2Fill (q := q) va rfl
      split
      · next hx => rw [hx] at hf; exact (hl ..).trans hf
      · next hx => rw [hx] at hf; split <;> simp [hf]
@[simp] theorem State.entry_atomicHome (s : State) (c : Nat) (lv : Level) (asid : BitVec 16) (va op f b : Nat) (bp : Bool) (d : Nat)
    (rel : Option Rel) : (s.atomicHome c lv asid va op f b bp d rel).1.entry = s.entry := by
  unfold State.atomicHome
  extract_lets k q log
  have hl : ∀ st fl, (log st fl).1.entry = st.entry := by
    intro st fl
    unfold log
    split
    · rfl
    · next h => split <;> simp [State.entry_slogPut h]
  clear_value log
  split
  · exact hl ..
  · have hf := s.entry_l2Fill (q := q) va rfl
    split
    · next hx => rw [hx] at hf; exact (hl ..).trans hf
    · next hx => rw [hx] at hf; split <;> simp [hf]
@[simp] theorem State.entry_mergeParts (s : State) (c : Nat) (l : L1Line) (ps : List Partial) : (s.mergeParts c l ps).1.entry = s.entry := by
  induction ps generalizing s with
  | nil => rfl
  | cons p ps ih =>
    have h := s.entry_atomicHome c (if p.user then .user else .supervisor) l.asid (l.line * 64 + p.off) p.op p.fn p.value.toNat
      (l.err == some true) 0 (s.fenceRel c)
    simp only [State.mergeParts]
    split
    · next hx => rw [hx] at h; exact (ih _).trans h
    · next hx => rw [hx] at h; exact h
@[simp] theorem State.entry_settle (s : State) (c : Nat) (p : WriteBack → Bool) : (s.settle c p).1.entry = s.entry := by
  refine State.entry_foldl_fst _ (fun r w => ?_) ..
  have h := r.1.entry_sendHome w
  split
  · split
    · next hx => rw [hx] at h; exact h
    · next hx => rw [hx] at h; exact h
  · rfl
@[simp] theorem State.entry_mergeLine (s : State) (c : Nat) (l : L1Line) : (s.mergeLine c l).1.entry = s.entry := by
  unfold State.mergeLine State.mergeLineAs
  have h := s.entry_settle c fun w => w.covers l.asid l.line
  split
  · next hx => rw [hx] at h; exact h
  · next s0 hx =>
    rw [hx] at h
    have hm := s0.entry_mergeParts c l l.parts
    split
    · next hy => rw [hy] at hm; simpa using hm.trans h
    · next hy => rw [hy] at hm; simpa using hm.trans h
@[simp] theorem State.entry_cleanHome (s : State) (c : Nat) (l : L1Line) : (s.cleanHome c l).1.entry = s.entry := by
  unfold State.cleanHome
  have h := s.entry_settle c fun w => w.covers l.asid l.line
  split
  · next hx => rw [hx] at h; exact h
  · next s0 hx =>
    rw [hx] at h
    split
    · exact h
    · extract_lets x
      refine (State.entry_foldl_fst _ (fun r w => ?_) ..).trans (by simpa using h)
      have hw := r.1.entry_sendHome w
      split
      · split
        · next hy => rw [hy] at hw; exact hw
        · next hy => rw [hy] at hw; exact hw
      · rfl
@[simp] theorem State.entry_arriveHome (s : State) (c : Nat) : (s.arriveHome c).1.entry = s.entry := by
  have hm : ∀ t : State, (t.mergeOwn c).1.entry = t.entry := fun t =>
    State.entry_foldl_fst _ (fun r l => by split <;> simp) ..
  have hc : ∀ t : State, (t.cleanOwn c).1.entry = t.entry := fun t =>
    State.entry_foldl_fst _ (fun r l => by split <;> simp) ..
  exact (hc _).trans ((State.entry_settle ..).trans (hm s))
@[simp] theorem State.entry_killHome (s : State) (c n : Nat) : (State.killHome c n s).entry = s.entry := by
  induction n generalizing s with
  | zero => exact s.entry_slogForget c
  | succ n ih =>
    have h := s.entry_arriveHome c
    simp only [State.killHome]
    split
    · next hx => rw [hx] at h; simpa using h
    · next hx => rw [hx] at h; exact (ih _).trans (by simpa using h)

/-! ### The kill -/

@[simp] theorem State.entry_withdraw (s : State) (p : Nat) (x : Cmd) : (s.withdraw p x).entry = s.entry := by
  unfold State.withdraw
  extract_lets s1 s2
  have h2 : s2.entry = s.entry := rfl
  clear_value s2
  split
  · split
    · exact h2
    · simp [h2]
  · exact h2
@[simp] theorem State.entry_cancelQueued (s : State) (c : Nat) : (s.cancelQueued c).entry = s.entry := by
  unfold State.cancelQueued
  extract_lets s1
  have h1 : s1.entry = s.entry := State.entry_foldl _ (fun t x => by
    split
    · rfl
    · exact (State.entry_modCore _ _ fun _ => by exact ⟨rfl, rfl⟩).trans (t.entry_withdraw ..)) ..
  refine (State.entry_foldl _ (fun t x => ?_) ..).trans h1
  split
  · extract_lets st1 st2
    have h2 : st2.entry = t.entry := by
      unfold st2
      split
      · split
        · rfl
        · exact (State.entry_toRoot ..).trans rfl
      · rfl
    exact h2
  · rfl
/-- A kill changes no register and no `XVEC` of any core, and leaves its own core killed (R311). -/
theorem State.entry_kill (s : State) (c cause : Nat) (v : Word) (type : Nat) : (s.kill c cause v type).entry = s.entry := by
  unfold State.kill
  extract_lets s1 s2 writes s3 s4 s5 t
  have h2 : s2.entry = s1.entry := State.entry_modCore _ _ fun _ => by exact ⟨rfl, rfl⟩
  have h5 : s5.entry = s4.entry := State.entry_modCore _ _ fun _ => by exact ⟨rfl, rfl⟩
  simp [h5, s4, s3, h2, s1]
theorem State.kill_killed (s : State) (c cause : Nat) (v : Word) (type : Nat) : ((s.kill c cause v type).core c).killed = true := by
  unfold State.kill State.post
  extract_lets s1 s2 writes s3 s4 s5
  rw [State.core_modPart]
  unfold s5
  rw [State.core_modCore]

/-! ## Instructions that stop with a trap, also one that kills (R103, R311) -/

/-- An instruction whose effect stops with a trap at user level: the core, as the instruction found it and past its own cycle, enters
the handler. -/
theorem State.exec_trap {s : State} {i : Instr} {body : M Done} {k : Core} {cause : Nat} {xval : Word} (h : s.clear i = true)
    (he : exec i s = issue i body s) (hb : body (s.setCore s.cur (s.seen i)) = .error (.trap cause xval) (s.setCore s.cur k))
    (hk : (s.seen i).rewind k = s.seen i) :
    exec i s = .next ((s.setCore s.cur ((s.seen i).tick 1)).enterTrap s.cur cause xval (s.core s.cur).pc) := by
  have hs := State.clear_streams h
  obtain ⟨_, _, _, hp, _⟩ := (s.clear_iff i).mp h
  obtain ⟨_, _, ig, iv, _⟩ := (s.core s.cur).interlock_fields i
  have hst : ((s.core s.cur).interlock i).streams = false := by rw [← hs]; simp [Core.streams, ig, iv]
  have hc : ∀ t : State, t.chargePair i ((s.core s.cur).interlock i) = t := fun t => by simp [State.chargePair, ig, hp]
  have hp' : ((s.seen i).tick 1).group.pair = .none := State.seen_pair h
  have hpc : ((s.seen i).tick 1).pc = (s.core s.cur).pc := State.seen_pc s i
  rw [he, issue, State.issueAt_clear body h, hb]
  simp [State.modCore_eq, hk, State.trapAt, hst, hc, hp', hpc]

/-- A consumption of poison at user level by a core in no pair: the task is killed, and its core enters the handler (R103, R311). -/
theorem State.enterTrap_poison (s : State) (c : Nat) (xval xpc : Word) (hl : (s.core c).level = .user)
    (hp : (s.core c).group.pair = .none) :
    s.enterTrap c 0x0E xval xpc = (s.kill c 0x0E xval 4).modCore c fun k => k.takeTrap 0x0E xval xpc := by
  simp [State.enterTrap, hl, hp]

theorem Core.tick_xvec (k : Core) (n : Nat) : (k.tick n).csrs.xvec = k.csrs.xvec := by
  unfold Core.tick; cases k.level <;> rfl
theorem State.seen_regs (s : State) (i : Instr) : (s.seen i).regs = (s.core s.cur).regs := by
  obtain ⟨_, _, _, cr, _⟩ := ((s.core s.cur).interlock i).charge_fields i
  obtain ⟨_, _, _, _, ir, _⟩ := (s.core s.cur).interlock_fields i
  exact cr.trans ir

/-- The killed task's core in its handler (R103): the cause, the value and the instruction's address saved, and its registers as the
instruction found them. -/
theorem State.poison_kills {s : State} {i : Instr} {body : M Done} {k : Core} {xval : Word} (h : s.clear i = true)
    (he : exec i s = issue i body s) (hb : body (s.setCore s.cur (s.seen i)) = .error (.trap 0x0E xval) (s.setCore s.cur k))
    (hk : (s.seen i).rewind k = s.seen i) (hu : (s.core s.cur).level = .user) :
    ∃ t, exec i s = .next t ∧ (t.core s.cur).killed = true ∧ (t.core s.cur).level = .supervisor ∧
      (t.core s.cur).pc = (s.core s.cur).csrs.xvec ∧ (t.core s.cur).csrs.xpc = (s.core s.cur).pc &&& ~~~3 ∧
      (t.core s.cur).csrs.xcause = 0x0E ∧ (t.core s.cur).csrs.xval = xval ∧ (t.core s.cur).regs = (s.core s.cur).regs := by
  have hx := State.exec_trap h he hb hk
  have hl : ((s.setCore s.cur ((s.seen i).tick 1)).core s.cur).level = .user := by
    rw [State.core_setCore]; exact (State.seen_level s i).trans hu
  have hp : ((s.setCore s.cur ((s.seen i).tick 1)).core s.cur).group.pair = .none := by
    rw [State.core_setCore]; exact State.seen_pair h
  rw [State.enterTrap_poison _ _ _ _ hl hp] at hx
  refine ⟨_, hx, ?_⟩
  have kept := congrFun (State.entry_kill (s.setCore s.cur ((s.seen i).tick 1)) s.cur 0x0E xval 4) s.cur
  simp only [State.entry, State.core_setCore, Prod.mk.injEq, Core.tick_xvec, State.seen_xvec] at kept
  have dead := State.kill_killed (s.setCore s.cur ((s.seen i).tick 1)) s.cur 0x0E xval 4
  rw [State.core_modCore]
  generalize ((s.setCore s.cur ((s.seen i).tick 1)).kill s.cur 0x0E xval 4).core s.cur = q at kept dead ⊢
  obtain ⟨regs, xvec⟩ := kept
  exact ⟨dead, rfl, xvec, rfl, rfl, rfl, regs.trans (State.seen_regs s i)⟩

end Sys2Proof.Machine
end

section
/-!
PROOFS. The transfers and the checks of `jr` (R75, R96, R97).
-/
namespace Sys2Proof.Machine

/-! ## Transfers (R75, R96, R97) -/

theorem branchTarget_eq (pc : Word) (o : BitVec 22) : branchTarget pc o = BitVec.ofInt 64 (pc.toInt + 4 * o.toInt) := by
  have shift : (o.signExtend 64 : Word) <<< 2 = BitVec.ofInt 64 (4 * o.toInt) := by
    rw [BitVec.shiftLeft_eq_mul_twoPow, BitVec.ofInt_mul, BitVec.mul_comm]; rfl
  rw [branchTarget, shift, BitVec.ofInt_add, BitVec.ofInt_toInt]

theorem Core.take_pc_level {k k1 : Core} {r : SReg} {x : Word × Bool} (h : k.take r = some (x, k1)) :
    k1.pc = k.pc ∧ k1.level = k.level := by
  unfold Core.take at h
  split at h
  · injection h with h; injection h with _ h; subst h; exact ⟨rfl, rfl⟩
  · split at h
    · exact absurd h (by simp)
    · split at h
      · exact absurd h (by simp)
      · injection h with h; injection h with _ h; subst h; exact ⟨rfl, rfl⟩
theorem Core.give_level {k k2 : Core} {u : Nat} {r : SReg} {v : Word} {p : Bool} (h : k.give u r v p = some k2) :
    k2.level = k.level := by
  unfold Core.give at h
  simp only at h
  split at h
  · cases h; rfl
  · split at h
    · exact absurd h (by simp)
    · split at h
      · split at h
        · exact absurd h (by simp)
        · split at h
          · exact absurd h (by simp)
          · cases h; rfl
      · split at h
        · exact absurd h (by simp)
        · cases h; rfl

theorem br_jumps (s : State) (g : Sel) (o : BitVec 22) :
    s.Jumps (.br g o) (s.seen (.br g o)) (BitVec.ofInt 64 ((s.core s.cur).pc.toInt + 4 * o.toInt)) := by
  rw [← branchTarget_eq]
  refine State.jumps_of (l := 1) rfl ?_ rfl rfl
  simp [flow, State.seen_pc]
theorem call_jumps (s : State) (g : Sel) (o : BitVec 22) :
    s.Jumps (.call g o)
      { s.seen (.call g o) with regs := (s.seen (.call g o)).regs.setScalar 58 ((s.core s.cur).pc + 4) false }
      (BitVec.ofInt 64 ((s.core s.cur).pc.toInt + 4 * o.toInt)) := by
  rw [← branchTarget_eq]
  refine State.jumps_of (l := 1) rfl ?_ rfl rfl
  simp [flow, State.seen_pc, ws, State.modCore_eq]

/-- The effect of `jr` (R97): its checks in their order, then the link, then the transfer. -/
def jrBody (d a : SReg) : M Done := do
  let x ← rs a
  let pc := (← getC).pc
  require (!x.2) 0x0E (w64 a.toNat)
  require (x.1.toNat % 4 == 0) 0x03 x.1
  require (bits x.1.toNat 57 7 == 0) 0x07 x.1
  ws d (pc + 4) false
  return flow (.taken x.1)

theorem exec_jr (g : Sel) (d a : SReg) (s : State) : exec (.jr g d a) s = issue (.jr g d a) (jrBody d a) s := rfl

theorem aboveAddresses_iff (x : Word) : (bits x.toNat 57 7 == 0) = decide (x.toNat < 2 ^ 57) := by
  have := x.isLt
  rw [Bool.eq_iff_iff, beq_iff_eq, decide_eq_true_iff, bits]
  omega

section
variable {s : State} {g : Sel} {d a : SReg} {x : Word × Bool} {k : Core}

/-- What `jr` does once it has read its address. -/
theorem jrBody_run (h : s.clear (.jr g d a) = true) (hx : (s.seen (.jr g d a)).take a = some (x, k)) :
    jrBody d a (s.setCore s.cur (s.seen (.jr g d a))) =
      (if x.2 then .error (.trap 0x0E (a.setWidth 64)) (s.setCore s.cur k)
      else if x.1.toNat % 4 ≠ 0 then .error (.trap 0x03 x.1) (s.setCore s.cur k)
      else if ¬ x.1.toNat < 2 ^ 57 then .error (.trap 0x07 x.1) (s.setCore s.cur k)
      else (ws d ((s.core s.cur).pc + 4) false >>= fun _ => pure (flow (.taken x.1)) : M Done) (s.setCore s.cur k)) := by
  have hpc : k.pc = (s.core s.cur).pc := (Core.take_pc_level hx).1.trans (State.seen_pc ..)
  have hw : w64 a.toNat = a.setWidth 64 := BitVec.ofNat_toNat ..
  simp only [jrBody, M.bind_run, rs_take (State.seen_pair h) hx, getC_run, State.setCore_cur, State.core_setCore, hpc, hw,
    aboveAddresses_iff]
  generalize 2 ^ 57 = bound
  cases x.2 with
  | true => rfl
  | false =>
    by_cases h4 : x.1.toNat % 4 = 0
    · by_cases h57 : x.1.toNat < bound <;> simp [h4, h57]
    · have := beq_false_of_ne h4
      simp [this, h4]

theorem Core.rewind_self (k : Core) : k.rewind k = k := rfl
/-- A stop of `jr` leaves nothing of its read. -/
theorem jr_rewind (hx : (s.seen (.jr g d a)).take a = some (x, k)) : (s.seen (.jr g d a)).rewind k = s.seen (.jr g d a) :=
  Core.rewind_take (Core.rewind_self _) hx

theorem jr_jumps {k' : Core} (hx : (s.seen (.jr g d a)).take a = some (x, k)) (hq : x.2 = false) (h4 : x.1.toNat % 4 = 0)
    (h57 : x.1.toNat < 2 ^ 57) (hk : k.give (s.owed d) d ((s.core s.cur).pc + 4) false = some k') : s.Jumps (.jr g d a) k' x.1 := by
  intro h
  have hp := (congrArg Group.pair (Core.take_group hx)).trans (State.seen_pair h)
  refine State.jumps_of (l := 1) (exec_jr ..) ?_ ((Core.give_group hk).trans (Core.take_group hx))
    ((Core.give_level hk).trans (Core.take_pc_level hx).2) h
  rw [jrBody_run h hx, if_neg (by simp [hq]), if_neg (Decidable.not_not.mpr h4), if_neg (Decidable.not_not.mpr h57), M.bind_run, ws_give hp hk]
  rfl

theorem jr_poisoned_kills (h : s.clear (.jr g d a) = true) (hx : (s.seen (.jr g d a)).take a = some (x, k)) (hq : x.2 = true)
    (hu : (s.core s.cur).level = .user) :
    ∃ t, exec (.jr g d a) s = .next t ∧ (t.core s.cur).killed = true ∧ (t.core s.cur).level = .supervisor ∧
      (t.core s.cur).pc = (s.core s.cur).csrs.xvec ∧ (t.core s.cur).csrs.xpc = (s.core s.cur).pc &&& ~~~3 ∧
      (t.core s.cur).csrs.xcause = 0x0E ∧ (t.core s.cur).csrs.xval = a.setWidth 64 ∧
      (t.core s.cur).regs = (s.core s.cur).regs :=
  State.poison_kills h (exec_jr ..) (by rw [jrBody_run h hx, if_pos hq]) (jr_rewind hx) hu
theorem jr_misaligned_traps (h : s.clear (.jr g d a) = true) (hx : (s.seen (.jr g d a)).take a = some (x, k)) (hq : x.2 = false)
    (h4 : x.1.toNat % 4 ≠ 0) : s.Traps (.jr g d a) 0x03 x.1 :=
  State.traps_of h (exec_jr ..) (by rw [jrBody_run h hx, if_neg (by simp [hq]), if_pos h4]) (jr_rewind hx) (by decide) (by decide)
theorem jr_beyond_traps (h : s.clear (.jr g d a) = true) (hx : (s.seen (.jr g d a)).take a = some (x, k)) (hq : x.2 = false)
    (h4 : x.1.toNat % 4 = 0) (h57 : 2 ^ 57 ≤ x.1.toNat) : s.Traps (.jr g d a) 0x07 x.1 :=
  State.traps_of h (exec_jr ..) (by
    rw [jrBody_run h hx, if_neg (by simp [hq]), if_neg (Decidable.not_not.mpr h4), if_pos (Nat.not_lt.mpr h57)]) (jr_rewind hx) (by decide) (by decide)
end

/-- Settles O6: the transfers reach their targets, and each check of `jr` stops it where those before it pass. -/
theorem transfersReachTheirTargets : Obligations.TransfersReachTheirTargets :=
  ⟨fun s g o _ _ => ⟨br_jumps s g o, call_jumps s g o, fun _ _ _ hx hq h4 h57 hk => jr_jumps hx hq h4 h57 hk⟩,
    fun _ _ _ _ _ _ h hx =>
      ⟨jr_poisoned_kills h hx, jr_misaligned_traps h hx, jr_beyond_traps h hx⟩⟩

end Sys2Proof.Machine
end
